-- ==== Sys2Proof/Word.lean ====
section
/-! DEFINITION. The word types and the one sparse-map type of the model. -/

namespace Sys2Proof

/-- One byte of any storage of Ryrax (R16). -/
abbrev Byte := BitVec 8

/-- A device address of the flat 48-bit space (R32). -/
abbrev Addr := BitVec 48

/-- A map from natural keys, listed with strictly rising keys; a key that is not listed has the map's default. -/
abbrev KMap (α : Type) := List (Nat × α)

end Sys2Proof
end

