-- ==== Sys2Proof/Syntax.lean ====
section
/-! DEFINITION. The commands of Ryrax: one constructor of Instr per row of the operation table, with its operands.
A row the manual describes as an event (a packet arrives, a timer expires) is a command too: its sender is the environment. -/

namespace Sys2Proof

/-- A tile by its logical coordinates (R21): x 0-63, y 0-35. -/
structure TileId where
  x : Fin 64
  y : Fin 36
  deriving DecidableEq, Repr

/-- A master of the device (R37, R14, R171): each task and each stream engine of a tile is one of its own. DESIGN CHOICE: a remote node
that enters at both port dies counts as two masters for the latches of R12 (log entry 114). -/
inductive Master where
  | task (t : TileId) (k : Fin 8)
  | stream (t : TileId)
  /-- a host, fabric peer or twin, by node id, entering at port die p -/
  | remote (node : BitVec 16) (p : Fin 2)
  | baseDie (s : Fin 16)
  | portDie (p : Fin 2)
  | mgmt
  deriving DecidableEq, Repr

/-- What MASTER_ACCESS serves: an access named outright, or one a tile or its stream engine has in flight. -/
inductive Access where
  | read (m : Master) (a : Addr) (len : Nat)
  | write (m : Master) (a : Addr) (data : List Byte)
  | tileOp (t : TileId) (tag : Nat)
  | streamReq (t : TileId) (id : Nat)
  deriving DecidableEq, Repr

/-- A mesh packet named by the operation that sent it (R467, R493). -/
inductive PktRef where
  | tileOp (t : TileId) (tag : Nat)
  /-- a stream's request or its response; once a natural home has forwarded a lookup (R224), the forwarded packet -/
  | streamReq (t : TileId) (id : Nat)
  /-- a packet of a base die, port die or the management engine, by SOURCE code (R462), between it and a device address -/
  | unitOp (src : BitVec 16) (dest : Addr) (answer : Bool)
  /-- chunk c of the program image that the loader is sending -/
  | chunk (c : Nat)
  /-- the copy for tile t of a multicast record, past the last branch of its tree -/
  | mcast (t : TileId) (id : Nat)
  deriving DecidableEq, Repr

/-- How a flash operation ended (R434). -/
inductive FlashEnd where
  | ok | mismatch | xspi
  deriving DecidableEq, Repr

/-- How the wait for an AVSBus voltage change ends (R395): the regulator reports completion, the 200 µs pass, or the
transaction does not complete. -/
inductive AvsEnd where
  | complete | expired | failed
  deriving DecidableEq, Repr

/-- Which Falcon-1024 signature a start verifies (R420, R423, R437, R449, R452). -/
inductive SigRef where
  | manifest (copy : Fin 2) | image (slot : Fin 2) | licence (n : Fin 16) | owner (n : Fin 8)
  /-- of the field log's SEAL in a unit of its ring, under DEVICE_PUBKEY -/
  | logSeal (unit : Nat)
  deriving DecidableEq, Repr

/-- What training found in one stack (R276, R277, R279): lanes as (channel, lane). -/
structure StackTrain where
  dataFail : List (Nat × Nat) := []
  caFail : List (Nat × Nat) := []
  patternFail : List Nat := []
  failed : Bool := false
  deriving DecidableEq, Repr

/-- A sampled set of sensor and regulator readings (R404, R405, R494): (die, °C), (tile code, °C of the sensor that covers it),
(rail, (mV, A)), (stack, (DRAM °C, logic °C)). -/
structure Readings where
  die : List (Nat × Nat) := []
  tiles : List (Nat × Nat) := []
  rails : List (Nat × (Nat × Nat)) := []
  dram : List (Nat × (Nat × Nat)) := []
  deriving DecidableEq, Repr

/-- A twin pairing message (R350): MODE, ROLE, PAIR_NODE, the pair digest, and whether its sender is already SOLO. -/
structure PairMsg where
  mode : Fin 4
  role : Bool
  pairNode : BitVec 16
  digest : List Byte
  solo : Bool
  deriving DecidableEq, Repr

/-- A Clause 73 next page (R291): the OUI-tagged message page, of message code 5, bits 10 to 0 of an unformatted page, the null
message page, or any other. -/
inductive AnPage where
  | oui (oui : BitVec 24)
  | unformatted (bits : BitVec 11)
  | null
  | other
  deriving DecidableEq, Repr
/-- What the partner of a port advertises: 800GBASE-CR8 with its NP bit in the base page, and its next pages. -/
structure XrAdvert where
  base : Bool := false
  pages : List AnPage := []
  deriving DecidableEq, Repr
/-- A context: one of R301, or context 0 of host port h in diagnostic mode, 2^20 + h (R429). -/
abbrev CtxId := Fin 1048578

/-- What a PMBus target answers to a read word: the word, and the PEC that follows it (R382, R486). -/
structure PmbWord where
  word : BitVec 16
  pec : Byte
  deriving DecidableEq, Repr

/-- What the outside answers while a start sequence runs (R426, R431). -/
structure StartEnv where
  /-- Falcon verifications that succeed; every other one fails. -/
  sigs : List SigRef := []
  /-- the die keys k_d the PUF measurement reconstructs, d = 0..21 (R441) -/
  dieKeys : List (List Byte) := []
  /-- slots whose body read meets an xSPI error (R424 WHY 5) -/
  xspiBad : List (Fin 2) := []
  /-- physical rows that fail BIST, as (compute die, row) (R23) -/
  bist : List (Nat × Nat) := []
  /-- trained rate code of LINK.RATE per port (0 down) and what the partner advertised (R291) -/
  links : List (Nat × (Nat × XrAdvert)) := []
  /-- ports that fell back from the extended rate (R292) -/
  xrFell : List Nat := []
  train : List (Nat × StackTrain) := []
  /-- words the hold-up controller answers, in LINEAR11: 0xD0, and 0xD2 after a discharge test; none is not acknowledged (R382) -/
  holdup : Option PmbWord := none
  discharge : Option PmbWord := none
  /-- flash devices whose SFDP tables advertise 8D-8D-8D (R484) -/
  octal : List (Fin 2) := []
  /-- PFAIL_N falls before the journal has been restored (R385, R410) -/
  pfail : Bool := false
  /-- ONFI channels that answer READ ID and erase the slot (R386) -/
  channels : List (Fin 2) := []
  /-- AVSBus transactions that do not complete (R395) -/
  avsBad : List Nat := []
  /-- halves of the twin link that come up, and the partner's pairing message if one arrives (R350) -/
  halves : List (Fin 2) := []
  pair : Option PairMsg := none
  /-- the partner's restored journal entries of paired queues: (CTX, MSN, ORD) (R390) -/
  peerJournal : List (Nat × Nat × Nat) := []
  /-- NAND blocks found bad: (channel, block) (R386) -/
  badBlocks : List (Fin 2 × Nat) := []
  readings : Readings := {}
  /-- milliseconds from reset release to READY (R428) -/
  readyMs : Nat := 0
  deriving DecidableEq, Repr

/-- A differing row as the partner has it: its slot, whether a MEM_UE event of the partner touches it, and for a retained row
whether the partner's recomputation gives its slot (R368). -/
structure PeerRow where
  table : BitVec 16
  index : Nat
  slot : List Byte
  ue : Bool := false
  agrees : Option Bool := none
  deriving DecidableEq, Repr

/-- A 1 MiB block of an area as the partner has it: its digest, its bytes, and whether a MEM_UE event of the partner touches it. -/
structure PeerBlock where
  area : Fin 16
  block : Nat
  digest : BitVec 128
  bytes : List Byte
  ue : Bool := false
  deriving DecidableEq, Repr

/-- What the partner brings to the resolution of a differing device digest, over STATE and REPAIR (R367, R368). -/
structure Repair where
  /-- the digest belongs to a baseline (R366) -/
  base : Bool := false
  /-- TD(t) and AD(k) -/
  tds : List (BitVec 16 × BitVec 128) := []
  ads : List (Fin 16 × BitVec 128) := []
  /-- block digests of tables: (table, stack, block number, digest) -/
  blocks : List (BitVec 16 × Fin 16 × Nat × BitVec 128) := []
  rows : List PeerRow := []
  areas : List PeerBlock := []
  deriving DecidableEq, Repr

/-- A migration directory entry that one device of a pair brings to the other (R224, R370, R374): STATE as MIGDIR codes it, and for
FORWARD the former location, which holds the entry. -/
structure DirEnt where
  table : BitVec 16
  index : Nat
  stack : Fin 16
  st : Fin 5
  addr : Addr
  old : Fin 16 × Addr := (0, 0)
  deriving DecidableEq, Repr

/-- A journal entry that a rejoin copies: what it holds, and TAIL after its delivered copy, if there is one (R374, R390). -/
structure JCopy where
  queue : Fin 16384
  ctx : BitVec 20
  msn : BitVec 32
  ord : BitVec 32
  tail : Option (BitVec 32)
  bytes : List Byte
  deriving DecidableEq, Repr

/-- What the end of a rejoin brings beside tables, areas, rings and job steps (R374, R390): (queue, HEAD, TAIL, ORD) of each paired
queue, (context, NEXT_MSN, OUTCOME) of the SOLO device's MSN table, and its journal entries of paired queues. -/
structure RejoinCopy where
  queues : List (Fin 16384 × BitVec 32 × BitVec 32 × BitVec 32) := []
  msns : List (BitVec 20 × BitVec 32 × BitVec 256) := []
  journal : List JCopy := []
  deriving DecidableEq, Repr

/-- What a granule write brings: the bytes, and the symbols of the stored granule found bad by a write that reads it first (R273). -/
structure GranuleStore where
  data : List Byte
  bad : List (Fin 68 × Byte) := []
  deriving DecidableEq, Repr
/-- What a patrol pass meets, by granule of the stack: symbols that have gone bad before it comes by, and behind it (R274, R275). -/
structure ScrubFinds where
  bad : List (Nat × List (Fin 68 × Byte)) := []
  later : List (Nat × List (Fin 68 × Byte)) := []
  deriving DecidableEq, Repr
/-- The FEC codewords that a port's PCS has corrected, and found uncorrectable, since it last said so (R322). -/
abbrev FecCount := Nat × Nat
/-- A link that falls: its port, and what its PCS has counted. -/
structure LinkFall where
  port : Fin 18
  fec : FecCount := (0, 0)
  deriving DecidableEq, Repr
/-- What a port's training brings beside its rate: what the partner advertises, and what the PCS has counted. -/
structure LinkPeer where
  xr : XrAdvert := {}
  fec : FecCount := (0, 0)
  deriving DecidableEq, Repr
/-- A context that is to be fetched, and whether its copy in the cache is found uncorrectable (R302, R459). -/
structure CtxRead where
  ctx : CtxId
  ue : Bool := false
  deriving DecidableEq, Repr
/-- A delivery by port die `die`, and whether the item's bytes in the ingress SRAM are found uncorrectable (R332, R459). -/
structure DieDelivery where
  die : Fin 2
  ue : Bool := false
  deriving DecidableEq, Repr
/-- How the NAND took a flush: channels that completed, and blocks that failed to program, by channel (R386). -/
structure NandDone where
  channels : List (Fin 2)
  bad : List (Fin 2 × Nat) := []
  deriving DecidableEq, Repr
/-- An I3C private write, and one of the transfers of the bus to which the target may answer; `hdr`: the traffic lies between an HDR
entry and the HDR exit pattern (R487). -/
structure I3cWrite where
  bytes : List Byte
  hdr : Bool := false
  deriving DecidableEq, Repr
structure I3cRead where
  n : Nat
  hdr : Bool := false
  deriving DecidableEq, Repr
/-- SETDASA and ENTDAA: the dynamic address, and for SETDASA the static address it names (R471). -/
structure I3cAssign where
  dyn : BitVec 7
  static : BitVec 7 := 0x3A
  hdr : Bool := false
  deriving DecidableEq, Repr
/-- What the boundary-scan cells see: the levels at the pins and lanes, what the lanes' test receivers find, cell by cell, and whether
the partner's module is powered (R488, R490). -/
structure Outside where
  pins : List Bool := []
  lanes : List Bool := []
  partner : Bool := false
  deriving DecidableEq, Repr
/-- The scan of the boundary register under SAMPLE/PRELOAD: what it captures and what is shifted in (R488). -/
structure BoundaryScan where
  shift : List Bool
  outside : Outside := {}
  deriving DecidableEq, Repr

/-- The commands: one constructor per row of the operation table. -/
inductive Instr where
  | registerWrite (m : Master) (a : Addr) (data : List Byte)
  | masterAccess (acc : Access)
  | twinWindowAccess (m : Master) (a : Addr) (len : Nat) (data : Option (List Byte))
  | granuleRead (m : Master) (a : Addr) (bad : List (Fin 68 × Byte))
  | granuleWrite (m : Master) (a : Addr) (data : GranuleStore)
  | meshPacketReceive (site : TileId) (port : Fin 7) (vc : Fin 4) (crcOk : Bool) (pkt : PktRef)
  | operationResend (pkt : PktRef)
  | nop (t : TileId) (busy : BitVec 8)
  | alu (t : TileId) (busy : BitVec 8)
  | alui (t : TileId) (busy : BitVec 8)
  | addr (t : TileId) (busy : BitVec 8)
  | ld (t : TileId) (busy : BitVec 8)
  | st (t : TileId) (busy : BitVec 8)
  | gld (t : TileId) (busy : BitVec 8)
  | gldResponse (t : TileId) (tag : Nat)
  | gst (t : TileId) (busy : BitVec 8)
  | gstAck (t : TileId) (tag : Nat)
  | fence (t : TileId) (busy : BitVec 8)
  | br (t : TileId) (busy : BitVec 8)
  | j (t : TileId) (busy : BitVec 8)
  | jal (t : TileId) (busy : BitVec 8)
  | jr (t : TileId) (busy : BitVec 8)
  | treg (t : TileId) (busy : BitVec 8)
  | spawn (t : TileId) (busy : BitVec 8)
  | kill (t : TileId) (busy : BitVec 8)
  | yield (t : TileId) (busy : BitVec 8)
  | tset (t : TileId) (busy : BitVec 8)
  | tsetr (t : TileId) (busy : BitVec 8)
  | tadd (t : TileId) (busy : BitVec 8)
  | ttake (t : TileId) (busy : BitVec 8)
  | tread (t : TileId) (busy : BitVec 8)
  | progress (t : TileId) (busy : BitVec 8)
  | send (t : TileId) (busy : BitVec 8)
  | messageArrival (t : TileId) (tag : Nat)
  | sendAccepted (t : TileId) (tag : Nat)
  | sendRefused (t : TileId) (tag : Nat)
  | messageResend (t : TileId) (tag : Nat)
  | recv (t : TileId) (busy : BitVec 8)
  | mboxCfg (t : TileId) (busy : BitVec 8)
  | mboxStat (t : TileId) (busy : BitVec 8)
  | halt (t : TileId) (busy : BitVec 8)
  | tokenWrite (m : Master) (t : TileId) (tok : Fin 64) (v : BitVec 32)
  | tokenInc (m : Master) (t : TileId) (tok : Fin 64) (v : BitVec 32)
  | load (q : Fin 16384)
  | chunk (t : TileId) (c : Nat)
  | seal (t : TileId)
  | imageHashDone (t : TileId)
  | loaderReply (t : TileId)
  | loaderRoundTimeout
  | start (t : TileId)
  | abandon (t : TileId)
  | lagSample
  | mwld (t : TileId) (busy : BitVec 8)
  | mma (t : TileId) (busy : BitVec 8)
  | mbwd (t : TileId) (busy : BitVec 8)
  | morth (t : TileId) (busy : BitVec 8)
  | matrixStart (t : TileId) (loadPath : Bool)
  | matrixComplete (t : TileId) (loadPath : Bool)
  | vadd (t : TileId) (busy : BitVec 8)
  | vmul (t : TileId) (busy : BitVec 8)
  | vfma (t : TileId) (busy : BitVec 8)
  | vcmp (t : TileId) (busy : BitVec 8)
  | vsel (t : TileId) (busy : BitVec 8)
  | vminmax (t : TileId) (busy : BitVec 8)
  | vred (t : TileId) (busy : BitVec 8)
  | vmov (t : TileId) (busy : BitVec 8)
  | vsieve (t : TileId) (busy : BitVec 8)
  | vexpand (t : TileId) (busy : BitVec 8)
  | vupd (t : TileId) (busy : BitVec 8)
  | cvt (t : TileId) (busy : BitVec 8)
  | cvtq (t : TileId) (busy : BitVec 8)
  | cvtdq (t : TileId) (busy : BitVec 8)
  | vectorStart (t : TileId)
  | vectorComplete (t : TileId) (i : Nat)
  | sarm (t : TileId) (busy : BitVec 8)
  | srel (t : TileId) (busy : BitVec 8)
  | scan (t : TileId) (busy : BitVec 8)
  | scanComplete (t : TileId)
  | sstat (t : TileId) (busy : BitVec 8)
  | streamRequest (t : TileId) (q : Fin 32)
  | streamResponse (t : TileId) (id : Nat)
  | streamSend (t : TileId) (q : Fin 32)
  | streamAck (t : TileId) (q : Fin 32)
  | streamTimeout (t : TileId) (id : Nat)
  | shadowTakeEffect (t : TileId) (q : Fin 32)
  | chainActivate (t : TileId) (q : Fin 32)
  | armCredit (t : TileId) (q : Fin 32)
  | armCreditResend (t : TileId) (q : Fin 32)
  | releaseCredit (t : TileId) (q : Fin 32)
  | detach (t : TileId) (q : Fin 32)
  | cancelMarker (t : TileId) (q : Fin 32)
  | lookupRequest (t : TileId) (id : Nat)
  | pushRecord (i : Nat)
  | migMove (m : Master) (s : Fin 16) (table : BitVec 16) (index : BitVec 40) (target : Fin 16)
  | migPin (m : Master) (s : Fin 16) (table : BitVec 16) (index : BitVec 40)
  | migUnpin (m : Master) (s : Fin 16) (table : BitVec 16) (index : BitVec 40)
  | migReturn (m : Master) (s : Fin 16) (table : BitVec 16) (index : BitVec 40)
  | sweepUpdate (job : Fin 16)
  | masterScrub (master working : Addr) (inFlight : Bool)
  | stepStart (q : Fin 16384)
  | sweep (q : Fin 16384)
  | commit (q : Fin 16384)
  | fenceCommand (q : Fin 16384)
  | allGather (q : Fin 16384)
  | allToAll (q : Fin 16384)
  | allReduce (q : Fin 16384)
  | reduceScatter (q : Fin 16384)
  | arrive (m : Master) (job : Fin 16)
  | lossScaleSet (m : Master) (job : Fin 16) (v : BitVec 32)
  | segmentRecord (i : Nat)
  | endMarker (i : Nat)
  | report (port : Fin 18) (frame : List Byte)
  | partialSeg (port : Fin 18) (frame : List Byte)
  | result (port : Fin 18) (frame : List Byte)
  | vote (port : Fin 18) (frame : List Byte)
  | counts (port : Fin 18) (frame : List Byte)
  | data (port : Fin 18) (frame : List Byte)
  | shardsum (port : Fin 18) (frame : List Byte)
  | live (port : Fin 18) (frame : List Byte)
  | voteCast (job : Fin 16)
  | voteTimeout (job : Fin 16)
  | arrivalsTimeout (q : Fin 16384)
  | segmentTimeout (job : Fin 16)
  | bucketRelease (job : Fin 16) (b : Fin 256)
  | patrolScrub (s : Fin 16) (finds : ScrubFinds)
  | stackTempSample (s : Fin 16) (dram logic : BitVec 8)
  | linkDown (fall : LinkFall)
  | linkUp (port : Fin 18) (rate : Fin 4) (peer : LinkPeer)
  | xrFallback (port : Fin 18)
  | pfcFrame (port : Fin 18) (frame : List Byte)
  | write (port : Fin 18) (frame : List Byte)
  | read (port : Fin 18) (frame : List Byte)
  | readResp (port : Fin 18) (frame : List Byte)
  | faoloSend (port : Fin 18) (frame : List Byte)
  | accept (port : Fin 18) (frame : List Byte)
  | refuse (port : Fin 18) (frame : List Byte)
  | ack (port : Fin 18) (frame : List Byte)
  | sack (port : Fin 18) (frame : List Byte)
  | credit (port : Fin 18) (frame : List Byte)
  | sync (port : Fin 18) (frame : List Byte)
  | syncAck (port : Fin 18) (frame : List Byte)
  | syncResend (c : CtxId)
  | delayedAck (c : CtxId)
  | creditTimer (c : CtxId)
  | retransmitTimeout (c : CtxId)
  | rateUpdate (c : CtxId)
  | packetTransmit (port : Fin 18)
  | portFailover (c : CtxId)
  | contextFetch (c : CtxRead)
  | lookupReq (port : Fin 18) (frame : List Byte)
  | lookupResp (port : Fin 18) (frame : List Byte)
  | gatherReq (port : Fin 18) (frame : List Byte)
  | gatherResp (port : Fin 18) (frame : List Byte)
  | l1Report (port : Fin 18) (frame : List Byte)
  | l1Result (port : Fin 18) (frame : List Byte)
  | l1End (port : Fin 18) (frame : List Byte)
  | guardArm (m : Master) (g : Fin 4096)
  | guardComplete (m : Master) (g : Fin 4096)
  | guardRelease (m : Master) (g : Fin 4096)
  | itemAccept (c : BitVec 20) (msn : BitVec 32)
  | itemDeliver (p : DieDelivery)
  | egressTransfer (c : BitVec 20) (msn : BitVec 32)
  | queueHeadWrite (m : Master) (q : Fin 16384) (v : BitVec 32)
  | twinHeartbeat (h : Fin 2)
  | twinHalfDown (h : Fin 2)
  | pairing (msg : PairMsg)
  | item (q : Fin 16384) (c : BitVec 20) (msn ord : BitVec 32) (bytes : List Byte)
  | itemAck (q : Fin 16384) (c : BitVec 20) (msn ord : BitVec 32)
  | itemNak (q : Fin 16384) (c : BitVec 20) (msn : BitVec 32)
  | order (q : Fin 16384) (c : BitVec 20) (msn ord : BitVec 32)
  | drop (q : Fin 16384) (c : BitVec 20) (msn : BitVec 32)
  | evidence (job : Fin 16) (step : BitVec 32) (ofl nv : Bool)
  | deviceDigest (job : Fin 16) (step : BitVec 32) (dd : List Byte) (rep : Repair)
  | commitNotice (job : Fin 16) (step : BitVec 32) (exp : BitVec 8) (clean : BitVec 16) (dv : BitVec 32) (heads : List (Nat × BitVec 32)) (dir : List (Fin 4096 × Option DirEnt)) (dd : List Byte)
  | shadowDelta (table : BitVec 16) (index : BitVec 64) (a : Addr) (slot : List Byte)
  | takeoverNotice
  | stepAbandon (job : Fin 16) (step : BitVec 32)
  | relay (c : BitVec 20) (packet : List Byte)
  | takeover (m : Master)
  | baseline (m : Master)
  | join (m : Master)
  | rejoinComplete (peer : List (Fin 16 × List Byte × Repair)) (copy : RejoinCopy)
  | catchup (job : Fin 16) (step : BitVec 32) (exp : BitVec 8) (clean : BitVec 16) (dv : BitVec 32) (dd : List Byte) (copies : List (Addr × List Byte)) (unretained : Bool)
  | journalEntryComplete (c : BitVec 20) (msn : BitVec 32)
  | clocheFlush
  | flushComplete (nand : NandDone) (us : BitVec 32)
  | powerOnReset
  | rootPllLock
  | coldReset
  | warmReset
  | coldStart (env : StartEnv)
  | warmStart (env : StartEnv)
  | avsComplete (r : Fin 25) (how : AvsEnd)
  | voltageLower (r : Fin 25) (done : Bool)
  | thermalTick (temps : Readings)
  | powerTick (rd : Readings)
  | thermTrip (die : Fin 22) (celsius : BitVec 8)
  | pllUnlock
  | mgmtMemUe (offset : BitVec 32)
  | watchdog
  | flashErase (m : Master)
  | flashProgram (m : Master)
  | flashRead (m : Master)
  | flashDone (how : FlashEnd)
  | attestRequest (m : Master)
  | attestDone
  | fieldLogAppend
  | eventRecord (src : BitVec 16)
  | eventHeadWrite (m : Master) (v : BitVec 32)
  | flagScan (m : Master) (v : BitVec 64)
  | flagScanDone
  | ibiTimer
  | i3cPrivateWrite (xfer : I3cWrite)
  | i3cPrivateRead (xfer : I3cRead)
  | setdasa (asg : I3cAssign)
  | entdaa (asg : I3cAssign)
  | idcode
  | samplePreload (scan : BoundaryScan)
  | extest
  | clamp
  | highz
  | extestPulse
  | extestTrain
  | bypass (code : BitVec 8)
  | tapReset
  | twinHalfUp (h : Fin 2)
  | migStatusAnswer (s : Fin 16)
  | jobKeyMulticast (t : TileId)
  | unallocatedOpcode (t : TileId) (busy : BitVec 8)
  deriving DecidableEq, Repr

end Sys2Proof
end

