-- ==== Sys2Proof/Decode.lean ====
section
/-! DEFINITION. Commands as words of the operation table. -/

namespace Sys2Proof

/-- No row of the operation table gives its command bits: a command is an event or a register access with operands, and no word
spells one. Tile instruction words (R90, R91) are data of the instruction store; Isa.lean reads them. -/
def decodeTableWord (_nbits _w : Nat) : Option Instr := none

end Sys2Proof
end

