-- ==== Sys2Proof/Config.lean ====
section
/-! DEFINITION. What the spec leaves open (free values) and the headline constants of R2. -/

namespace Sys2Proof.Config

/-- FREE VALUE. A byte that no field holds: what the partner answers to a read through the twin window, and what a failed flash operation
leaves in the unit it was at. Arguments: the state's counter of free values and the address. Log entry 4. -/
opaque freeByte : Nat → Nat → BitVec 8

/-- FREE VALUE. A 64-bit value the spec leaves open, applied to the state's counter of free values. Log entry 5. -/
opaque freeValue : Nat → BitVec 64

/-- FREE VALUE. The Falcon-1024 signature bytes Ryrax makes over a digest (R420, R454): the standard encoding is outside
the spec, and the key never leaves the management engine (R442). Arguments: the private key bytes and the digest. Log entry 6. -/
opaque falconSign : List (BitVec 8) → List (BitVec 8) → List (BitVec 8)

/-- FREE VALUE. Whether a REMOTE stream asks for pooled vectors (LOOKUP_REQ) or addressed records (GATHER_REQ): R161 gives
REMOTE both uses and no field of the descriptor tells them apart. Argument: the descriptor. Log entry 16. -/
opaque remoteIsLookup : List (BitVec 8) → Bool

/-- FREE VALUE. The credit that context 0 of host port h grants in diagnostic mode, less one unit: R429 opens the context
without an INIT_CREDIT. Log entry 30. -/
opaque diagCredit : Nat → BitVec 15

/-- FREE VALUE. The peer's context id that packets of host port h carry in diagnostic mode: R429 names none. Log entry 30. -/
opaque diagPeerCtx : Nat → BitVec 20

/-- FREE VALUE. The 64 B STATE messages that carry message n to the twin: R346 gives their size and no layout. Log entry 112. -/
opaque twinState : Nat → List (BitVec 512)

/-- FREE VALUE. The partner's own node id, which packets on the twin link carry in DST (R346); no register holds it. Log entry 112. -/
opaque partnerNode : BitVec 16

/-- FREE VALUE. Pages of a NAND block, less one, and the first block of a slot on a channel: R386 lays a slot over good blocks and gives
no geometry. Log entry 77. -/
opaque nandPages : Nat
opaque nandBase : Nat → Nat

/-- FREE VALUE. What the boundary-scan cells make low-speed pin n drive, whether cell k belongs to a test receiver of a twin lane, and the
value by which a fault reads in it: the BSDL file that orders the cells (R488) is outside the spec. Log entry 130. -/
opaque scanDrive : Nat → List Bool → Option Bool
opaque scanTwin : Nat → Bool
opaque scanFault : Nat → Bool

/-- Compute dies (R2, R20). -/
def numComputeDies : Nat := 4
/-- DRAM stacks and base dies (R2, R20). -/
def numStacks : Nat := 16
/-- Ingress SRAM of one port die, in bytes (R2: 64 MiB). -/
def ingressSram : Nat := 64 * 1048576
/-- Merge buffer of a base die, in bytes (R2: 16 MiB). -/
def mergeBuffer : Nat := 16 * 1048576
/-- Hot-row cache of a base die, in bytes (R2, R201: 8 MiB). -/
def hotCache : Nat := 8 * 1048576
/-- Contexts a port die caches (R302). -/
def ctxCache : Nat := 16384
/-- The IDCODE of R488. -/
def idcode : BitVec 32 := 0x123045CB#32

end Sys2Proof.Config
end

