-- ==== Sys2Proof/Machine/Ops.lean ====
section
/-! DEFINITION. The named operations over sparse maps, byte lists and bit fields that every other file uses. -/

namespace Sys2Proof.Machine

/-- The value at a key, or the default d. -/
def kget {α : Type} (m : KMap α) (k : Nat) (d : α) : α :=
  match m with
  | [] => d
  | (j, v) :: r => if j == k then v else kget r k d

/-- Set a key, keeping keys strictly rising. -/
def kput {α : Type} (m : KMap α) (k : Nat) (v : α) : KMap α :=
  match m with
  | [] => [(k, v)]
  | (j, w) :: r => if k < j then (k, v) :: (j, w) :: r else if k == j then (k, v) :: r else (j, w) :: kput r k v

/-- Remove a key. -/
def kdel {α : Type} (m : KMap α) (k : Nat) : KMap α :=
  match m with
  | [] => []
  | (j, w) :: r => if k == j then kdel r k else (j, w) :: kdel r k

/-- Set a key of a map whose unlisted keys read as d: writing d removes the entry. -/
def kputD {α : Type} [DecidableEq α] (m : KMap α) (k : Nat) (v d : α) : KMap α :=
  if v = d then kdel m k else kput m k v

/-- Change the value at a key. -/
def kmod {α : Type} (m : KMap α) (k : Nat) (d : α) (f : α → α) : KMap α := kput m k (f (kget m k d))

/-- Keys strictly rising from a bound. -/
def krising {α : Type} : Nat → KMap α → Bool
  | _, [] => true
  | lo, (j, _) :: r => lo ≤ j && krising (j + 1) r

/-- Memory read of one byte: an unlisted address reads as zero (log entry 2). -/
def mget (m : KMap Byte) (a : Nat) : Byte := kget m a 0
/-- Memory write of one byte, keeping the canonical form. -/
def mput (m : KMap Byte) (a : Nat) (b : Byte) : KMap Byte := kputD m a b 0
/-- The canonical form of memory: addresses strictly rising and no listed byte equal to what an unlisted one reads as. -/
def Memory.wf (m : KMap Byte) : Bool := krising 0 m && m.all (fun c => c.2 != 0)

/-- Read n bytes from address a upwards. -/
def mgets (m : KMap Byte) (a : Nat) : Nat → List Byte
  | 0 => []
  | n + 1 => mget m a :: mgets m (a + 1) n
/-- Write bytes from address a upwards. -/
def mputs (m : KMap Byte) (a : Nat) : List Byte → KMap Byte
  | [] => m
  | b :: r => mputs (mput m a b) (a + 1) r

/-- Little-endian bytes to a number (R16). -/
def leNat : List Byte → Nat
  | [] => 0
  | b :: r => b.toNat + 256 * leNat r
/-- The low n bytes of a number, little-endian (R16). -/
def natLe : Nat → Nat → List Byte
  | 0, _ => []
  | n + 1, v => BitVec.ofNat 8 v :: natLe n (v / 256)
/-- Big-endian bytes to a number (R17). -/
def beNat (l : List Byte) : Nat := l.foldl (fun a b => a * 256 + b.toNat) 0
/-- The low n bytes of a number, big-endian (R17). -/
def natBe (n v : Nat) : List Byte := (natLe n v).reverse

/-- Bytes [off, off + n) of a list; bytes past its end read as zero. -/
def slice (l : List Byte) (off n : Nat) : List Byte :=
  let t := (l.drop off).take n
  t ++ List.replicate (n - t.length) 0
/-- A little-endian field of a byte list. -/
def fldLe (l : List Byte) (off n : Nat) : Nat := leNat (slice l off n)
/-- A big-endian field of a byte list. -/
def fldBe (l : List Byte) (off n : Nat) : Nat := beNat (slice l off n)

/-- Bits [lo, lo + w) of a number. -/
def bits (v lo w : Nat) : Nat := (v >>> lo) % 2 ^ w
/-- A number with bits [lo, lo + w) replaced. -/
def setBits (v lo w x : Nat) : Nat := v - (bits v lo w) <<< lo + (x % 2 ^ w) <<< lo
/-- A field of a bit vector as a number. -/
def bfld {n : Nat} (v : BitVec n) (lo w : Nat) : Nat := bits v.toNat lo w
/-- A bit vector with a field replaced. -/
def bset {n : Nat} (v : BitVec n) (lo w x : Nat) : BitVec n := BitVec.ofNat n (setBits v.toNat lo w x)
/-- One bit of a bit vector. -/
def bbit {n : Nat} (v : BitVec n) (i : Nat) : Bool := v.toNat.testBit i
/-- A w-bit two's complement field as an integer. -/
def sext (v w : Nat) : Int := if bits v (w - 1) 1 == 1 then (v % 2 ^ w : Int) - 2 ^ w else (v % 2 ^ w : Int)
/-- An integer as a w-bit two's complement field. -/
def toField (i : Int) (w : Nat) : Nat := (i % (2 ^ w : Int)).toNat

/-- ceil(a / b). -/
def cdiv (a b : Nat) : Nat := if b == 0 then 0 else (a + b - 1) / b

/-- The first element that satisfies p, with the list without it. -/
def pick {α : Type} (p : α → Bool) : List α → Option (α × List α)
  | [] => none
  | x :: r => if p x then some (x, r) else (pick p r).map fun (y, t) => (y, x :: t)

/-- Replace the first element that satisfies p. -/
def replaceFirst {α : Type} (p : α → Bool) (f : α → α) : List α → List α
  | [] => []
  | x :: r => if p x then f x :: r else x :: replaceFirst p f r

/-- Insert a number into a strictly rising list. -/
def insertNat (k : Nat) : List Nat → List Nat
  | [] => [k]
  | j :: r => if k < j then k :: j :: r else if k == j then j :: r else j :: insertNat k r

/-- The last n elements of a list. -/
def lastN {α : Type} (n : Nat) (l : List α) : List α := l.drop (l.length - n)

/-- Whether [a, a+n) and [b, b+m) overlap. -/
def overlaps (a n b m : Nat) : Bool := n > 0 && m > 0 && a < b + m && b < a + n

end Sys2Proof.Machine
end

