-- ==== Sys2Proof/Machine/RegAccess.lean ====
section
/-! DEFINITION. What every register access does, whatever register it reaches: widths, halves, latches and holds
(R6, R8, R10-R14). -/

namespace Sys2Proof.Machine

/-- Latched high halves and held low halves, per master and register (R12, R14). -/
structure Latches where
  rd : List (Master × Nat × BitVec 32) := []
  wr : List (Master × Nat × BitVec 32) := []
  deriving DecidableEq, Repr

/-- The half kept for a master and a register. -/
def latchFind (l : List (Master × Nat × BitVec 32)) (m : Master) (a : Nat) : Option (BitVec 32) :=
  (l.find? fun x => x.1 == m && x.2.1 == a).map (·.2.2)
def latchDrop (l : List (Master × Nat × BitVec 32)) (m : Master) (a : Nat) : List (Master × Nat × BitVec 32) :=
  l.filter fun x => !(x.1 == m && x.2.1 == a)
def latchSet (l : List (Master × Nat × BitVec 32)) (m : Master) (a : Nat) (v : BitVec 32) : List (Master × Nat × BitVec 32) :=
  (m, a, v) :: latchDrop l m a

/-- Where a 32-bit access falls: a 32-bit register, a half of the 64-bit register at the given address, or nowhere. -/
inductive RegHit where
  | word | low | high (base : Nat) | none
  deriving DecidableEq, Repr

/-- Find it; `find` answers whether a register starts at an address, and whether it is 64 bits wide. -/
def regHit (find : Nat → Option Bool) (a : Nat) : RegHit :=
  match find a with
  | some true => .low
  | some false => .word
  | none => if a % 8 == 4 && find (a - 4) == some true then .high (a - 4) else .none

/-- Bit masks of a write: all 64 bits, or the high half. -/
def maskAll : Nat := 2 ^ 64 - 1
def maskLow : Nat := 2 ^ 32 - 1
def maskHigh : Nat := maskAll - maskLow

/-- What one 32-bit read does: the value, the register to clear its RC fields (a low-half or whole read, R8, R12),
the latches after, and whether the address is mapped. `peek` reads a register's present value. -/
def read32 (find : Nat → Option Bool) (peek : Nat → Nat) (L : Latches) (m : Master) (a : Nat) :
    Nat × Option Nat × Latches × Bool :=
  match regHit find a with
  | .word => (peek a % 2 ^ 32, some a, L, true)
  | .low => (peek a % 2 ^ 32, some a, { L with rd := latchSet L.rd m a (BitVec.ofNat 32 (peek a >>> 32)) }, true)
  | .high b =>
    match latchFind L.rd m b with
    | some v => (v.toNat, none, { L with rd := latchDrop L.rd m b }, true)
    | none => (peek b >>> 32, none, L, true)
  | .none => (0, none, L, false)

/-- What one 32-bit write does: the register write it brings about (address, value, mask), the latches after, and
whether the address is mapped (R12, R14). -/
def write32 (find : Nat → Option Bool) (L : Latches) (m : Master) (a v : Nat) : Option (Nat × Nat × Nat) × Latches × Bool :=
  match regHit find a with
  | .word => (some (a, v, maskLow), L, true)
  | .low => (none, { rd := latchDrop L.rd m a, wr := latchSet L.wr m a (BitVec.ofNat 32 v) }, true)
  | .high b =>
    let L' : Latches := { rd := latchDrop L.rd m b, wr := latchDrop L.wr m b }
    match latchFind L.wr m b with
    | some lo => (some (b, lo.toNat + v * 2 ^ 32, maskAll), L', true)
    | none => (some (b, v * 2 ^ 32, maskHigh), L', true)
  | .none => (none, L, false)

/-- A whole 64-bit write of a 64-bit register: nothing is held, and the master's latch is discarded. DESIGN CHOICE: R14 is silent on a
low half that the same master holds for that register; it is dropped (log entry 114). -/
def write64 (L : Latches) (m : Master) (a : Nat) : Latches := { rd := latchDrop L.rd m a, wr := latchDrop L.wr m a }

/-- The bits of `old` under a mask replaced by those of `v`. -/
def maskIn (old v mask : Nat) : Nat := (old &&& (maskAll ^^^ mask)) ||| (v &&& mask)

end Sys2Proof.Machine
end

