-- ==== Sys2Proof/Machine/RegMap.lean ====
section
/-! DEFINITION. The registers outside the tiles: where each lies, how wide it is, and its fields with their access
codes and the values they hold before an image or a start sets them (R6, R26, R77, R122, R229, R263-R265, R286, R287,
R322, R344, R375, R391, R411, R435, R457, R469, R474). -/

namespace Sys2Proof.Machine

/-- Access codes (R6). -/
inductive Acc where
  | ro | rw | wo | w1c | rc | cfg
  deriving DecidableEq, Repr

/-- A field: its lowest bit, width, access code, the value before anything sets it, and whether its After start column
reads "Image". -/
structure Fld where
  lo : Nat
  w : Nat
  acc : Acc
  dflt : Nat := 0
  img : Bool := false
  deriving DecidableEq, Repr

/-- The register kinds outside the tiles. -/
inductive RegKind where
  | boot | start | image | imageInfo | hold | uptime | imageDigest | pairDigest | rowMap | lagCfg | region
  | jStatus | jStep | jKey | jRect | jCfg | jBucketBase | jBstageBase | jCommitBase | jLossScale | jLossClean
  | jLossLimits | jVote | jSkipped | jArrive | jSizes
  | groupCfg | member
  | twCfg | twState | twCtl | twTake | twItems | twNaks | twRelayed | twRepaired | twAreaAddr | twAreaLen | twPeer
  | clCfg | clStatus | clBase0 | clBase1 | clEnergy | clFlushTime | clOldest | clWrite | clJournalled | clReleased
  | clRedelivered | clHeld | clFlushCount
  | rail | total | thermCfg | thermStatus | cause | thermDie | clkGroup
  | idStatus | idDigest | idRepair | licStatus | licSlots | flogStatus | flogInc | nonce | attBuf | attCtl | attStatus
  | attCount
  | evCfg | evStatus | evRing | evHead | evTail | evFwd | evLost | evFwdDropped | evCounts | evFatal | evAlert | evScan
  | evFirst | evBuf
  | flTarget | flBuf | flCtl | flStatus
  | emDir | emStage | emRetain | emMig | emSizes | emHot | emStatus | emFlags | emDv | emUsed | emReq | emMigStatus
  | emCnt | migLo | migHi
  | stStatus | stTemp | stRetired | stEcc | stUeAddr | stScrub | stScrubDone | stRd | stWr | stUeKind | stLane
  | faNode | faUdp | faCtxBase | faCtxCount | faOui | faCc | faCtxState | faRetx | faDiscard
  | poMac | poVlan | poAddr | poIpHi | poIpLo | poPfc | poLink | poFecC | poFecU | poTx | poRx | poPaused
  | coStatus | coSegs | coOut | coIn | coRogue
  | guAddr | guCtl
  | prCfg | prBound | qmCfg | qmStatus | qmSpill | qmVoidAt
  | quCfg | quRing | quStatus | quHead | quTail | quTokens | quAccepted | quRefused | quLate
  deriving DecidableEq, Repr

/-- Where the instances of a register lie: base + i × s1 + j × s2, i < n1, j < n2. -/
structure RegRow where
  base : Nat
  wide : Bool
  flds : List Fld
  n1 : Nat := 1
  s1 : Nat := 0
  n2 : Nat := 1
  s2 : Nat := 0
  deriving DecidableEq, Repr

/-- Bases of the blocks (R32). -/
def mgmtBase : Nat := 0x230000000000
def dieBase : Nat := 0x210000000000
def portBase : Nat := 0x220000000000

def ro (lo w : Nat) : Fld := { lo := lo, w := w, acc := .ro }
def rw (lo w : Nat) (d : Nat := 0) : Fld := { lo := lo, w := w, acc := .rw, dflt := d }
def wo (lo w : Nat) : Fld := { lo := lo, w := w, acc := .wo }
def w1c (lo w : Nat) : Fld := { lo := lo, w := w, acc := .w1c }
def rc (lo w : Nat) : Fld := { lo := lo, w := w, acc := .rc }
def cfg (lo w : Nat) (d : Nat := 0) : Fld := { lo := lo, w := w, acc := .cfg, dflt := d, img := true }
/-- The RC counter of 64 bits that fills a register. -/
def cnt : List Fld := [rc 0 64]

def mg (o : Nat) (wide : Bool) (f : List Fld) (n : Nat := 1) (s : Nat := 0) : RegRow :=
  { base := mgmtBase + o, wide := wide, flds := f, n1 := n, s1 := s }
def jb (o : Nat) (wide : Bool) (f : List Fld) : RegRow := mg (0x10000 + o) wide f 16 0x100
def em (o : Nat) (wide : Bool) (f : List Fld) (n : Nat := 1) (s : Nat := 0) : RegRow :=
  { base := dieBase + o, wide := wide, flds := f, n1 := 16, s1 := 0x40000000, n2 := n, s2 := s }
def pd (o : Nat) (wide : Bool) (f : List Fld) (n : Nat := 1) (s : Nat := 0) : RegRow :=
  { base := portBase + o, wide := wide, flds := f, n1 := 2, s1 := 0x100000000, n2 := n, s2 := s }
def po (o : Nat) (wide : Bool) (f : List Fld) : RegRow := pd (0x100000 + o) wide f 18 0x1000
def qu (o : Nat) (wide : Bool) (f : List Fld) : RegRow := pd (0x800000 + o) wide f 8192 0x40

/-- The register tables. -/
def RegKind.row : RegKind → RegRow
  | .boot => mg 0x0 false [ro 0 19]
  | .start => mg 0x4 false [ro 0 20]
  | .image => mg 0x8 true [ro 0 64]
  | .imageInfo => mg 0x10 false [ro 0 32]
  | .hold => mg 0x18 true [cfg 0 48]
  | .uptime => mg 0x20 true [ro 0 64]
  | .imageDigest => mg 0x40 true [ro 0 64] 8 8
  | .pairDigest => mg 0x80 true [ro 0 64] 4 8
  | .rowMap => mg 0x1000 false [ro 0 27] 4 4
  | .lagCfg => mg 0x1010 false [cfg 0 16 1000, cfg 16 8 8, cfg 24 4 3]
  | .region => mg 0x2000 false [cfg 0 2, cfg 2 4, ro 6 3] 24 4
  | .jStatus => jb 0x0 false [ro 0 6, w1c 6 2, ro 8 8]
  | .jStep => jb 0x4 false [{ lo := 0, w := 32, acc := .ro, img := true }]
  | .jKey => jb 0x8 true [cfg 0 64]
  | .jRect => jb 0x10 false [cfg 0 6, cfg 6 6, cfg 12 6, cfg 18 6]
  | .jCfg => jb 0x14 false [cfg 0 14, cfg 14 6, cfg 20 6]
  | .jBucketBase => jb 0x18 true [cfg 0 48]
  | .jBstageBase => jb 0x20 true [cfg 0 48]
  | .jCommitBase => jb 0x28 true [cfg 0 48]
  | .jLossScale => jb 0x30 false [ro 0 8, rw 8 8, wo 16 1, ro 17 1, w1c 18 1]
  | .jLossClean => jb 0x34 false [ro 0 16, cfg 16 16 2000]
  | .jLossLimits => jb 0x38 false [cfg 0 8 0, cfg 8 8 32, cfg 16 8 16]
  | .jVote => jb 0x3C false [cfg 0 16 100, ro 16 8]
  | .jSkipped => jb 0x40 true cnt
  | .jArrive => jb 0x48 false [wo 0 1, ro 16 16]
  | .jSizes => jb 0x4C false [cfg 0 8]
  | .groupCfg => mg 0x20000 false [cfg 0 9, cfg 9 8] 64 0x800
  | .member => { base := mgmtBase + 0x20400, wide := false, flds := [cfg 0 16], n1 := 64, s1 := 0x800, n2 := 256, s2 := 4 }
  | .twCfg => mg 0x40000 false [cfg 0 2, cfg 2 1, ro 3 1, cfg 4 12 200, cfg 16 8 20]
  | .twState => mg 0x40004 false [ro 0 10]
  | .twCtl => mg 0x40008 false [wo 0 3]
  | .twTake => mg 0x40010 true [cfg 0 20, cfg 20 21]
  | .twItems => mg 0x40018 true cnt
  | .twNaks => mg 0x40020 true cnt
  | .twRelayed => mg 0x40028 true cnt
  | .twRepaired => mg 0x40030 true cnt
  | .twAreaAddr => mg 0x40100 true [cfg 0 48, cfg 48 4] 16 16
  | .twAreaLen => mg 0x40108 false [cfg 0 16] 16 16
  | .twPeer => mg 0x40400 false [{ lo := 0, w := 16, acc := .rw, img := true }, { lo := 16, w := 2, acc := .rw, img := true }] 256 4
  | .clCfg => mg 0x50000 false [cfg 0 10, cfg 10 1, cfg 11 7]
  | .clStatus => mg 0x50004 false [ro 0 8]
  | .clBase0 => mg 0x50008 true [cfg 0 48]
  | .clBase1 => mg 0x50010 true [cfg 0 48]
  | .clEnergy => mg 0x50018 false [ro 0 32]
  | .clFlushTime => mg 0x5001C false [ro 0 32]
  | .clOldest => mg 0x50020 true [ro 0 64]
  | .clWrite => mg 0x50028 true [ro 0 64]
  | .clJournalled => mg 0x50030 true cnt
  | .clReleased => mg 0x50038 true cnt
  | .clRedelivered => mg 0x50040 true cnt
  | .clHeld => mg 0x50048 false [ro 0 32]
  | .clFlushCount => mg 0x50050 true [ro 0 64]
  | .rail => mg 0x60000 true [ro 0 36, rc 36 12, w1c 48 1] 25 8
  | .total => mg 0x60100 false [ro 0 16, rc 16 16]
  | .thermCfg => mg 0x60200 false [cfg 0 8 98, cfg 8 12 420]
  | .thermStatus => mg 0x60204 false [ro 0 10]
  | .cause => mg 0x60208 false [ro 0 3]
  | .thermDie => mg 0x60210 false [ro 0 8, rc 8 8] 22 4
  | .clkGroup => mg 0x60400 false [ro 0 4, rw 4 4, ro 8 9] 64 4
  | .idStatus => mg 0x70000 false [ro 0 25]
  | .idDigest => mg 0x70008 true [ro 0 64] 4 8
  | .idRepair => mg 0x70028 true [ro 0 64] 4 8
  | .licStatus => mg 0x70048 false [ro 0 7]
  | .licSlots => mg 0x7004C false [ro 0 32]
  | .flogStatus => mg 0x70050 false [ro 0 32]
  | .flogInc => mg 0x70054 false [ro 0 32]
  | .nonce => mg 0x70100 true [rw 0 64] 4 8
  | .attBuf => mg 0x70120 true [rw 0 48]
  | .attCtl => mg 0x70128 false [wo 0 1]
  | .attStatus => mg 0x7012C false [ro 0 4, w1c 4 1, ro 5 1]
  | .attCount => mg 0x70130 true cnt
  | .evCfg => mg 0x80000 false [cfg 0 5, cfg 5 2 2, cfg 7 2 2, cfg 9 1]
  | .evStatus => mg 0x80004 false [w1c 0 2, ro 2 1]
  | .evRing => mg 0x80008 true [cfg 0 48]
  | .evHead => mg 0x80010 false [rw 0 32]
  | .evTail => mg 0x80014 false [ro 0 32]
  | .evFwd => mg 0x80018 true [cfg 0 20, cfg 20 14]
  | .evLost => mg 0x80020 true cnt
  | .evFwdDropped => mg 0x80028 true cnt
  | .evCounts => mg 0x80030 true [ro 0 64]
  | .evFatal => mg 0x80038 true [ro 0 64] 4 8
  | .evAlert => mg 0x80058 false [rw 0 8 100, rw 8 8 40]
  | .evScan => mg 0x80060 true [rw 0 24, rw 24 1, wo 25 1, ro 26 2, ro 28 12]
  | .evFirst => mg 0x80068 true [{ lo := 0, w := 64, acc := .ro, dflt := 2 ^ 64 - 1 }] 3 8
  | .evBuf => mg 0x81000 true [ro 0 64] 1024 8
  | .flTarget => mg 0x90000 false [rw 0 28]
  | .flBuf => mg 0x90008 true [rw 0 48]
  | .flCtl => mg 0x90010 false [rw 0 27, wo 27 1]
  | .flStatus => mg 0x90014 false [ro 0 6, w1c 6 1, ro 7 25]
  | .emDir => em 0x0 true [cfg 0 48]
  | .emStage => em 0x8 true [cfg 0 48]
  | .emRetain => em 0x10 true [cfg 0 48]
  | .emMig => em 0x18 true [cfg 0 48]
  | .emSizes => em 0x20 false [cfg 0 8, cfg 8 8, cfg 16 16]
  | .emHot => em 0x24 false [rw 0 16 4, cfg 16 8 64]
  | .emStatus => em 0x28 false [ro 0 4, w1c 4 4]
  | .emFlags => em 0x2C false [w1c 0 4]
  | .emDv => em 0x30 false [ro 0 32]
  | .emUsed => em 0x34 false [ro 0 13]
  | .emReq => em 0x40 true [wo 0 64]
  | .emMigStatus => em 0x48 false [ro 0 5]
  | .emCnt => em 0x80 true cnt 11 8
  | .migLo => em 0x10000 true [ro 0 64] 4096 16
  | .migHi => em 0x10008 true [ro 0 64] 4096 16
  | .stStatus => em 0x100000 false [ro 0 19]
  | .stTemp => em 0x100004 false [ro 0 16, rc 16 8]
  | .stRetired => em 0x100008 true [ro 0 64]
  | .stEcc => em 0x100010 true [rc 0 32, rc 32 32]
  | .stUeAddr => em 0x100018 true [ro 0 64]
  | .stScrub => em 0x100020 false [cfg 0 16 24]
  | .stScrubDone => em 0x100024 false [ro 0 32]
  | .stRd => em 0x100028 true cnt
  | .stWr => em 0x100030 true cnt
  | .stUeKind => em 0x100038 false [ro 0 2]
  | .stLane => em 0x100100 false [{ lo := 0, w := 23, acc := .ro, dflt := 127 + 127 * 128 + 31 * 16384 }] 32 4
  | .faNode => pd 0x0 false [cfg 0 16, cfg 16 16]
  | .faUdp => pd 0x4 false [cfg 0 16 48812]
  | .faCtxBase => pd 0x8 true [cfg 0 48]
  | .faCtxCount => pd 0x10 false [cfg 0 21]
  | .faOui => pd 0x14 false [cfg 0 24 0xA46B92]
  | .faCc => pd 0x18 true [cfg 0 16 12, cfg 16 16 20, cfg 32 16 20, cfg 48 8 16]
  | .faCtxState => pd 0x20 false [ro 0 21]
  | .faRetx => pd 0x28 true cnt
  | .faDiscard => pd 0x40 true cnt 13 8
  | .poMac => po 0x0 false [cfg 0 1, cfg 1 2, cfg 3 1, cfg 4 1, cfg 5 8, ro 13 1]
  | .poVlan => po 0x4 false [cfg 0 12, cfg 12 1]
  | .poAddr => po 0x8 true [cfg 0 48]
  | .poIpHi => po 0x10 true [cfg 0 64]
  | .poIpLo => po 0x18 true [cfg 0 64]
  | .poPfc => po 0x20 false [cfg 0 16, cfg 16 16]
  | .poLink => po 0x24 false [ro 0 4, w1c 4 1, ro 16 16]
  | .poFecC => po 0x28 true cnt
  | .poFecU => po 0x30 true cnt
  | .poTx => po 0x38 true cnt
  | .poRx => po 0x40 true cnt
  | .poPaused => po 0x48 true cnt
  | .coStatus => pd 0x400000 false [ro 0 9, w1c 9 2]
  | .coSegs => pd 0x400008 true cnt
  | .coOut => pd 0x400010 true cnt
  | .coIn => pd 0x400018 true cnt
  | .coRogue => pd 0x400020 true cnt
  | .guAddr => { base := portBase + 0x200000, wide := true, flds := [rw 0 48], n1 := 4096, s1 := 16 }
  | .guCtl => { base := portBase + 0x200008, wide := true,
                flds := [rw 0 24, ro 24 2, wo 26 3, ro 29 1, w1c 30 1, ro 32 32], n1 := 4096, s1 := 16 }
  | .prCfg => pd 0x300000 true [cfg 0 14, cfg 14 1, cfg 16 17] 64 16
  | .prBound => pd 0x300008 true [cfg 0 32, cfg 32 32] 64 16
  | .qmCfg => pd 0x301000 false [cfg 0 4 6, cfg 4 6 10, cfg 10 6 32, ro 16 16]
  | .qmStatus => pd 0x301004 false [ro 0 3]
  | .qmSpill => pd 0x301008 true [cfg 0 48, cfg 48 14]
  | .qmVoidAt => pd 0x301010 true [ro 0 64]
  | .quCfg => qu 0x00 true [cfg 0 2, cfg 2 6, cfg 8 4, cfg 12 12, cfg 24 6, cfg 32 16 10, cfg 48 5]
  | .quRing => qu 0x08 true [cfg 0 48]
  | .quStatus => qu 0x10 false [ro 0 11, w1c 11 1]
  | .quHead => qu 0x14 false [rw 0 32]
  | .quTail => qu 0x18 false [ro 0 32]
  | .quTokens => qu 0x20 true [ro 0 64]
  | .quAccepted => qu 0x28 true cnt
  | .quRefused => qu 0x30 true cnt
  | .quLate => qu 0x38 true cnt

/-- The kinds of the management window, of the base die windows and of the port die windows. -/
def mgmtKinds : List RegKind :=
  [.boot, .start, .image, .imageInfo, .hold, .uptime, .imageDigest, .pairDigest, .rowMap, .lagCfg, .region,
   .jStatus, .jStep, .jKey, .jRect, .jCfg, .jBucketBase, .jBstageBase, .jCommitBase, .jLossScale, .jLossClean,
   .jLossLimits, .jVote, .jSkipped, .jArrive, .jSizes, .groupCfg, .member,
   .twCfg, .twState, .twCtl, .twTake, .twItems, .twNaks, .twRelayed, .twRepaired, .twAreaAddr, .twAreaLen, .twPeer,
   .clCfg, .clStatus, .clBase0, .clBase1, .clEnergy, .clFlushTime, .clOldest, .clWrite, .clJournalled, .clReleased,
   .clRedelivered, .clHeld, .clFlushCount, .rail, .total, .thermCfg, .thermStatus, .cause, .thermDie, .clkGroup,
   .idStatus, .idDigest, .idRepair, .licStatus, .licSlots, .flogStatus, .flogInc, .nonce, .attBuf, .attCtl,
   .attStatus, .attCount, .evCfg, .evStatus, .evRing, .evHead, .evTail, .evFwd, .evLost, .evFwdDropped, .evCounts,
   .evFatal, .evAlert, .evScan, .evFirst, .evBuf, .flTarget, .flBuf, .flCtl, .flStatus]
def dieKinds : List RegKind :=
  [.emDir, .emStage, .emRetain, .emMig, .emSizes, .emHot, .emStatus, .emFlags, .emDv, .emUsed, .emReq, .emMigStatus,
   .emCnt, .migLo, .migHi, .stStatus, .stTemp, .stRetired, .stEcc, .stUeAddr, .stScrub, .stScrubDone, .stRd, .stWr,
   .stUeKind, .stLane]
def portKinds : List RegKind :=
  [.faNode, .faUdp, .faCtxBase, .faCtxCount, .faOui, .faCc, .faCtxState, .faRetx, .faDiscard,
   .poMac, .poVlan, .poAddr, .poIpHi, .poIpLo, .poPfc, .poLink, .poFecC, .poFecU, .poTx, .poRx, .poPaused,
   .coStatus, .coSegs, .coOut, .coIn, .coRogue, .guAddr, .guCtl, .prCfg, .prBound, .qmCfg, .qmStatus, .qmSpill,
   .qmVoidAt, .quCfg, .quRing, .quStatus, .quHead, .quTail, .quTokens, .quAccepted, .quRefused, .quLate]

/-- The address of an instance. -/
def RegKind.at (k : RegKind) (i : Nat := 0) (j : Nat := 0) : Nat := k.row.base + i * k.row.s1 + j * k.row.s2

/-- Port registers exist on the port die that carries the port (R288). -/
def RegKind.isPort (k : RegKind) : Bool :=
  k == .poMac || k == .poVlan || k == .poAddr || k == .poIpHi || k == .poIpLo || k == .poPfc || k == .poLink ||
  k == .poFecC || k == .poFecU || k == .poTx || k == .poRx || k == .poPaused

/-- The instance of a kind that starts at an address. -/
def RegKind.inst (k : RegKind) (a : Nat) : Option (Nat × Nat) :=
  let r := k.row
  if a < r.base then none
  else
    let d := a - r.base
    let i := if r.s1 == 0 then 0 else if r.s2 == 0 then d / r.s1 else min (d / r.s1) (r.n1 - 1)
    let e := d - i * r.s1
    let j := if r.s2 == 0 then 0 else e / r.s2
    if i < r.n1 && j < r.n2 && e == j * r.s2 && (!k.isPort || j % 2 == i) then some (i, j) else none

/-- The register that starts at a device address. -/
def regAt (a : Nat) : Option (RegKind × Nat × Nat) :=
  (if a < portBase then dieKinds else if a < mgmtBase then portKinds else mgmtKinds).findSome? fun k =>
    (k.inst a).map fun (i, j) => (k, i, j)

/-- Whether a register starts at an address, and its width. -/
def regWide (a : Nat) : Option Bool := (regAt a).map fun x => x.1.row.wide

/-- The value every field has before anything sets it. -/
def RegKind.dflt (k : RegKind) : Nat := (k.row.flds.map fun f => f.dflt <<< f.lo).sum

/-- The mask of the fields with some access code. -/
def RegKind.mask (k : RegKind) (p : Fld → Bool) : Nat :=
  ((k.row.flds.filter p).map fun f => (2 ^ f.w - 1) <<< f.lo).sum

end Sys2Proof.Machine
end

