-- ==== Sys2Proof/Machine/Flags.lean ====
section
/-! DEFINITION. The four lane flags OF, UF, NX and NV, their order in a register, and how they are gathered (R52, R53, R229). Which
flag an operation raises stands with that operation's rounding in Float.lean. -/

namespace Sys2Proof.Machine

/-- The lane flags of R52. -/
structure Flags where
  ovf : Bool := false
  udf : Bool := false
  inx : Bool := false
  inv : Bool := false
  deriving DecidableEq, Repr

/-- Flags are ORed (R53). -/
def Flags.or (a b : Flags) : Flags := ⟨a.ovf || b.ovf, a.udf || b.udf, a.inx || b.inx, a.inv || b.inv⟩
/-- The four flags as bits OF UF NX NV from bit 0 (R53, R229). -/
def Flags.bits (f : Flags) : Nat := f.ovf.toNat + 2 * f.udf.toNat + 4 * f.inx.toNat + 8 * f.inv.toNat
/-- Flags from their bits. -/
def Flags.ofBits (n : Nat) : Flags := ⟨n.testBit 0, n.testBit 1, n.testBit 2, n.testBit 3⟩

def fNone : Flags := {}
def fNV : Flags := { inv := true }
def fNX : Flags := { inx := true }
def fOF : Flags := { ovf := true }
def fOFNX : Flags := { ovf := true, inx := true }

end Sys2Proof.Machine
end

