-- ==== Sys2Proof/Machine/Float.lean ====
section
/-! DEFINITION. Element formats, exact values, rounding, the stochastic rounding generator, HB8 blocks and exact
window sums (02_numbers.md). An encoding is a natural number; a value is an exact dyadic number. -/

namespace Sys2Proof.Machine

/-- The element formats of R42, and the two HB8 element formats of R45. -/
inductive Fmt where
  | fp32 | bf16 | fp16 | f19 | e4m3 | e5m2 | hb8s | hb8u
  deriving DecidableEq, Repr

/-- Exponent width. -/
def Fmt.eb : Fmt → Nat
  | .fp32 | .bf16 | .f19 => 8
  | .fp16 | .e5m2 | .hb8u => 5
  | .e4m3 | .hb8s => 4
/-- Fraction width. -/
def Fmt.fb : Fmt → Nat
  | .fp32 => 23 | .bf16 => 7 | .fp16 => 10 | .f19 => 10 | .e4m3 => 3 | .e5m2 => 2 | .hb8s => 3 | .hb8u => 3
def Fmt.bias : Fmt → Nat
  | .fp32 | .bf16 | .f19 => 127
  | .fp16 | .e5m2 | .hb8u => 15
  | .e4m3 | .hb8s => 7
/-- Container bits below the fraction (R43: an F19 container's bits [12:0]). -/
def Fmt.low : Fmt → Nat
  | .f19 => 13
  | _ => 0
/-- Bytes of one stored element. -/
def Fmt.bytes : Fmt → Nat
  | .fp32 | .f19 => 4
  | .bf16 | .fp16 => 2
  | _ => 1
/-- Whether the all-ones exponent field means Inf and NaN as in FP32. -/
def Fmt.ieee : Fmt → Bool
  | .e4m3 | .hb8s | .hb8u => false
  | _ => true
/-- The largest finite encoding without its sign (R42, R45), container bits left out. -/
def Fmt.topFinite : Fmt → Nat
  | .e4m3 => 0x7E
  | .hb8s => 0x7F
  | .hb8u => 0xFF
  | f => ((2 ^ f.eb - 1) <<< f.fb) - 1
/-- The canonical NaN (R50). -/
def Fmt.nan : Fmt → Nat
  | .fp32 | .f19 => 0x7FC00000
  | .bf16 => 0x7FC0
  | .fp16 => 0x7E00
  | .e4m3 => 0x7F
  | .e5m2 => 0x7E
  | .hb8s | .hb8u => 0

/-- An exact value: a finite dyadic (−1)^neg × m × 2^e, an infinity or a NaN (R50: NaNs are not told apart). -/
inductive FVal where
  | fin (neg : Bool) (m : Nat) (e : Int)
  | inf (neg : Bool)
  | nan
  deriving DecidableEq, Repr

def FVal.zero : FVal := .fin false 0 0
def FVal.isNan : FVal → Bool
  | .nan => true
  | _ => false
def FVal.isFin : FVal → Bool
  | .fin .. => true
  | _ => false
def FVal.isZero : FVal → Bool
  | .fin _ m _ => m == 0
  | _ => false
def FVal.sign : FVal → Bool
  | .fin n _ _ => n
  | .inf n => n
  | .nan => false
def FVal.neg : FVal → FVal
  | .fin n m e => .fin (!n) m e
  | .inf n => .inf (!n)
  | .nan => .nan
def FVal.abs : FVal → FVal
  | .fin _ m e => .fin false m e
  | .inf _ => .inf false
  | .nan => .nan
/-- 2^k as an exact value. -/
def FVal.pow2 (k : Int) : FVal := .fin false 1 k
/-- Exact scaling by 2^k. -/
def FVal.scale (v : FVal) (k : Int) : FVal :=
  match v with
  | .fin n m e => .fin n m (e + k)
  | v => v
/-- floor(log2 |v|) of a finite nonzero value. -/
def FVal.ilog2 : FVal → Int
  | .fin _ m e => e + (Nat.log2 m : Int)
  | _ => 0

/-- Decode an encoding (R42, R43, R45). -/
def Fmt.decode (f : Fmt) (raw : Nat) : FVal :=
  let core := raw >>> f.low
  let frac := core % 2 ^ f.fb
  let ex := (core >>> f.fb) % 2 ^ f.eb
  let neg := f != .hb8u && core.testBit (f.eb + f.fb)
  if f.ieee && ex == 2 ^ f.eb - 1 then
    if frac == 0 then .inf neg else .nan
  else if f == .e4m3 && ex == 15 && frac == 7 then .nan
  else if ex == 0 then .fin neg frac (1 - (f.bias : Int) - f.fb)
  else .fin neg (2 ^ f.fb + frac) ((ex : Int) - f.bias - f.fb)

/-- The rounding modes of R54; SR carries the element's 16-bit field. -/
inductive Rnd where
  | rne | rtz | sr (field : Nat)
  deriving DecidableEq, Repr

/-- Round the magnitude m (plus less than one unit of m when `sticky`) to a multiple of 2^d, in units of 2^d
(R54, R57). Answers the kept integer and whether it is inexact. -/
def roundMag (mode : Rnd) (m d : Nat) (sticky : Bool) : Nat × Bool :=
  let kept := m >>> d
  let rest := m % 2 ^ d
  let inexact := rest != 0 || sticky
  let up :=
    match mode with
    | .rtz => false
    | .rne =>
      if d == 0 then false
      else
        let half := 2 ^ (d - 1)
        rest > half || (rest == half && (sticky || kept % 2 == 1))
    | .sr r => inexact && ((rest <<< 16) >>> d) + r % 65536 ≥ 65536
  (if up then kept + 1 else kept, inexact)

/-- The overflow result of R44 and R152, for a finite value beyond the largest finite. -/
def Fmt.overflow (f : Fmt) (mode : Rnd) (sat neg : Bool) : Nat × Flags :=
  let sb := if neg && f != .hb8u then 1 <<< (f.eb + f.fb) else 0
  let big := (sb + f.topFinite) <<< f.low
  match f with
  | .hb8s | .hb8u => (big, fNX)
  | .e4m3 => if mode == .rtz || sat then (big, fOFNX) else (0x7F, fOFNX)
  | .e5m2 => if mode == .rtz || sat then (big, fOFNX) else (sb + f.topFinite + 1, fOFNX)
  | _ => if mode == .rtz then (big, fOFNX) else ((sb + f.topFinite + 1) <<< f.low, fOFNX)

/-- Round a finite magnitude into a format (R42, R44, R52, R57). -/
def Fmt.roundFin (f : Fmt) (mode : Rnd) (sat : Bool) (neg : Bool) (m : Nat) (e : Int) (sticky : Bool) : Nat × Flags :=
  let sb := if neg && f != .hb8u then 1 <<< (f.eb + f.fb) else 0
  if m == 0 then (sb <<< f.low, fNone)
  else
    let top : Int := e + (Nat.log2 m : Int)
    let emin : Int := 1 - (f.bias : Int)
    let q : Int := max top emin - f.fb
    let (kept, inexact) :=
      if q ≤ e then (m <<< (e - q).toNat, sticky)
      else roundMag mode m (q - e).toNat sticky
    -- a carry out of the significand raises the exponent by one (R57)
    let (kept, q) := if kept ≥ 2 ^ (f.fb + 1) then (kept >>> 1, q + 1) else (kept, q)
    let code :=
      if kept < 2 ^ f.fb then kept
      else (((q + f.fb + f.bias).toNat) <<< f.fb) + (kept - 2 ^ f.fb)
    if code > f.topFinite then f.overflow mode sat neg
    else ((sb + code) <<< f.low, { udf := inexact && top < emin, inx := inexact })

/-- Convert an exact value into a format (R44, R50, R51). -/
def Fmt.encode (f : Fmt) (mode : Rnd) (sat : Bool) (v : FVal) : Nat × Flags :=
  let sb (neg : Bool) := if neg then 1 <<< (f.eb + f.fb) else 0
  match v with
  | .nan => (f.nan, fNone)
  | .inf n =>
    match f with
    | .e4m3 => if sat then (sb n + f.topFinite, fOF) else (0x7F, fNV)
    | .e5m2 => if sat then (sb n + f.topFinite, fOF) else (sb n + f.topFinite + 1, fNone)
    | .hb8s | .hb8u => (0, fNV)
    | _ => ((sb n + f.topFinite + 1) <<< f.low, fNone)
  | .fin n m e => f.roundFin mode sat n m e false

/-- The exact product (R51). -/
def fmulX (x y : FVal) : FVal × Flags :=
  match x, y with
  | .nan, _ => (.nan, fNone)
  | _, .nan => (.nan, fNone)
  | .fin a m e, .fin b n g => (.fin (a != b) (m * n) (e + g), fNone)
  | .inf a, .inf b => (.inf (a != b), fNone)
  | .inf a, .fin b n _ => if n == 0 then (.nan, fNV) else (.inf (a != b), fNone)
  | .fin a m _, .inf b => if m == 0 then (.nan, fNV) else (.inf (a != b), fNone)

/-- The exact sum of two finite values. An exact zero sum is +0 unless both addends are −0 (log entry 12). -/
def faddFin (a : Bool) (m : Nat) (e : Int) (b : Bool) (n : Nat) (g : Int) : FVal :=
  let q := min e g
  let x : Int := (m <<< (e - q).toNat : Nat)
  let y : Int := (n <<< (g - q).toNat : Nat)
  let t := (if a then -x else x) + (if b then -y else y)
  if t == 0 then .fin (m == 0 && n == 0 && a && b) 0 0
  else .fin (t < 0) t.natAbs q

/-- The exact sum (R51). -/
def faddX (x y : FVal) : FVal × Flags :=
  match x, y with
  | .nan, _ => (.nan, fNone)
  | _, .nan => (.nan, fNone)
  | .inf a, .inf b => if a == b then (.inf a, fNone) else (.nan, fNV)
  | .inf a, _ => (.inf a, fNone)
  | _, .inf b => (.inf b, fNone)
  | .fin a m e, .fin b n g => (faddFin a m e b n g, fNone)

/-- An arithmetic result rounded into a format, with its flags. -/
def Fmt.of (f : Fmt) (r : FVal × Flags) : Nat × Flags :=
  let (b, g) := f.encode .rne false r.1
  (b, r.2.or g)

def Fmt.add (f : Fmt) (x y : FVal) : Nat × Flags := f.of (faddX x y)
def Fmt.sub (f : Fmt) (x y : FVal) : Nat × Flags := f.of (faddX x y.neg)
def Fmt.mul (f : Fmt) (x y : FVal) : Nat × Flags := f.of (fmulX x y)
/-- x × y + z with one rounding. -/
def fmaX (x y z : FVal) : FVal × Flags :=
  let p := fmulX x y
  -- a NaN input raises no flag (R51), an invalid product does
  if x.isNan || y.isNan || z.isNan then (.nan, fNone)
  else if p.1.isNan then p
  else faddX p.1 z
def Fmt.fma (f : Fmt) (x y z : FVal) : Nat × Flags := f.of (fmaX x y z)

/-- Division under IEEE 754 and R496, rounded RNE. -/
def Fmt.div (f : Fmt) (x y : FVal) : Nat × Flags :=
  match x, y with
  | .nan, _ => (f.nan, fNone)
  | _, .nan => (f.nan, fNone)
  | .inf _, .inf _ => (f.nan, fNV)
  | .inf a, .fin b _ _ => f.encode .rne false (.inf (a != b))
  | .fin a _ _, .inf b => f.encode .rne false (.fin (a != b) 0 0)
  | .fin a m e, .fin b n g =>
    if n == 0 then
      if m == 0 then (f.nan, fNV)
      else ((f.encode .rne false (.inf (a != b))).1, fOF)
    else
      let k := 80 + Nat.log2 n
      f.roundFin .rne false (a != b) ((m <<< k) / n) (e - g - k) ((m <<< k) % n != 0)

/-- Integer square root by bits, highest first. -/
def isqrtGo (n : Nat) : Nat → Nat → Nat
  | 0, r => r
  | k + 1, r =>
    let c := r + 2 ^ k
    if c * c ≤ n then isqrtGo n k c else isqrtGo n k r
def isqrt (n : Nat) : Nat := isqrtGo n (Nat.log2 n / 2 + 1) 0

/-- Square root under IEEE 754 and R496, rounded RNE. -/
def Fmt.sqrt (f : Fmt) (x : FVal) : Nat × Flags :=
  match x with
  | .nan => (f.nan, fNone)
  | .inf false => f.encode .rne false (.inf false)
  | .inf true => (f.nan, fNV)
  | .fin a m e =>
    if m == 0 then f.encode .rne false (.fin a 0 0)
    else if a then (f.nan, fNV)
    else
      -- an even exponent and at least 60 bits of root
      let m' := if e % 2 == 0 then m <<< 120 else m <<< 121
      let e' := if e % 2 == 0 then e - 120 else e - 121
      let r := isqrt m'
      f.roundFin .rne false false r (e' / 2) (r * r != m')

/-- Exact order of two non-NaN values with −Inf lowest, +Inf highest and −0 below +0 (R51). -/
def fltX (x y : FVal) : Bool :=
  match x, y with
  | .nan, _ => false
  | _, .nan => false
  | .inf a, .inf b => a && !b
  | .inf a, .fin .. => a
  | .fin .., .inf b => !b
  | .fin a m e, .fin b n g =>
    if m == 0 && n == 0 then a && !b
    else
      let q := min e g
      let x : Int := (m <<< (e - q).toNat : Nat)
      let y : Int := (n <<< (g - q).toNat : Nat)
      (if a then -x else x) < (if b then -y else y)
/-- Numerical equality: −0 equals +0, a NaN equals nothing. -/
def feqX (x y : FVal) : Bool :=
  match x, y with
  | .nan, _ => false
  | _, .nan => false
  | .fin _ 0 _, .fin _ 0 _ => true
  | x, y => !fltX x y && !fltX y x

/-- Minimum (max false) or maximum of R51. -/
def fminmax (mx : Bool) (x y : FVal) : FVal :=
  if x.isNan then y
  else if y.isNan then x
  else if mx then (if fltX x y then y else x)
  else (if fltX y x then y else x)

/-! ### The stochastic rounding generator (R56) -/

/-- One round of R56 with multiplier m. -/
def srRound (k m x : BitVec 64) : BitVec 64 :=
  let x := x + k
  let x := x ^^^ x.rotateRight 23
  let x := x * m
  x ^^^ (x >>> 29)

/-- sr_bits of R56. -/
def srBits (key : BitVec 64) (tensor step idx : Nat) (w : BitVec 64) : BitVec 64 :=
  let k := key ^^^ BitVec.ofNat 64 ((tensor % 2 ^ 24) <<< 32)
  let k := k ^^^ BitVec.ofNat 64 (((idx >>> 34) % 65536) <<< 16) ^^^ w
  let c := BitVec.ofNat 64 (((step % 2 ^ 32) <<< 32) + (idx >>> 2) % 2 ^ 32)
  let x := c ^^^ k
  let x := srRound k 0xA3C59E217B4D1F6B#64 x
  let x := srRound k 0x8F1E4D73C2A95B37#64 x
  let x := srRound k 0xC9B26E15F03D8A4D#64 x
  srRound k 0xB7E41A59D68C23F5#64 x

/-- The 16-bit field of one element: sr_field of sr_bits (R56). -/
def srField (key : BitVec 64) (tensor step idx : Nat) (w : BitVec 64) : Nat :=
  ((srBits key tensor step idx w).toNat >>> (16 * (idx % 4))) % 65536

/-- The w of a window contribution from source id `src`, r = 1 for a device (R63, R64). -/
def srW (r : Bool) (src : Nat) : BitVec 64 := BitVec.ofNat 64 (2 ^ 63 + (if r then 2 ^ 62 else 0) + src % 65536)

/-! ### HB8 blocks (R45-R48) -/

/-- The value of one HB8 element under its scale byte (R45, R46). -/
def hb8Value (uns : Bool) (scale elem : Nat) : FVal :=
  if scale == 0xFF then .nan
  else ((if uns then Fmt.hb8u else Fmt.hb8s).decode elem).scale ((scale : Int) - 127)

/-- The larger of two magnitudes of a block. -/
def hb8Amax (vs : List FVal) : FVal := vs.foldl (fun a v => fminmax true a v.abs) FVal.zero

/-- The scale exponent of a block whose largest magnitude is nonzero (R48 step 3). -/
def hb8ScaleExp (uns : Bool) (amax : FVal) : Int :=
  max (-127) (min 127 (amax.ilog2 - (if uns then 16 else 8)))

/-- One element of a block: divide exactly by the scale and round (R48 steps 4-6). -/
def hb8Elem (uns : Bool) (sexp : Int) (mode : Rnd) (v : FVal) : Nat × Flags :=
  if uns && v.sign then (if v.isZero then (0, fNone) else (0, fNV))
  else (if uns then Fmt.hb8u else Fmt.hb8s).encode mode false (v.scale (-sexp))

/-- Convert a block to HB8: the scale byte, the element bytes, the flags (R48). `mode i` is the mode of element i. -/
def hb8Block (uns : Bool) (mode : Nat → Rnd) (vs : List FVal) : Nat × List Nat × Flags :=
  if vs.any (fun v => !v.isFin) then (0xFF, vs.map (fun _ => 0), fNV)
  else
    let amax := hb8Amax vs
    if amax.isZero then (0, vs.map (fun _ => 0), fNone)
    else
      let se := hb8ScaleExp uns amax
      let rs := vs.zipIdx.map fun (v, i) => hb8Elem uns se (mode i) v
      ((se + 127).toNat, rs.map (·.1), (rs.map (·.2)).foldl Flags.or fNone)

/-! ### Exact window sums (R59-R68) -/

/-- ceil(log2 n). -/
def clog2 (n : Nat) : Nat := if n ≤ 1 then 0 else Nat.log2 (n - 1) + 1

/-- A contributor's report E_i and its NV bit (R60). -/
def expReport (vs : List FVal) : Int × Bool :=
  if vs.any (fun v => !v.isFin) then (127, true)
  else
    let nz := vs.filter (fun v => !v.isZero)
    match nz with
    | [] => (-128, false)
    | _ => (nz.foldl (fun a v => max a v.ilog2) (-127), false)

/-- W and whether the reducer raises OF (R60). -/
def windowExp (emax : Int) (n : Nat) : Int × Bool :=
  if emax ≤ -128 then (-128, false)
  else
    let w := emax + clog2 n + 1
    if w > 127 then (127, true) else (w, false)

/-- A window accumulator: the integer A, POISON and its flags (R59). -/
structure Win where
  acc : Int := 0
  poison : Bool := false
  flags : Flags := {}
  deriving DecidableEq, Repr

/-- A saturates at ±(2^63 − 1) with OF (R65). -/
def Win.sat (w : Win) : Win :=
  if w.acc ≥ 2 ^ 63 then { w with acc := 2 ^ 63 - 1, flags := w.flags.or fOF }
  else if w.acc ≤ -(2 ^ 63) then { w with acc := -(2 ^ 63 - 1), flags := w.flags.or fOF }
  else w

/-- The grid integer of a finite value v and its flags, under window exponent W and n contributors (R61, R64). -/
def winGrid (W : Int) (n : Nat) (neg : Bool) (m : Nat) (e : Int) (field : Nat) : Int × Flags :=
  let l : Int := W - clog2 n
  -- |v| ≥ L: replaced with L, raising OF, and NX when that changes the value (R52)
  let clampL := m != 0 && (e + (Nat.log2 m : Int) ≥ l)
  let exactL := clampL && m == 2 ^ (Nat.log2 m) && e + (Nat.log2 m : Int) == l
  let (m, e, f) := if clampL then (1, l, (⟨true, false, !exactL, false⟩ : Flags)) else (m, e, fNone)
  let q : Int := e + 62 - W
  let (kept, inexact) :=
    if q ≥ 0 then (m <<< q.toNat, false) else roundMag (.sr field) m (-q).toNat false
  (if neg then -(kept : Int) else kept, { f with inx := f.inx || inexact })

/-- Add one contribution (R64). -/
def Win.add (a : Win) (W : Int) (n : Nat) (v : FVal) (field : Nat) : Win :=
  match v with
  | .fin neg m e =>
    let (k, f) := winGrid W n neg m e field
    Win.sat { a with acc := a.acc + k, flags := a.flags.or f }
  | _ => { a with poison := true, flags := a.flags.or fNV }

/-- Add a partial of an equal window without rounding (R66). -/
def Win.merge (a b : Win) : Win :=
  Win.sat { acc := a.acc + b.acc, poison := a.poison || b.poison, flags := a.flags.or b.flags }

/-- The FP32 read-out of R67 steps 1 and 2. -/
def Win.read32 (a : Win) (W EXP : Int) : Nat × Flags :=
  if a.poison then (Fmt.fp32.nan, fNone)
  else Fmt.fp32.encode .rne false (.fin (a.acc < 0) a.acc.natAbs (W - 62 - EXP))

/-- FP32 to BF16 by SR (R67 step 3). -/
def bf16Sr (field fp32 : Nat) : Nat × Flags := Fmt.bf16.encode (.sr field) false (Fmt.fp32.decode fp32)

/-- The RNE conversion of an FP32 master to its BF16 working copy (R69). -/
def bf16Rne (fp32 : Nat) : Nat × Flags := Fmt.bf16.encode .rne false (Fmt.fp32.decode fp32)

/-- The conversion of an FP32 container to F19 under RNE (R43), with the flags that R43 gives it: NX, or OF and NX, never UF (log
entry 31). -/
def f19Rne (raw : Nat) : Nat × Flags :=
  let (v, f) := Fmt.f19.encode .rne false (Fmt.fp32.decode raw)
  (v, { f with udf := false })

end Sys2Proof.Machine
end

