-- ==== Sys2Proof/Machine/TileState.lean ====
section
/-! DEFINITION. The state of one tile: task slots, tokens, mailboxes, operations in flight, the engines' queues and
weight buffers, the stream engine, the image state (03_tiles.md, 04_matrix_and_vector_engines.md,
05_streams_prefetch_multicast.md). -/

namespace Sys2Proof.Machine

/-- Slot states of R79. RUNNING and WAITING are the two readings of `live`: which one TASK_STATE shows follows from
whether the next instruction is ready. -/
inductive SlotSt where
  | idle | live | halted | illegal | misaligned | killed
  deriving DecidableEq, Repr

/-- A task slot (R78): PC, s0-s31, a0-a7, state, CODE of the last HALT. -/
structure Slot where
  st : SlotSt := .idle
  pc : BitVec 13 := 0
  s : KMap (BitVec 32) := []
  a : KMap (BitVec 48) := []
  code : BitVec 16 := 0
  /-- which of the tile's tasks this is: SPAWN and START begin a new one -/
  task : Nat := 0
  deriving DecidableEq, Repr

/-- A message held by a mailbox: source (y << 6) | x, and 1 to 256 bytes (R103, R107). -/
structure Msg where
  src : Nat
  bytes : List Byte
  deriving DecidableEq, Repr

/-- What a tile operation in flight is (R87, R95, R104). -/
inductive OpKind where
  | gld (rd size : Nat) (signed : Bool)
  | gst (data : List Byte)
  | send (word : BitVec 32) (data : List Byte)
  deriving DecidableEq, Repr

/-- How the target answered an operation: loaded bytes, a store acknowledged, a message accepted or refused. -/
inductive OpAns where
  | loaded (data : List Byte) | stored | accepted | refused
  deriving DecidableEq, Repr

/-- A GLD, GST or SEND in flight (R87, R493). -/
structure TileOp where
  tag : Nat
  slot : Nat
  /-- the task that issued it, as the slot counted it -/
  task : Nat := 0
  kind : OpKind
  addr : Nat := 0
  /-- for an access to the tile's own window: the unit that serves it and the offset in the window (R111) -/
  own : Option (Nat × Nat) := none
  sig : Nat := 0
  /-- the place of its packet among those this tile has sent (R28): its tag, until it is sent again -/
  no : Nat := 0
  /-- the answer on its way back, once the target has served the packet -/
  ans : Option OpAns := none
  /-- the unit that sent the answer, and the answer's place among the packets of this tile (R28) -/
  sent : Option (Nat × Nat) := none
  /-- the operation's packet, or its answer, was discarded (R467); OPERATION_RESEND sends it again (R493) -/
  lost : Bool := false
  /-- a SEND whose packet is at the tile: held back by R105, or refused and waiting its 64 cycles (R104) -/
  held : Bool := false
  /-- its task was killed: a load's data are never written and its token is not raised; a message that has left the tile is
  delivered, but once refused it is unsent, and dropped (R81) -/
  cancelled : Bool := false
  deriving DecidableEq, Repr

/-- Where an engine operand lies (R123, R124): a register-file byte offset, an operand cache offset, or a scalar. -/
inductive Opnd where
  | reg (off : Nat) | oc (off : Nat) | scal (v : BitVec 32)
  deriving DecidableEq, Repr

/-- An instruction word (R90). -/
abbrev IWord := BitVec 64

/-- One write of an instruction: bytes at an offset of an operand. -/
structure EngWr where
  at' : Opnd
  off : Nat
  data : List Byte
  deriving DecidableEq, Repr

/-- An engine instruction with everything latched at issue: its word, operand places, scalar coefficients, SR inputs. -/
structure EngOp where
  seq : Nat
  word : IWord
  d : Opnd := .scal 0
  x : Opnd := .scal 0
  y : Opnd := .scal 0
  z : Opnd := .scal 0
  coef : List (BitVec 32) := []
  key : BitVec 64 := 0
  step : Nat := 0
  /-- the operand blocks of a matrix instruction, as encodings, captured when it starts -/
  got : List (List Nat) := []
  /-- what a vector or convert instruction has yet to write, and the flags it raises (OF, UF, NX, NV), fixed by what it read when it
  ran (R156) -/
  wr : List EngWr := []
  fl : Nat := 0
  deriving DecidableEq, Repr

/-- A weight buffer: a 32 × 32 block of encodings and its format (R135). -/
structure WBuf where
  fmt : Fmt := .bf16
  cells : List Nat := []
  deriving DecidableEq, Repr

/-- What a stream request asks for (R166, R169, R187, R197). -/
inductive ReqKind where
  /-- the read of one 256 B block of list n (0 index, 1 offsets, 2 weights) -/
  | block (list blk : Nat)
  /-- records with their device addresses; more than one only on the Dibber path -/
  | gather (recs : List (Nat × Nat))
  /-- one pooled record: the bag's entries (index, none for the sentinel; FP32 weight) -/
  | lookup (recno : Nat) (bag : List (Option Nat × Nat))
  /-- records of a REMOTE stream with their addresses, requested through its flow context; a pooled one has a bag instead -/
  | remote (recs : List (Nat × Nat)) (bag : List (Option Nat × Nat))
  deriving DecidableEq, Repr

/-- The 64 bytes of a stream descriptor (R160). -/
abbrev SDesc := List Byte

/-- An outstanding request that awaits data: one tracker entry (R169). -/
structure StreamReq where
  id : Nat
  slot : Nat
  gen : BitVec 16
  kind : ReqKind
  /-- the descriptor of the generation that sent it -/
  desc : SDesc := []
  cancelled : Bool := false
  /-- its packet or response was discarded (R467): it recovers only under R170 -/
  lost : Bool := false
  /-- a lookup forwarded by a natural home under this directory version (R224) -/
  fwd : Option Nat := none
  /-- the packet by which the natural home forwards it was discarded (R467), to be sent again (R493) -/
  fwdLost : Bool := false
  /-- its place among the forwarded ones -/
  fwdNo : Nat := 0
  /-- the response on its way back, one byte list per record -/
  resp : Option (List (List Byte)) := none
  sent : Option (Nat × Nat) := none
  /-- records that have come back before the rest of the request's -/
  part : List (Nat × List Byte) := []
  deriving DecidableEq, Repr

/-- A SCATTER write of a stream on its way to its target (R168). -/
structure StreamWr where
  id : Nat
  slot : Nat
  gen : BitVec 16
  addr : Nat
  data : List Byte
  deriving DecidableEq, Repr

/-- An acceptance or acknowledgement of an outbound record or of a leader's record, on its way back to the stream (R168, R184, R495). -/
structure AckMsg where
  slot : Nat
  gen : BitVec 16
  /-- the unit that sent it, and its place among the packets of this tile (R28) -/
  src : Nat
  no : Nat
  deriving DecidableEq, Repr

/-- A multicast record on its way to a member (R183-R185). -/
structure McRec where
  id : Nat
  /-- the unit that sent it -/
  src : Nat := 0
  leader : Nat
  lslot : Nat
  lgen : BitVec 16
  recno : Nat
  data : List Byte
  deriving DecidableEq, Repr

/-- A member as its leader counts it (R184, R186). -/
structure Member where
  armed : Bool := false
  mslot : Nat := 0
  returned : Nat := 0
  detached : Bool := false
  deriving DecidableEq, Repr

/-- Where a member's arm credit stands (R184). -/
inductive CreditSt where
  | none | flying | refused | accepted
  deriving DecidableEq, Repr

/-- One request unit formed from the index list, not yet sent (R166, R187). -/
structure SUnit where
  buf : Nat
  kind : ReqKind
  narrow : Bool := false
  deriving DecidableEq, Repr

/-- A stream slot (R158-R188). -/
structure SSlot where
  st : Nat := 0
  owner : Nat := 0
  reason : Nat := 0
  relerr : Bool := false
  gen : BitVec 16 := 0
  doneRecs : Nat := 0
  /-- the 64 bytes of the current generation's descriptor -/
  desc : SDesc := []
  /-- a held shadow arm: descriptor bytes and the arming task -/
  shadow : Option (SDesc × Nat) := none
  /-- buffers held by the program -/
  held : Nat := 0
  /-- of a member's held buffers, oldest first: the leader's tile, slot and generation that their data belong to (R184) -/
  heldOf : List (Nat × Nat × BitVec 16) := []
  /-- an inbound generation that must wait until the program holds none of the old buffers (R175) -/
  clear : Bool := false
  start : Nat := 0
  pos : Nat := 0
  /-- buffers planned, signalled; record units not yet sent; records received per buffer not yet signalled -/
  planned : Nat := 0
  signalled : Nat := 0
  units : List SUnit := []
  got : List Nat := []
  /-- index blocks read so far: (list, block, bytes) -/
  blocks : List (Nat × Nat × List Byte) := []
  /-- buffers handed to the engine by SREL, of an outbound stream -/
  handed : Nat := 0
  /-- records sent, acknowledgements received -/
  sent : Nat := 0
  acked : Nat := 0
  /-- the slot and generation it is chained behind (R177) -/
  chain : Option (Nat × BitVec 16) := none
  members : KMap Member := []
  credit : CreditSt := .none
  /-- the place of the arm credit's packet among those of this tile (R28) -/
  creditNo : Nat := 0
  /-- the leader generation a member's data belong to -/
  lgen : BitVec 16 := 0
  deriving DecidableEq, Repr

/-- A credit, detach or cancel marker on its way between a member and its leader (R184, R186). -/
structure CtlMsg where
  /-- the member's slot -/
  slot : Nat
  /-- the leader: tile code, slot, and its generation once the member knows it -/
  leader : Nat
  lslot : Nat
  lgen : Option (BitVec 16)
  /-- its place among the packets of the tile that sent it (R28) -/
  no : Nat := 0
  deriving DecidableEq, Repr

/-- A reply of a tile to the loader (R115): ACK is reason 0; otherwise NACK with its bitmap and reason. -/
structure ImgReply where
  loadId : BitVec 16
  reason : Nat
  resend : List Nat
  deriving DecidableEq, Repr

/-- A seal message (R115). -/
structure SealMsg where
  loadId : BitVec 16
  n : Nat
  digest : List Byte
  deriving DecidableEq, Repr

/-- What STEP_START multicasts to a tile (R237). -/
structure KeyMsg where
  key : BitVec 64
  step : BitVec 32
  ports : BitVec 256
  token : Nat
  deriving DecidableEq, Repr

/-- The state of a tile. -/
structure Tile where
  slots : KMap Slot := []
  tokens : KMap (BitVec 16) := []
  tokenOvf : BitVec 64 := 0
  quantum : BitVec 5 := 16
  cycles : Nat := 0
  /-- fraction of a tile cycle the ticks have gathered, in 1/120 cycle -/
  cycFrac : Nat := 0
  progress : BitVec 32 := 0
  sendRetry : BitVec 32 := 0
  group : BitVec 6 := 0
  lag : Bool := false
  /-- the task that issued last, how many in a row, whether it issued in the previous cycle, whether it yielded (R88) -/
  last : Nat := 7
  run : Nat := 0
  hot : Bool := false
  yielded : Bool := false
  imgState : Nat := 0
  loadId : BitVec 16 := 0
  imgRound : Nat := 0
  chunks : List Nat := []
  chunk0 : List Byte := []
  sealed : Option SealMsg := none
  reply : Option ImgReply := none
  /-- PROGRESS at the last sample and consecutive slow judged periods (R121) -/
  lagPrev : BitVec 32 := 0
  lagCount : Nat := 0
  mboxTok : KMap (BitVec 6) := []
  mboxes : KMap (List Msg) := []
  ops : List TileOp := []
  /-- number of the next packet of this tile: the tags of its operations, and the ids of its stream packets -/
  nextTag : Nat := 0
  /-- number of the next task (R82) -/
  nextTask : Nat := 1
  /-- outcomes each target keeps of this tile's last 128 operations, by target unit (R493) -/
  kept : KMap (List (Nat × OpAns)) := []
  mq : List EngOp := []
  mrunLoad : List EngOp := []
  mrun : List EngOp := []
  vq : List EngOp := []
  vrun : List EngOp := []
  engSeq : Nat := 0
  wb0 : WBuf := {}
  wb1 : WBuf := {}
  fpFlags : BitVec 12 := 0
  /-- the job key, step and bucket PORT bits the tile holds (R153, R237) -/
  jobKey : BitVec 64 := 0
  jobStep : BitVec 32 := 0
  jobPorts : BitVec 256 := 0
  keyIn : List KeyMsg := []
  /-- the stream engine -/
  localUs : BitVec 10 := 100
  remoteMs : BitVec 10 := 10
  lowLimit : BitVec 11 := 768
  bytesFetched : BitVec 64 := 0
  bytesDiscarded : BitVec 64 := 0
  narrowReqs : BitVec 64 := 0
  streams : KMap SSlot := []
  reqs : List StreamReq := []
  outs : List StreamWr := []
  /-- acknowledgements on their way back to the tile's streams -/
  acks : List AckMsg := []
  /-- the slot whose request was sent last (R172) -/
  lastReq : Nat := 31
  mcIn : List McRec := []
  /-- the signal token of a SCAN that has not completed (R165) -/
  scanBusy : Option Nat := none
  releases : List CtlMsg := []
  detaches : List CtlMsg := []
  markers : List CtlMsg := []
  /-- operand cache, register file and instruction store by tile-window offset below 0x13_0000 (R33) -/
  mem : KMap Byte := []
  latches : Latches := {}
  deriving DecidableEq, Repr

/-- What a tile asks the rest of the device to do when an instruction or event of it runs. -/
inductive TileOut where
  /-- R80 -/
  | fault (slot : Nat) (pc : BitVec 13) (code : Nat)
  /-- R106 -/
  | undeliverable (word : BitVec 32)
  /-- R170 -/
  | timeout (slot : Nat) (gen : BitVec 16)
  /-- R35: TREG to a reserved offset; the word offset that answered -/
  | unmapped (slot off : Nat)
  /-- R9: TREG to a CFG field -/
  | cfgIgnored (slot off : Nat)
  /-- a cancelled or ended bucket PUSH: its marker leaves (R241); slot and generation name the segment, the descriptor its place -/
  | marker (slot : Nat) (gen : BitVec 16) (desc : SDesc) (cancelled : Bool)
  /-- a cancelled or failed leader sends its markers to the members it holds (R186) -/
  | leaderEnd (slot : Nat) (gen : BitVec 16) (members : KMap Member)
  deriving DecidableEq, Repr

end Sys2Proof.Machine
end

