-- ==== Sys2Proof/Machine/DevState.lean ====
section
/-! DEFINITION. The records of the device outside the tiles: events, embedding engines, jobs and buckets, contexts,
items, the twin, the Cloche, power and start (chapters 06 to 17). -/

namespace Sys2Proof.Machine

/-- An event held by a unit or written to the ring (R461). -/
structure EvRec where
  typ : Nat
  count : Nat := 1
  src : Nat
  uptime : Nat
  data : List Byte
  deriving DecidableEq, Repr

/-- The embedding engine of a base die, beyond its registers. -/
structure EmbDie where
  /-- rows in the hot-row cache, as (table, row) (R201) -/
  hot : List (Nat × Nat) := []
  /-- lookups of the current step per row -/
  counts : List ((Nat × Nat) × Nat) := []
  /-- closed tables already reported in this step (R191) -/
  badSeen : List Nat := []
  /-- a MIG_REQ that has not been answered (R223) -/
  migReq : Option (BitVec 64) := none
  /-- default-row hits and discarded default gradients of the step, per table (R198, R205, R230) -/
  defHits : KMap Nat := []
  defGrads : KMap Nat := []
  deriving DecidableEq, Repr

/-- A migration directory entry (R224, R229): st as MIGDIR.STATE codes it. -/
structure MigEnt where
  table : Nat
  index : Nat
  stack : Nat
  st : Nat
  addr : Nat
  /-- MOVING: where it goes, the slot reserved there, the slot once the copy is written; whether it returns to its
  natural home. FORWARD: `slot` is the old copy's slot -/
  target : Nat := 0
  slot : Nat := 0
  copy : Option Nat := none
  back : Bool := false
  /-- FORWARD: the one base die that holds the entry -/
  only : Option Nat := none
  /-- PINNED, with an UNPIN that takes effect at this many step starts from now -/
  unpin : Option Nat := none
  deriving DecidableEq, Repr

/-- A request accepted for the next step start (R223): op as MIG_REQ.OP codes it. -/
structure MigAsk where
  table : Nat
  index : Nat
  op : Nat
  target : Nat
  /-- the slot reserved in the target's migration area -/
  slot : Nat := 0
  deriving DecidableEq, Repr

/-- A PUSH record on its way to its staging die (R204). -/
structure PushRec where
  tile : Nat
  slot : Nat
  gen : BitVec 16
  die : Nat
  home : Nat
  table : Nat
  index : Nat
  job : Nat
  step : Nat
  bf16 : Bool
  bytes : List Byte
  /-- its place among the packets of its tile (R28) -/
  no : Nat := 0
  deriving DecidableEq, Repr

/-- A staging entry (R205). `row` is the table's ROWS for the default row. -/
structure StageEnt where
  die : Nat
  job : Nat
  src : Nat
  home : Nat
  table : Nat
  row : Nat
  step : Nat
  sums : List Nat
  /-- a late record poisoned the row's level-1 accumulators (R207) -/
  poison : Bool := false
  /-- evicted from the merge buffer: its address in the staging area (R205) -/
  at' : Option Nat := none
  deriving DecidableEq, Repr

/-- A level-2 report of one source for one table (R213, R320). -/
structure L2Report where
  src : Nat
  table : Nat
  e : Int
  flags : Nat
  deriving DecidableEq, Repr
/-- A level-2 contribution: one row's BF16 values. -/
structure L2Row where
  src : Nat
  table : Nat
  row : Nat
  vals : List Nat
  deriving DecidableEq, Repr

/-- A command of a job (R232), with the queue it came on. `wait` marks a command whose start is held back. -/
structure Cmd where
  id : Nat
  queue : Nat
  bytes : List Byte
  deriving DecidableEq, Repr

/-- A completion held back by a guard entry (R317). -/
structure Deferred where
  guard : Nat
  cmd : Option Cmd
  status : Nat := 0
  detail : Nat := 0
  step : Nat := 0
  more : List Byte := []
  deriving DecidableEq, Repr

/-- A segment of a bucket, pushed by one tile's stream generation (R241, R242). -/
structure Seg where
  tile : Nat
  slot : Nat
  gen : BitVec 16
  job : Nat
  bucket : Nat
  port : Nat
  elem : Nat
  nelem : Nat
  ret : Nat
  retTok : Nat
  step : Nat
  bytes : List Byte := []
  /-- its place in the job's staging area (R242) -/
  off : Nat := 0
  done : Bool := false
  poison : Bool := false
  /-- records of it found the staging area full: its elements beyond `bytes` are poisoned (R242) -/
  cut : Bool := false
  /-- discarded: out of range or short (R242), rogue (R62) or of a closed bucket (R240) -/
  bad : Bool := false
  /-- from a tile outside the job's rectangle (R242) -/
  rogue : Bool := false
  deriving DecidableEq, Repr

/-- A segment record, or a segment's end or cancel marker, on its way to a collective engine. -/
structure SegRec where
  seg : Seg
  bytes : List Byte
  /-- its place among the packets of its tile (R28) -/
  no : Nat := 0
  deriving DecidableEq, Repr
structure EndMark where
  seg : Seg
  flags : Nat
  cancelled : Bool
  no : Nat := 0
  deriving DecidableEq, Repr

/-- One member's report of a bucket or collective (R243). -/
structure CollReport where
  rank : Nat
  e : Int
  flags : Nat
  deriving DecidableEq, Repr
/-- A run of partials, results or data received from a member, from element `first`. `none` is POISON. -/
structure CollRun where
  rank : Nat
  first : Nat
  vals : List (Option Int)
  /-- the OR of the partials' flags (R66) -/
  flags : Nat := 0
  deriving DecidableEq, Repr

/-- A bucket of the current step (R240-R249). -/
structure Bucket where
  rec' : List Byte := []
  shards : List Nat := []
  isOpen : Bool := false
  segs : List Seg := []
  /-- segments completed, header flags of the local part (OF, UF, NX, NV), NV and POISON of the local part -/
  ended : Nat := 0
  hdr : Nat := 0
  poisonAll : Bool := false
  stageFull : Bool := false
  localDone : Bool := false
  expired : Bool := false
  reports : List CollReport := []
  /-- after the handshake: W, and the flags of every member -/
  w : Option Int := none
  flags : Nat := 0
  parts : List CollRun := []
  results : List CollRun := []
  shardSums : List (Nat × Nat) := []
  shardSent : Bool := false
  complete : Bool := false
  deriving DecidableEq, Repr

/-- A COLLECTIVE command in progress (R259, R260): what it sends, what it has received, by rank. -/
structure Coll where
  cmd : Cmd
  job : Nat
  group : Nat
  seq : Nat
  own : List Byte := []
  shards : List Nat := []
  reports : List CollReport := []
  counts : List (Nat × Nat) := []
  runs : List CollRun := []
  data : List (Nat × Nat × List Byte) := []
  results : List CollRun := []
  shardSent : Bool := false
  w : Option Int := none
  flags : Nat := 0
  deriving DecidableEq, Repr

/-- A row that a sweep has written: where its slot lies, and what the retention area keeps until the next commit, the slot as it was
and the merged gradient (R220, R363). No slot: the row is unretained. -/
structure Touched where
  die : Nat
  table : Nat
  row : Nat
  addr : Nat
  slot : Option (List (Byte × Bool)) := none
  g : List Nat := []
  /-- where the copy lies in the retention area -/
  at' : Nat := 0
  deriving DecidableEq, Repr

/-- The working state of a job, beyond its registers. -/
structure Job where
  /-- EXP latched at STEP_START (R75), and the override that waits (R74). DESIGN CHOICE: before the first STEP_START, UNSCALE takes EXP
  as 0 (log entry 118) -/
  exp : Nat := 0
  pend : Option Nat := none
  buckets : KMap Bucket := []
  sweep : Option Cmd := none
  commit : Option Cmd := none
  /-- the SWEEP's rectangle, level 1 finished, staging closed for the step -/
  rect : Nat := 0
  level1 : Bool := false
  closedStep : Option Nat := none
  arrExpired : Bool := false
  /-- every wait of COMMIT's step 1 is over and its record is written; the twin comparison is under way -/
  comparing : Bool := false
  cast : Bool := false
  votes : List (Nat × Bool) := []
  evOf : Bool := false
  evNv : Bool := false
  /-- twin: evidence sent, the partner's by step, the last step this device committed that its partner has not, and the
  last step the partner said it committed (R361, R373) -/
  evSent : Bool := false
  partnerEv : Option (Nat × Bool × Bool) := none
  peerCommitted : Option Nat := none
  /-- when the partner's commit notice came (R373) -/
  noticeAt : Nat := 0
  reports : List L2Report := []
  rows : List L2Row := []
  /-- rows received of each source, those discarded under R62 among them, and each source's L1_END (R321) -/
  rowsIn : KMap Nat := []
  ends : List (Nat × Nat) := []
  /-- staging areas found full, as (die, step), and tables with a record discarded for it, as (step, home, table) (R208) -/
  fullDies : List (Nat × Nat) := []
  poisonTabs : List (Nat × Nat × Nat) := []
  /-- rows written by this step's sweep, in update order -/
  wrote : List Touched := []
  /-- rows written in the step committed last: kept until the next commit (R220, R373) -/
  wroteOld : List Touched := []
  /-- bytes of each base die's retention area that hold this step's and the step before's rows (R220) -/
  retNow : KMap Nat := []
  retOld : KMap Nat := []
  /-- steps this device finishes for the pair alone, and steps the partner does (R362); the first COMMIT after a catch-up is
  absorbed (R373) -/
  alone : List Nat := []
  /-- where entries of this step's rows lay in the staging area: table, row, address, bytes (R368) -/
  stagedAt : List (Nat × Nat × Nat × Nat) := []
  absorb : Bool := false
  abandoned : List Nat := []
  peerBehind : Bool := false
  /-- a round of repair has run, and both digests are to be exchanged again (R368) -/
  repaired : Bool := false
  /-- stalled by a difference that stayed: TAKEOVER returns the job to VOTED (R369) -/
  diverged : Bool := false
  dd : Option (List Byte) := none
  /-- the partner's digest of a step, with what it brings to the resolution of a difference (R365, R367) -/
  peerDd : Option (Nat × List Byte × Repair) := none
  live : KMap Nat := []
  collSeq : KMap Nat := []
  /-- shadow: changes of the migration directory that take effect at the commit (R370) -/
  notice : List (Nat × Option MigEnt) := []
  deriving DecidableEq, Repr

/-- A packet of a context, outgoing (R297, R303, R305). -/
structure TxPkt where
  op : Nat
  first : Bool := true
  last : Bool := true
  status : Nat := 0
  pay : List Byte := []
  psn : Nat := 0
  sentAt : Nat := 0
  resentAt : Option Nat := none
  /-- a retransmission is due -/
  again : Bool := false
  /-- the egress item it belongs to -/
  egress : Option Nat := none
  deriving DecidableEq, Repr

/-- A received sequenced packet kept until its turn (R303). -/
structure RxPkt where
  op : Nat
  first : Bool
  last : Bool
  status : Nat
  psn : Nat
  pay : List Byte
  /-- the port that took it in -/
  port : Nat := 0
  deriving DecidableEq, Repr

/-- The item a context is receiving (R313, R314): its bytes go to item `item`, or are discarded. -/
structure RxItem where
  queue : Nat
  msn : Nat
  len : Nat
  got : Nat
  item : Option Nat
  /-- an ACCEPT that a duplicate is answered again when its last packet has been processed -/
  again : Bool := false
  /-- the last packet's bytes are here, and the packet waits at EXP until the item has been accepted or refused (R303) -/
  whole : Bool := false
  deriving DecidableEq, Repr

/-- The state Ryrax keeps for a context (R301-R308, R314). -/
structure Ctx where
  queue : List TxPkt := []
  out : List TxPkt := []
  /-- unsequenced packets waiting to leave, by opcode -/
  ctl : List (Nat × List Byte) := []
  nextPsn : Nat := 0
  expPsn : Nat := 0
  held : List RxPkt := []
  /-- units sent, and the peer's limit on them -/
  sent : Nat := 0
  limit : Nat := 0
  /-- units received and granted; the last grant sent -/
  recv : Nat := 0
  grant : Nat := 0
  grantSent : Nat := 0
  apsnSent : Nat := 0
  /-- a packet is held behind a gap and the SACK for it has not left; when the last one left -/
  sackWant : Bool := false
  sackAt : Option Nat := none
  ecn : Nat := 0
  tsEcho : Nat := 0
  srtt : Nat := 0
  rttvar : Nat := 0
  rto : Nat := 0
  retries : Nat := 0
  rate : Nat := 0
  alpha : Nat := 0x3F800000
  marked : Nat := 0
  acked : Nat := 0
  dueAt : Nat := 0
  incarnation : Nat := 0
  onAlt : Bool := false
  nextMsn : Nat := 0
  window : BitVec 256 := 0
  txMsn : Nat := 0
  rx : Option RxItem := none
  /-- stream records requested and not answered, in order: (tile, request) -/
  asks : List (Nat × Nat) := []
  /-- a bag received in part: record number, table, POOL bits, entries (R320 CONT) -/
  bag : Option (Nat × Nat × Nat × List (Option Nat × Nat)) := none
  /-- bytes of a gathered record longer than one packet, received so far (log entry 129) -/
  piece : List Byte := []
  deriving DecidableEq, Repr

/-- An item from its judging until it is delivered (R329-R333). -/
structure Item where
  id : Nat
  queue : Nat
  ctx : Nat
  msn : Nat
  len : Nat
  bytes : List Byte := []
  /-- where it came from: 0 this device's context, 1 the twin, 2 the restored journal -/
  origin : Nat := 0
  /-- bytes of it that each port took in (R300) -/
  ports : KMap Nat := []
  /-- credit units its packets hold until it leaves the ingress buffer (R306) -/
  units : Nat := 0
  complete : Bool := false
  journal : Option Nat := none
  journalled : Bool := false
  twinAck : Bool := false
  ord : Option Nat := none
  accepted : Bool := false
  acceptNo : Nat := 0
  acceptAt : Nat := 0
  deadline : Option Nat := none
  poisoned : Bool := false
  deriving DecidableEq, Repr

/-- An egress transfer under way (R335, R336). -/
structure Egress where
  id : Nat
  queue : Nat
  ctx : Nat
  msn : Nat
  desc : List Byte
  /-- acceptance time plus EGRESS_NS and the time that R336 excludes; none for an unpromised class -/
  deadline : Option Nat
  started : Bool := false
  /-- MSN of the item it sends, and whether its last packet has been handed to the MAC -/
  txMsn : Nat := 0
  handed : Bool := false
  deriving DecidableEq, Repr

/-- A journal entry not yet released (R378-R380). -/
structure JEnt where
  off : Nat
  size : Nat
  queue : Nat
  ctx : Nat
  msn : Nat
  jsn : Nat
  len : Nat
  ord : Nat
  pad : Bool := false
  complete : Bool := false
  released : Bool := false
  restored : Bool := false
  /-- FLAGS.PARTNER: the item arrived from the twin -/
  partner : Bool := false
  /-- TAIL after its copy was delivered -/
  tailAt : Option Nat := none
  deriving DecidableEq, Repr

/-- Where a journal page lies in a slot: its number, the channel, the block and the page of the block (R386). -/
structure NandPage where
  page : Nat
  chan : Fin 2
  block : Nat
  at' : Nat
  deriving DecidableEq, Repr
/-- A NAND slot (R386): the sealed anchor (none while a flush has not sealed it, R385), the channels that hold it, the ring pages written
and where each lies, and their bytes by journal offset. -/
structure NandSlot where
  anchor : KMap Byte := []
  chans : List (Fin 2) := []
  pages : List NandPage := []
  ring : KMap Byte := []
  deriving DecidableEq, Repr

/-- Why a flush runs (R384, R406, R409, R433, R460). -/
inductive FlushWhy where
  | pfail | reset | trip | watchdog
  deriving DecidableEq, Repr

/-- What Ryrax sends to its twin (R346, R347, R350, R357, R361, R365, R370). -/
inductive TwMsg where
  | heartbeat (half : Nat)
  | pairing (msg : PairMsg)
  | item (queue ctx msn ord : Nat) (bytes : List Byte)
  | itemAck (queue ctx msn ord : Nat)
  | itemNak (queue ctx msn : Nat)
  | order (queue ctx msn ord : Nat)
  | drop (queue ctx msn : Nat)
  | evidence (job step : Nat) (ofl nv : Bool)
  | digest (job step : Nat) (base : Bool) (dd : List Byte)
  | notice (job step exp clean dv : Nat) (heads : List (Nat × Nat)) (dir : List (Nat × Option MigEnt)) (dd : List Byte)
  | delta (table row addr : Nat) (slot : List Byte)
  | area (addr : Nat) (data : List Byte)
  /-- every TD(t) and AD(k) of a job; block digests as (table, stack, block, digest); row digests as (table, index, digest) (R367) -/
  | digests (job step : Nat) (td ad : List (Nat × BitVec 128))
  | blocks (job step : Nat) (l : List (Nat × Nat × Nat × BitVec 128))
  | rows (job step : Nat) (l : List (Nat × Nat × BitVec 128))
  /-- a REPAIR READ (R346, R368) -/
  | repairRead (addr len : Nat)
  /-- what answers the partner's REPAIR READ -/
  | repairData (addr : Nat) (data : List Byte)
  | live (pair live : Nat)
  | abandon (job step : Nat)
  | takeover
  /-- a Faolo packet, header and payload (R353, R354) -/
  | relay (ctx : Nat) (packet : List Byte)
  | write (addr : Nat) (data : List Byte)
  | read (addr : Nat) (len : Nat)
  | rejoin
  | rejoined (copy : RejoinCopy)
  deriving DecidableEq, Repr

/-- A packet on a channel of the twin link (R346). -/
structure TwPkt where
  chan : Nat := 0
  psn : Nat := 0
  op : Nat
  first : Bool := true
  last : Bool := true
  pay : List Byte := []
  deriving DecidableEq, Repr

/-- The thermal and power levels of a throttle group (R403-R405). -/
structure Group where
  th : Nat := 0
  pw : Nat := 0
  /-- CLK.GROUP.CAP as the last policy tick took it (R403) -/
  cap : Nat := 0
  lastSlow : Option Nat := none
  lastChange : Option Nat := none
  hotSince : Option Nat := none
  /-- ten milliseconds at the floor with T_g ≥ HOT + 5 °C have passed: level 13 is the limit (R404) -/
  deep : Bool := false
  deriving DecidableEq, Repr

/-- The loader of R116-R119: one LOAD at a time. -/
structure Loader where
  cmd : Cmd
  tiles : List Nat
  loadId : Nat
  round : Nat := 0
  nchunks : Nat
  /-- the image's bytes as read, and their digest -/
  image : List Byte := []
  digest : List Byte := []
  /-- chunks of the current round that a tile has not yet been sent, per tile -/
  toSend : KMap (List Nat) := []
  /-- tiles whose seal, start or abandon message is still to arrive -/
  seals : List Nat := []
  replies : KMap (Nat × List Nat) := []
  waiting : List Nat := []
  /-- 0 sending, 1 starting, 2 abandoning -/
  phase : Nat := 0
  /-- the failure list, once the load is given up -/
  failed : List Byte := []
  nfail : Nat := 0
  deriving DecidableEq, Repr

/-- The always-on record of a warm reset (R425, R430, R443). -/
structure AonRec where
  digest : List Byte
  slot : Nat
  size : Nat
  vendorDigest : List Byte
  vendorCopy : Nat
  devKey : Option (List Byte)
  /-- IDENT.STATUS, LIC.STATUS and LIC.SLOTS, and the digests of the valid licences -/
  idRegs : List Nat
  licDigests : List (List Byte)
  /-- the hold area, 0 for none -/
  hold : Nat
  /-- CLOCHE.CFG, BASE0, BASE1, and REGION(r).CFG, that the kept journal lies under (R433) -/
  cloche : List Nat
  regions : List Nat
  /-- the image fields of PORT(16) and PORT(17) (R433) -/
  ports : List (List Nat)
  deriving DecidableEq, Repr

/-- A start on the warm fast path between its step 4 and READY (R431). -/
structure Early where
  env : StartEnv
  /-- the held image, where it is reused; else an image is chosen from flash (R432) -/
  img : Option (List Byte)
  /-- the uptime at which READY is due -/
  due : Nat
  /-- the records of the contexts of host ports 0 and 1 that are pinned in the context caches -/
  ctxs : KMap (List Byte)
  deriving DecidableEq, Repr

/-- A report being formed (R453, R454). -/
structure AttReq where
  buf : Nat
  bytes : List Byte
  deriving DecidableEq, Repr

/-- A flash operation under way (R434). -/
structure FlashOp where
  op : Nat
  dev : Nat
  off : Nat
  len : Nat
  buf : Nat
  deriving DecidableEq, Repr

end Sys2Proof.Machine
end

