-- ==== Sys2Proof/Machine/State.lean ====
section
/-! DEFINITION. The whole state of the device, the reasons a step can stop, and the state after power-on reset. -/

namespace Sys2Proof.Machine

/-- Faults. None is ever raised: every command of the table has the effect the manual gives it, and the manual stops
no command. Safe. -/
inductive Fault where
  /-- Raised by nobody. Safe. -/
  | unraised
  deriving DecidableEq, Repr

/-- Refusals. -/
inductive Refusal where
  /-- Raised by `exec` for a command whose meaning has not been written. Safe: nothing is claimed of it. -/
  | notModelled (mnemonic : String)
  deriving DecidableEq, Repr

/-- The state of Ryrax. -/
structure State where
  /-- commands that wait, first in, first out -/
  pending : List Instr := []
  tiles : KMap Tile := []
  /-- registers outside the tiles, by device address; an unlisted one holds its `RegKind.dflt` -/
  regs : KMap (BitVec 64) := []
  latches : Latches := {}
  /-- DRAM by stack and stack-local address, stack × 2^37 + local; an unlisted byte reads as zero (log entry 2) -/
  hbm : KMap Byte := []
  /-- granules marked POISONED, by the same number divided by 64 -/
  poison : List Nat := []
  /-- symbols of stored granules, by the same number, that have gone bad since the granule was written or corrected, each with the
  bits that are wrong (R273, R274) -/
  upset : KMap (List (Fin 68 × Byte)) := []
  /-- DRAM as every base die read the table directory from it at the last step start (R189) -/
  dirMem : KMap Byte := []
  /-- bytes answered to the last access that names no tile operation -/
  rdata : List Byte := []
  /-- register writes of the device's own units on their way: master, address, bytes (R37) -/
  unitOut : List (Master × Nat × List Byte) := []
  /-- packets of base dies, port dies and the management engine that were discarded and are to be sent again (R467, R493): SOURCE code,
  device address, and whether it is the answer -/
  unitLost : List (Nat × Nat × Bool) := []
  /-- number of the next lookup that a natural home forwards (R224) -/
  fwdNext : Nat := 0
  /-- the model's counter of free values (log entry 5) -/
  freeCount : Nat := 0
  -- events
  uptime : Nat := 0
  pllLocked : Bool := false
  events : KMap (List EvRec) := []
  lost : KMap Nat := []
  evBuf : List (List Byte) := []
  ringMapped : Bool := false
  ringLost : Nat := 0
  fatal : Bool := false
  /-- IBIs raised, and whether the 1 ms after the last one is running, with causes gathered meanwhile -/
  ibis : List (BitVec 8) := []
  ibiBusy : Bool := false
  ibiPend : Bool := false
  alertCause : BitVec 8 := 0
  tempArmed : Bool := true
  powerArmed : Bool := true
  i3cOffset : BitVec 8 := 0
  i3cAddr : Option (BitVec 7) := none
  i3cOut : List Byte := []
  -- embedding
  embs : KMap EmbDie := []
  migDir : KMap MigEnt := []
  migNext : List MigAsk := []
  /-- slots of migration areas in use, as (device address, bytes) -/
  migSlots : List (Nat × Nat) := []
  pushFly : List PushRec := []
  stage : List StageEnt := []
  -- jobs and collectives
  jobs : KMap Job := []
  cmdPos : KMap (Nat × Nat × Nat) := []
  nextCmd : Nat := 0
  running : List Cmd := []
  deferred : List Deferred := []
  segFly : List SegRec := []
  endFly : List EndMark := []
  /-- collective segments that wait for their operation: (context, packet payload) -/
  segWait : List (Nat × List Byte) := []
  colls : List Coll := []
  /-- a step has been committed since the start: the scrub of R70 runs in the background -/
  scrubs : Bool := false
  loads : List Cmd := []
  loader : Option Loader := none
  -- Faolo
  ctxs : KMap Ctx := []
  /-- context cache of each port die, most recently used first, with pinned ones marked -/
  ctxCache : KMap (List (Nat × Bool)) := []
  wire : List (Nat × List Byte) := []
  turn : KMap Nat := []
  pause : KMap Nat := []
  xoff : List Nat := []
  /-- ports that fell back from the extended rate, until the next start (R292) -/
  xrDown : List Nat := []
  /-- next pages each port has sent in its last auto-negotiation (R291) -/
  anPages : KMap (List AnPage) := []
  diagPeer : KMap (List Byte) := []
  -- queues
  items : List Item := []
  nextItem : Nat := 0
  acceptNo : Nat := 0
  egress : List Egress := []
  delivered : KMap Nat := []
  -- twin
  twinOut : List TwMsg := []
  /-- messages in `twinOut` that were sent before the last reset -/
  twinFrom : Nat := 0
  td : KMap (BitVec 128) := []
  /-- the block digests of each area as last hashed: AD(k) is their XOR (R364) -/
  ad : KMap (List (BitVec 128)) := []
  ordNext : KMap Nat := []
  /-- NEXT_MSN and outcome window of each takeover context while it is CLOSED here (R360, R381) -/
  takeMsn : KMap (Nat × BitVec 256) := []
  /-- a pairing message of a partner that starts while this device is SOLO has come: it is JOINING (R350) -/
  partnerJoining : Bool := false
  /-- this device's digests of the baseline under way, by job, and what the partner has sent for it (R366) -/
  baseline : Option (KMap (List Byte)) := none
  peerBaseline : KMap (List Byte × Repair) := []
  rejoining : Bool := false
  /-- granules with a MEM_UE event since the last commit (R368) -/
  ueSince : List Nat := []
  -- Cloche
  journal : List JEnt := []
  nextJsn : Nat := 0
  msnTab : KMap Nat := []
  nand : KMap NandSlot := []
  /-- NAND blocks known to be bad, by channel (R386) -/
  nandBad : List (Fin 2 × Nat) := []
  journalValid : Bool := false
  flush : Option FlushWhy := none
  /-- 50 ms after the last rise of WARM_N: until then a fall of PFAIL_N starts no flush (R388, R410) -/
  warmUntil : Nat := 0
  /-- the uptime at which the flush began (R384) -/
  flushAt : Nat := 0
  /-- ONFI channels that work (R386) -/
  onfi : List (Fin 2) := []
  /-- a reset taken once the flush has ended (R409, R410) -/
  resetAfter : Option Bool := none
  -- power
  groups : KMap Group := []
  avs : KMap (List Nat) := []
  avsLower : List Nat := []
  /-- AVSBus targets written: bus, rail address, mV (R394, R486) -/
  avsOut : List (Nat × Nat × Nat) := []
  /-- rails whose last AVSBus transaction did not complete (R395) -/
  avsBad : List Nat := []
  /-- clocks stopped or power gated: a flush has begun, a trip, or the root PLL lost lock (R384, R406, R460) -/
  gated : Bool := false
  -- pins
  pwrgood : Bool := false
  resetN : Bool := false
  warmN : Bool := true
  pfailN : Bool := true
  ready : Bool := false
  faultN : Bool := true
  thermN : Bool := true
  -- flash, identity, start
  flash : KMap Byte := []
  flashOp : Option FlashOp := none
  /-- SHAKE256-256 digests of the four root public keys in mask ROM (R422) -/
  rom : List (List Byte) := []
  devKey : Option (List Byte) := none
  aon : Option AonRec := none
  /-- a warm start that has not reached READY: the host ports serve already (R431) -/
  early : Option Early := none
  /-- XSPI_RST_N has been raised; the flash devices are read as 8D-8D-8D (R484) -/
  xspiUp : Bool := false
  xspiOctal : Bool := false
  /-- held from the start: the image's header, the digests of the valid licences, and the AVS table (R394, R454) -/
  imgHeader : List Byte := []
  licDigests : List (List Byte) := []
  avsTab : List Byte := []
  flogAt : Nat := 0
  flogChain : List Byte := []
  flogSince : Nat := 0
  flogQueue : List (Nat × List Byte) := []
  att : Option AttReq := none
  ingress : KMap Byte := []
  -- test access
  jtagIr : BitVec 8 := 1
  jtagX : Bool := false
  cells : List Bool := []
  /-- what stands outside at the cells, as the last scan saw it, and the bits that left on TDO with the last load of an instruction -/
  outside : Outside := {}
  tdo : List Bool := []
  jtagPins : Bool := false
  /-- a start that waits for the test access port to give the pins back, or for the end of a flush (R409, R489) -/
  startWait : Option StartEnv := none
  deriving DecidableEq, Repr

/-- The machine right after power-on reset: PWRGOOD low, nothing locked, no image read (R407, R408). -/
def State.reset : State := {}

end Sys2Proof.Machine
end

