-- ==== Sys2Proof/Machine/Isa.lean ====
section
/-! DEFINITION. The tile instruction word: which row of the operation table it is, and whether it is ILLEGAL by its
bits alone (R90-R92, R94-R102, R108, R136-R140, R142-R155, R163). -/

namespace Sys2Proof.Machine

/-- The rows of the operation table that are tile instructions; `unalloc` is an unallocated opcode or function (R91). -/
inductive TRow where
  | nop | alu | alui | addr | ld | st | gld | gst | fence | br | j | jal | jr | treg | spawn | kill | yield
  | tset | tsetr | tadd | ttake | tread | progress | send | recv | mboxCfg | mboxStat | halt
  | mwld | mma | mbwd | morth
  | vadd | vmul | vfma | vcmp | vsel | vminmax | vred | vmov | vsieve | vexpand | vupd | cvt | cvtq | cvtdq
  | sarm | srel | scan | sstat | unalloc
  deriving DecidableEq, Repr

/-- A field of an instruction word. -/
def IWord.f (w : IWord) (lo n : Nat) : Nat := bits w.toNat lo n
def IWord.op (w : IWord) : Nat := w.f 58 6
def IWord.wait (w : IWord) : Nat := w.f 52 6
def IWord.sig (w : IWord) : Nat := w.f 46 6

/-- The row of an instruction word (R91, R98, R101, R102, R108, R143, R163). -/
def IWord.row (w : IWord) : TRow :=
  match w.op with
  | 0x00 => .nop | 0x01 => .alu | 0x02 => .alui | 0x03 => .addr | 0x04 => .ld | 0x05 => .st
  | 0x06 => .gld | 0x07 => .gst | 0x08 => .fence | 0x09 => .br
  | 0x0A => match w.f 44 2 with
    | 0 => .j | 1 => .jal | 2 => .jr | _ => .unalloc
  | 0x0B => .treg
  | 0x10 => match w.f 43 3 with
    | 0 => .spawn | 1 => .kill | 2 => .yield | _ => .unalloc
  | 0x11 => match w.f 43 3 with
    | 0 => .tset | 1 => .tsetr | 2 => .tadd | 3 => .ttake | 4 => .tread | 5 => .progress | _ => .unalloc
  | 0x12 => .send | 0x13 => .recv
  | 0x14 => match w.f 43 3 with
    | 0 => .mboxCfg | 1 => .mboxStat | _ => .unalloc
  | 0x18 => .sarm | 0x19 => .srel | 0x1A => .scan | 0x1B => .sstat
  | 0x20 => .mwld | 0x21 => .mma | 0x22 => .mbwd | 0x23 => .morth
  | 0x30 => .vadd | 0x31 => .vmul | 0x32 => .vfma | 0x33 => .vcmp | 0x34 => .vsel | 0x35 => .vminmax
  | 0x36 => .vred | 0x37 => .vmov | 0x38 => .vsieve | 0x39 => .vexpand | 0x3A => .vupd
  | 0x3C => .cvt | 0x3D => .cvtq | 0x3E => .cvtdq | 0x3F => .halt
  | _ => .unalloc

/-- The operand bits of a row that must be zero, as (low bit, width) ranges (R92, R136-R155, R163). -/
def TRow.zeros : TRow → List (Nat × Nat)
  | .nop => [(0, 46)]
  | .alu => [(0, 27)]
  | .alui | .addr => []
  | .ld | .gld => [(20, 15)]
  | .st | .gst => [(20, 16)]
  | .fence => [(3, 43)]
  | .br => [(16, 17)]
  | .j | .jal => [(13, 26)]
  | .jr => [(0, 39)]
  | .treg => [(16, 24)]
  | .spawn => [(13, 17)]
  | .kill => [(0, 40)]
  | .yield => [(0, 43)]
  | .tset | .tsetr | .tadd | .ttake | .tread => [(16, 16)]
  | .progress => [(16, 16), (37, 6)]
  | .send => [(20, 9)]
  | .recv => [(20, 14)]
  | .mboxCfg => [(0, 28), (32, 5)]
  | .mboxStat => [(0, 28), (37, 6)]
  | .halt => [(16, 30)]
  | .mwld => [(0, 34)]
  | .mma => [(0, 22)]
  | .mbwd => [(0, 14)]
  | .morth => [(0, 18)]
  -- fields a vector instruction does not use must be zero (R142, R143, R150)
  | .vadd | .vmul | .vcmp | .vminmax | .vexpand => [(18, 7)]
  | .vred | .vmov => [(18, 14)]
  | .vfma | .vsel | .vsieve | .vupd => []
  | .cvt => [(14, 3)]
  | .cvtq => [(14, 1)]
  | .cvtdq => [(14, 7)]
  | .sarm => [(20, 13)]
  | .srel => [(0, 39)]
  | .scan => [(0, 40)]
  | .sstat => [(0, 36)]
  | .unalloc => []

/-- Whether FMT [17:16] and VAR [15:14] of a vector instruction are allocated (R143, R148-R150). -/
def vecModeOk (r : TRow) (fmt var : Nat) : Bool :=
  match r with
  | .vadd | .vminmax => fmt ≤ 1 && var ≤ 1
  | .vmul => fmt ≤ 1 && var == 0
  | .vfma => fmt ≤ 2
  | .vcmp => fmt != 2
  | .vsel | .vmov => fmt != 2 && var == 0
  | .vred => fmt ≤ 1 && var ≤ 2
  | .vsieve => var == 0
  | .vexpand => var ≤ 1
  | .vupd => (fmt == 0 || fmt == 2) && var ≤ 1
  | _ => true

/-- The convert rounding fields: RND 3 is ILLEGAL; SR needs a nonzero even KS, anything else KS zero (R151, R153). -/
def sronOk (rnd grad ks : Nat) : Bool :=
  rnd != 3 && (if rnd == 2 || grad == 1 then ks != 0 && ks % 2 == 0 else ks == 0)

/-- ILLEGAL by the word's bits alone (R91 and the rules of each class). -/
def IWord.illegal (w : IWord) : Bool :=
  let r := w.row
  r.zeros.any (fun z => w.f z.1 z.2 != 0) ||
  match r with
  | .unalloc => true
  | .addr =>
    match w.f 37 3 with
    | 0 => false
    | 1 => w.f 4 28 != 0
    | 2 => w.f 16 16 != 0 || w.f 40 3 != 0
    | 3 => w.f 6 26 != 0 || w.f 43 3 != 0
    | _ => true
  | .ld | .gld | .st | .gst => w.f 36 2 == 3 && w.f 41 1 == 1
  | .fence => w.f 0 3 == 0
  | .br => w.f 43 3 == 7 || (w.f 43 3 == 6 && w.f 33 10 != 0)
  | .tset | .tsetr | .tadd | .tread => w.f 37 6 == 0
  | .ttake => w.f 37 6 == 0 || w.f 0 16 == 0
  -- LEN names 1 to 256 bytes; its ninth bit would name more (log entry 13)
  | .send => w.f 37 1 == 1
  | .srel => w.f 39 2 == 0
  | .mwld => (w.f 34 1 == 1 && w.f 36 2 != 3)
  | .mma => w.f 40 1 == 1 || (w.f 27 1 == 1 && w.f 30 2 != 3)
  | .mbwd => w.f 40 1 == 1 || w.f 34 1 == 1 || w.f 40 6 == w.f 34 6 || (w.f 14 1 == 1 && w.f 17 2 != 3)
  | .morth => w.f 40 1 == 1 || w.f 34 1 == 1
  | .cvt =>
    w.f 29 3 > 5 || w.f 26 3 > 5 || (w.f 23 1 == 1 && w.f 26 3 < 4) || !sronOk (w.f 24 2) (w.f 22 1) (w.f 17 5)
  | .cvtq => !sronOk (w.f 21 2) (w.f 20 1) (w.f 15 5)
  | .cvtdq => w.f 21 2 ≥ 2
  | r => !vecModeOk r (w.f 16 2) (w.f 14 2)

end Sys2Proof.Machine
end

