-- ==== Sys2Proof/Machine/Operands.lean ====
section
/-! DEFINITION. Every operand form of the tile: scalar and address registers, operand cache offsets, the engine
operand specifiers with their checks at issue, and reading and writing engine operands (R78, R95, R123-R126, R144). -/

namespace Sys2Proof.Machine

/-- Tile-window offsets of the tile's stores (R33). -/
def rfBase : Nat := 0x100000
def isBase : Nat := 0x120000
def ocSize : Nat := 0x100000
def rfSize : Nat := 0x20000

/-- s[n]: s0 reads as zero (R78). -/
def Slot.sreg (k : Slot) (n : Nat) : BitVec 32 := if n == 0 then 0 else kget k.s n 0
/-- Write s[n]: a write to s0 has no effect (R78). -/
def Slot.setS (k : Slot) (n : Nat) (v : BitVec 32) : Slot := if n == 0 then k else { k with s := kputD k.s n v 0 }
/-- a[n]. -/
def Slot.areg (k : Slot) (n : Nat) : BitVec 48 := kget k.a n 0
def Slot.setA (k : Slot) (n : Nat) (v : BitVec 48) : Slot := { k with a := kputD k.a n v 0 }

/-- The slot k of a tile. -/
def Tile.slot (T : Tile) (k : Nat) : Slot := kget T.slots k {}
def Tile.setSlot (T : Tile) (k : Nat) (x : Slot) : Tile := { T with slots := kputD T.slots k x {} }
/-- Change slot k of a tile. -/
def Tile.modSlot (T : Tile) (k : Nat) (f : Slot → Slot) : Tile := T.setSlot k (f (T.slot k))

/-- Operand cache bytes from an offset, wrapping from 0xF_FFFF to 0x0_0000 (R95, R124). -/
def Tile.ocGet (T : Tile) (off n : Nat) : List Byte := (List.range n).map fun i => mget T.mem ((off + i) % ocSize)
/-- Write operand cache bytes from an offset, wrapping. -/
def ocPuts (m : KMap Byte) (off : Nat) : List Byte → KMap Byte
  | [] => m
  | b :: r => ocPuts (mput m (off % ocSize) b) (off + 1) r
def Tile.ocPut (T : Tile) (off : Nat) (bs : List Byte) : Tile := { T with mem := ocPuts T.mem off bs }

/-- (a[A] + sign-extended IMM20) & 0xF_FFFF (R95, R104, R107, R163). -/
def ocAddr (a : BitVec 48) (imm20 : Nat) : Nat := toField ((a.toNat : Int) + sext imm20 20) 20
/-- (a[A] + sign-extended IMM20) mod 2^48 (R95). -/
def glAddr (a : BitVec 48) (imm20 : Nat) : Nat := toField ((a.toNat : Int) + sext imm20 20) 48

/-! ### Engine operands -/

/-- Resolve a 7-bit specifier at issue (R124); none when a bit that must be zero is not. -/
def resolve (k : Slot) (sp : Nat) : Option Opnd :=
  if sp < 64 then some (.reg (sp * 2048))
  else if sp < 96 then
    if bits sp 3 2 != 0 then none else some (.oc ((k.areg (sp % 8)).toNat % ocSize))
  else some (.scal (k.sreg (sp % 32)))

/-- What a field of an engine instruction asks of its operand (R123-R125). -/
structure Need where
  sp : Nat
  /-- extent in bytes, fixed at issue -/
  len : Nat
  /-- alignment of an operand cache operand -/
  align : Nat
  /-- kinds accepted beside Operand cache -/
  regOk : Bool := true
  scalOk : Bool := false
  /-- a 4 KiB block: a register run must start at an even N -/
  pair : Bool := false
  deriving DecidableEq, Repr

/-- Whether a field makes the task ILLEGAL (R123, R124, R125). -/
def Need.illegal (k : Slot) (n : Need) : Bool :=
  match resolve k n.sp with
  | none => true
  | some (.reg o) => !n.regOk || o + n.len > rfSize || (n.pair && o % 4096 != 0)
  | some (.oc _) => false
  | some (.scal _) => !n.scalOk
/-- Whether a field makes the task MISALIGNED (R125). -/
def Need.misaligned (k : Slot) (n : Need) : Bool :=
  match resolve k n.sp with
  | some (.oc o) => o % n.align != 0
  | _ => false

/-- Whether the extents of two operands overlap; a scalar holds no storage. -/
def opndOverlap (x : Opnd) (n : Nat) (y : Opnd) (m : Nat) : Bool :=
  match x, y with
  | .reg a, .reg b => overlaps a n b m
  | .oc a, .oc b => n > 0 && m > 0 && ((b + ocSize - a) % ocSize < n || (a + ocSize - b) % ocSize < m)
  | _, _ => false

/-- Bytes [off, off + n) of a storage operand; a scalar repeats its word. -/
def Tile.opndGet (T : Tile) (x : Opnd) (off n : Nat) : List Byte :=
  match x with
  | .reg o => mgets T.mem (rfBase + o + off) n
  | .oc o => T.ocGet (o + off) n
  | .scal v => (List.range n).map fun i => BitVec.ofNat 8 (v.toNat >>> (8 * ((off + i) % 4)))
/-- Write bytes of a storage operand. -/
def Tile.opndPut (T : Tile) (x : Opnd) (off : Nat) (bs : List Byte) : Tile :=
  match x with
  | .reg o => { T with mem := mputs T.mem (rfBase + o + off) bs }
  | .oc o => T.ocPut (o + off) bs
  | .scal _ => T

/-- Split bytes into little-endian elements of `size` bytes, n of them. -/
def elems (size : Nat) : Nat → List Byte → List Nat
  | 0, _ => []
  | n + 1, l => leNat (l.take size) :: elems size n (l.drop size)
/-- Elements back to bytes. -/
def elemBytes (size : Nat) (l : List Nat) : List Byte := l.flatMap (natLe size)

/-- Elements [first, first + n) of an operand: a scalar gives s[N] cut to the element's width (R144). -/
def Tile.elemsAt (T : Tile) (x : Opnd) (size first n : Nat) : List Nat :=
  match x with
  | .scal v => List.replicate n (v.toNat % 2 ^ (8 * size))
  | _ => elems size n (T.opndGet x (first * size) (n * size))

/-- The element format of a matrix FMT field (R134). -/
def matFmt : Nat → Fmt
  | 0 => .bf16 | 1 => .e4m3 | 2 => .e5m2 | _ => .f19
/-- Bytes of a 32 × 32 block of that format (R126). -/
def blockBytes (fmt : Nat) : Nat := 1024 * (matFmt fmt).bytes

/-- The format of a CVT format code (R151). -/
def cvtFmt : Nat → Fmt
  | 0 => .fp32 | 1 => .bf16 | 2 => .fp16 | 3 => .f19 | 4 => .e4m3 | _ => .e5m2

/-- Sieve element width and predicate width in bytes (R149). -/
def sieveWidth : Nat → Nat
  | 0 => 4 | 1 => 2 | 2 => 1 | _ => 8
def sievePred (fmt : Nat) : Nat := if fmt == 0 || fmt == 3 then 4 else sieveWidth fmt

/-- Element bytes of A and B, and of C and D, of an arithmetic vector instruction (R143, R144). -/
def vecSrcBytes (fmt : Nat) : Nat := if fmt == 1 || fmt == 2 then 2 else 4
def vecDstBytes (fmt : Nat) : Nat := if fmt == 1 then 2 else 4

/-- A scalar coefficient register of MORTH: a field of 0 selects the default (R140). -/
def coefOr (k : Slot) (n : Nat) (dflt : BitVec 32) : BitVec 32 := if n == 0 then dflt else k.sreg n

/-- The operand needs of an engine instruction, destination first (R125, R136-R140, R142-R155). -/
def engNeeds (w : IWord) : List Need :=
  let cnt := w.f 0 14 + 1
  let fmt := w.f 16 2
  let D := w.f 39 7
  let A := w.f 32 7
  let B := w.f 25 7
  let C := w.f 18 7
  let s := vecSrcBytes fmt
  let d := vecDstBytes fmt
  let src (sp n z : Nat) : Need := { sp := sp, len := n * z, align := z, scalOk := true }
  let dst (sp n z : Nat) : Need := { sp := sp, len := n * z, align := z }
  match w.row with
  | .mwld =>
    let f := w.f 36 2
    [{ sp := w.f 39 7, len := blockBytes f, align := 64, regOk := w.f 35 1 == 0, pair := f == 3 }]
  | .mma =>
    let f := w.f 30 2
    [{ sp := w.f 33 7, len := blockBytes f, align := 64, regOk := w.f 29 1 == 0, pair := f == 3 }]
  | .mbwd =>
    let f := w.f 17 2
    [{ sp := w.f 27 7, len := blockBytes f, align := 64, pair := f == 3 },
     { sp := w.f 20 7, len := blockBytes f, align := 64, regOk := false }]
  | .vadd | .vmul | .vcmp | .vminmax => [dst D cnt d, src A cnt s, src B cnt s]
  | .vfma => [dst D cnt d, src A cnt s, src B cnt s, src C cnt d]
  | .vsel => [dst D cnt d, src A cnt s, src B cnt s, src C cnt s]
  | .vmov => [dst D cnt d, src A cnt s]
  | .vred => [dst D 1 4, src A cnt s]
  | .vupd => [dst D cnt 4, src A cnt (if fmt == 0 then 4 else 2), src B cnt (if fmt == 0 then 4 else 2), dst C cnt 2]
  | .vsieve => [dst D cnt (sieveWidth fmt), src A cnt (sieveWidth fmt), src B cnt (sievePred fmt), dst C (cnt + 1) 2]
  | .vexpand => [dst D cnt (sieveWidth fmt), src A cnt (sieveWidth fmt), src B (cnt + 1) 2]
  | .cvt => [dst D cnt (cvtFmt (w.f 26 3)).bytes, src A cnt (cvtFmt (w.f 29 3)).bytes]
  | .cvtq =>
    let z := if w.f 24 1 == 1 then 2 else 4
    [dst D cnt 1, dst A (cdiv cnt 32) 1, dst B cnt z]
  | .cvtdq =>
    let z := if w.f 24 1 == 1 then 2 else 4
    [dst D cnt z, dst A (cdiv cnt 32) 1, dst B cnt 1]
  | _ => []

/-- The extent of the i-th operand of an instruction, if it has one. -/
def needAt (k : Slot) (w : IWord) (i : Nat) : Option (Opnd × Nat) :=
  match (engNeeds w)[i]? with
  | some n => (resolve k n.sp).map fun o => (o, n.len)
  | none => none

/-- Whether operands i and j of an instruction overlap. -/
def needsOverlap (k : Slot) (w : IWord) (i j : Nat) : Bool :=
  match needAt k w i, needAt k w j with
  | some (a, n), some (b, m) => opndOverlap a n b m
  | _, _ => false

/-- Overlaps that make the task ILLEGAL (R148-R150, R154). For VUPD the spec says `must not` (log entry 14). -/
def engOverlapBad (k : Slot) (w : IWord) : Bool :=
  match w.row with
  | .vupd => needsOverlap k w 0 3
  | .vsieve => [(0, 1), (0, 2), (0, 3), (1, 2), (1, 3), (2, 3)].any fun p => needsOverlap k w p.1 p.2
  | .vexpand => needsOverlap k w 0 1 || needsOverlap k w 0 2
  | .cvtq => needsOverlap k w 0 1 || needsOverlap k w 0 2 || needsOverlap k w 1 2
  | _ => false

/-- The latched operands of an engine instruction at issue (R124, R140, R144, R153). -/
def engLatch (T : Tile) (k : Nat) (w : IWord) : EngOp :=
  let K := T.slot k
  let at' (i : Nat) : Opnd := match needAt K w i with
    | some (o, _) => o
    | none => .scal 0
  let base : EngOp := { seq := T.engSeq, word := w, key := T.jobKey, step := T.jobStep.toNat }
  match w.row with
  | .mwld => { base with x := at' 0 }
  | .mma => { base with d := .reg (w.f 40 6 * 2048), x := at' 0 }
  | .mbwd => { base with d := .reg (w.f 40 6 * 2048), z := .reg (w.f 34 6 * 2048), x := at' 0, y := at' 1 }
  | .morth =>
    { base with d := .reg (w.f 40 6 * 2048), x := .reg (w.f 34 6 * 2048),
                coef := [coefOr K (w.f 29 5) 0x3FC00000, coefOr K (w.f 24 5) 0xBF000000, coefOr K (w.f 19 5) 0] }
  | .cvt => { base with d := at' 0, x := at' 1, coef := [K.sreg (w.f 17 5), K.sreg (w.f 17 5 + 1)] }
  | .cvtq => { base with d := at' 0, x := at' 1, y := at' 2, coef := [K.sreg (w.f 15 5), K.sreg (w.f 15 5 + 1)] }
  | _ => { base with d := at' 0, x := at' 1, y := at' 2, z := at' 3 }

end Sys2Proof.Machine
end

