-- ==== Sys2Proof/Machine/Streams.lean ====
section
/-! DEFINITION. The stream engine of a tile: descriptors and their checks, arming, buffers, requests, responses,
cancellation, and the member's side of Rose multicast (R158-R188, R195, R203, R241, R495). -/

namespace Sys2Proof.Machine

/-! ### Tokens (R83) -/

def Tile.token (T : Tile) (n : Nat) : BitVec 16 := if n == 0 then 0 else kget T.tokens n 0
/-- Replace a count; t0 ignores writes (R109). -/
def Tile.setToken (T : Tile) (n : Nat) (v : BitVec 16) : Tile :=
  if n == 0 then T else { T with tokens := kputD T.tokens n v 0 }
/-- Add to a count, saturating at 65,535 with TOKEN_OVF (R83 step 2). t0 is no token. -/
def Tile.incToken (T : Tile) (n v : Nat) : Tile :=
  if n == 0 then T
  else
    let c := (T.token n).toNat + v
    if c > 65535 then { T.setToken n 65535 with tokenOvf := T.tokenOvf ||| (1#64 <<< n) }
    else T.setToken n (BitVec.ofNat 16 c)

/-! ### Descriptors (R160-R162) -/

def SDesc.kind (d : SDesc) : Nat := fldLe d 0 1 % 8
def SDesc.low (d : SDesc) : Bool := (fldLe d 0 1).testBit 7
def SDesc.ifmt (d : SDesc) : Nat := fldLe d 1 1
def SDesc.nbuf (d : SDesc) : Nat := fldLe d 2 1
def SDesc.fill (d : SDesc) : Nat := fldLe d 3 1 % 64
def SDesc.done (d : SDesc) : Nat := fldLe d 4 1 % 64
def SDesc.after (d : SDesc) : Option Nat := if (fldLe d 5 1).testBit 7 then some (fldLe d 5 1 % 32) else none
def SDesc.recsz (d : SDesc) : Nat := fldLe d 6 2
def SDesc.count (d : SDesc) : Nat := fldLe d 8 4
def SDesc.bufsz (d : SDesc) : Nat := fldLe d 0x0C 4
def SDesc.buf (d : SDesc) : Nat := fldLe d 0x10 4
def SDesc.idx (d : SDesc) : Nat := fldLe d 0x18 8
def SDesc.base (d : SDesc) : Nat := fldLe d 0x20 8
def SDesc.stride (d : SDesc) : Nat := fldLe d 0x28 8
def SDesc.dest (d : SDesc) : Nat := fldLe d 0x30 8
def SDesc.ctx (d : SDesc) : Nat := fldLe d 0x38 8
/-- LOOKUP fields (R195). -/
def SDesc.table (d : SDesc) : Nat := fldLe d 0x20 2
def SDesc.pool (d : SDesc) : Nat := fldLe d 0x22 1
def SDesc.bag (d : SDesc) : Nat := fldLe d 0x24 4
def SDesc.offs (d : SDesc) : Nat := d.stride
def SDesc.wgt (d : SDesc) : Nat := d.ctx
/-- PUSH fields (R203, R241). -/
def SDesc.gfmtBf16 (d : SDesc) : Bool := (fldLe d 0x22 1).testBit 0
def SDesc.home (d : SDesc) : Nat := fldLe d 0x38 2
def SDesc.bucket (d : SDesc) : Nat := fldLe d 0x20 1
def SDesc.job (d : SDesc) : Nat := fldLe d 0x21 1 % 16
def SDesc.elem (d : SDesc) : Nat := fldLe d 0x24 4
def SDesc.ret (d : SDesc) : Nat := d.stride
def SDesc.nelem (d : SDesc) : Nat := fldLe d 0x38 4

def SDesc.inbound (d : SDesc) : Bool := d.kind < 4
def SDesc.receive (d : SDesc) : Bool := d.kind == 3
def SDesc.leader (d : SDesc) : Bool := d.dest.testBit 63
/-- A PUSH to a collective engine: IFMT 0 (R161). -/
def SDesc.coll (d : SDesc) : Bool := d.kind == 5 && d.ifmt == 0
/-- Records per buffer (R160). -/
def SDesc.per (d : SDesc) : Nat := d.bufsz / d.recsz
/-- Buffers of a generation (R168). -/
def SDesc.nb (d : SDesc) : Nat := cdiv d.count d.per
/-- Records of buffer b (R168). -/
def SDesc.nrec (d : SDesc) (b : Nat) : Nat := min d.per (d.count - b * d.per)
/-- Bytes of an index entry (R160). -/
def SDesc.isz (d : SDesc) : Nat :=
  match d.ifmt with
  | 1 => 2 | 2 => 4 | 3 => 8 | _ => 0
/-- The sentinel of the index format (R192). -/
def SDesc.sentinel (d : SDesc) : Option Nat :=
  match d.ifmt with
  | 1 => some 0xFFFF | 2 => some 0xFFFFFFFF | 3 => some 0xFFFFFFFFFFFF | _ => none
/-- Leader rectangle x0, y0, x1, y1, and the leader a member names (R182). -/
def SDesc.rect (d : SDesc) : Nat × Nat × Nat × Nat := (bits d.dest 0 6, bits d.dest 6 6, bits d.dest 12 6, bits d.dest 18 6)
def SDesc.leaderTile (d : SDesc) : Nat := bits d.dest 0 12
def SDesc.leaderSlot (d : SDesc) : Nat := bits d.dest 12 5
/-- Tile codes (y << 6) | x of a rectangle, in increasing order. -/
def rectTiles (x0 y0 x1 y1 : Nat) : List Nat :=
  (List.range (y1 + 1 - y0)).flatMap fun j => (List.range (x1 + 1 - x0)).map fun i => (y0 + j) * 64 + (x0 + i)
def SDesc.members (d : SDesc) : List Nat := let (x0, y0, x1, y1) := d.rect; rectTiles x0 y0 x1 y1

/-- A list address coded as IDX (R160). -/
def listOk (v : Nat) : Bool := if v.testBit 63 then bits v 48 15 == 0 else v >>> 20 == 0
/-- DEST of R162 and R182 for a kind. -/
def destOk (v kind : Nat) : Bool :=
  v == 0 ||
  (if v.testBit 63 then
    kind ≤ 2 && bits v 24 39 == 0 && bits v 0 6 ≤ bits v 12 6 && bits v 6 6 ≤ bits v 18 6 && bits v 18 6 ≤ 35
  else kind == 3 && v >>> 17 == 0 && bits v 6 6 ≤ 35)
/-- Bytes [off, off+n) are zero. -/
def zeroAt (d : SDesc) (off n : Nat) : Bool := (slice d off n).all (· == 0)

/-- The checks of the table and pooling fields below 0x30 (R195). -/
def SDesc.poolChecks (d : SDesc) : List (Nat × Bool) :=
  [(0x22, d.pool < 8), (0x23, zeroAt d 0x23 1), (0x24, d.bag < 65536), (0x28, if d.bag != 0 then d.offs == 0 else listOk d.offs)]
/-- The checks of R162 in order of descriptor offset, each with the offset of its field; slot q is being armed. -/
def SDesc.checks (d : SDesc) (q : Nat) : List (Nat × Bool) :=
  let k := d.kind
  let rs := d.recsz
  let m := if rs ≤ 32 then max rs 1 else 64
  [(0x00, k ≤ 5 && bits (fldLe d 0 1) 3 4 == 0),
   (0x01, d.ifmt ≤ 3),
   (0x02, 1 ≤ d.nbuf && d.nbuf ≤ 3),
   (0x03, fldLe d 3 1 < 64 && !(k ≤ 2 && d.leader && d.fill != 0)),
   (0x04, fldLe d 4 1 < 64),
   (0x05, bits (fldLe d 5 1) 5 2 == 0 && d.after != some q),
   (0x06, rs == 8 || rs == 16 || rs == 32 || (rs % 64 == 0 && 64 ≤ rs && rs ≤ 32768)),
   (0x08, 1 ≤ d.count),
   (0x0C, d.bufsz % 64 == 0 && max rs 1 ≤ d.bufsz && max d.nbuf 1 * d.bufsz ≤ 0x100000),
   (0x10, d.buf >>> 20 == 0 && d.buf % 64 == 0),
   (0x14, zeroAt d 0x14 4),
   (0x18, if d.ifmt == 0 then d.idx == 0 else listOk d.idx)] ++
  (match k with
   | 0 | 4 => [(0x20, d.base >>> 48 == 0 && d.base % m == 0), (0x28, d.stride >>> 48 == 0 && d.stride % m == 0)]
   | 1 => d.poolChecks
   | 2 => if Config.remoteIsLookup d then d.poolChecks else [(0x20, d.base >>> 48 == 0), (0x28, d.stride >>> 48 == 0)]
   | 3 => [(0x20, d.base == 0), (0x28, d.stride == 0)]
   | 5 =>
     if d.ifmt == 0 then
       [(0x21, fldLe d 0x21 1 < 16), (0x22, zeroAt d 0x22 2), (0x28, d.ret >>> 54 == 0)]
     else [(0x22, fldLe d 0x22 1 < 2), (0x23, zeroAt d 0x23 13)]
   | _ => []) ++
  [(0x30, destOk d.dest k)] ++
  (match k with
   | 1 => [(0x38, if d.pool % 4 == 2 then listOk d.wgt else d.wgt == 0)]
   | 2 => [(0x38, d.ctx >>> 20 == 0)]
   | 5 => if d.ifmt == 0 then [(0x3C, zeroAt d 0x3C 4)] else [(0x38, d.ctx >>> 16 == 0)]
   | _ => [(0x38, d.ctx == 0)])

/-- The offset of the first failing field, none when the descriptor is valid (R162, R164). -/
def SDesc.bad (d : SDesc) (q : Nat) : Option Nat := ((d.checks q).find? fun c => !c.2).map (·.1)

/-! ### Slots -/

def Tile.str (T : Tile) (q : Nat) : SSlot := kget T.streams q {}
def Tile.setStr (T : Tile) (q : Nat) (x : SSlot) : Tile := { T with streams := kput T.streams q x }

/-- Tracker entries in use (R169). -/
def Tile.inUse (T : Tile) : Nat := T.reqs.length
/-- Geometry of R175. -/
def sameRing (a b : SDesc) : Bool :=
  a != [] && a.kind == b.kind && a.nbuf == b.nbuf && a.bufsz == b.bufsz && a.buf == b.buf && a.recsz == b.recsz

/-- An arm takes effect (R173, R175, R177, R184). -/
def armTake (T : Tile) (q : Nat) (d : SDesc) (owner : Nat) : Tile :=
  let s := T.str q
  let cont := d.inbound && sameRing s.desc d
  -- buffers of an outbound generation delay nothing, and what was held before it has no leader to return to
  let after := s.desc != [] && !s.desc.inbound
  let oldHeld := if after then 0 else s.held
  let held := if d.inbound then oldHeld else d.nbuf
  let chain := match d.after with
    | none => none
    | some p => let o := T.str p; if o.st == 1 || o.st == 2 then some (p, o.gen) else none
  let start := if cont then s.pos else 0
  let s' : SSlot :=
    { st := if d.after.isSome then 1 else 2, owner := owner, relerr := s.relerr, gen := s.gen + 1, desc := d,
      held := held, heldOf := if d.inbound && !after then s.heldOf else [], clear := d.inbound && held > 0 && (!cont || s.clear), start := start, pos := start, chain := chain,
      credit := if d.receive then .flying else .none, creditNo := T.nextTag }
  -- requests of an ended generation that still await data count as cancelled
  { T.setStr q s' with nextTag := T.nextTag + 1, reqs := T.reqs.map fun (r : StreamReq) => if r.slot == q then { r with cancelled := true } else r }

/-- Cancellation of slot q's current generation (R178-R181, R186). DESIGN CHOICE: a slot that leaves ERROR or DONE keeps REASON and
DONE_RECS until the next arm (log entry 122). -/
def cancelSlot (T : Tile) (q : Nat) (keep : Bool) : Tile × List TileOut :=
  let s := T.str q
  if s.st == 0 then (T, [])
  else
    let was := s.st == 1 || s.st == 2
    let outs : List TileOut :=
      (if was && s.desc.coll && s.sent < s.desc.count then [.marker q s.gen s.desc true] else []) ++
      (if was && s.desc.leader then [.leaderEnd q s.gen s.members] else [])
    let det : List CtlMsg :=
      if was && s.desc.receive then
        [{ slot := q, leader := s.desc.leaderTile, lslot := s.desc.leaderSlot,
           lgen := if s.credit == .accepted then some s.lgen else none, no := T.nextTag }]
      else []
    let T := { T with nextTag := T.nextTag + 1, reqs := T.reqs.map (fun (r : StreamReq) => if r.slot == q then { r with cancelled := true } else r),
                      detaches := T.detaches ++ det }
    let s := { s with held := 0, heldOf := [], units := [], blocks := [], got := [], credit := .none }
    match keep, s.shadow with
    | true, some (d, o) => (armTake (T.setStr q { s with shadow := none }) q d o, outs)
    | _, _ => (T.setStr q { s with st := 0, shadow := none }, outs)

/-- Cancel a list of slots one after the other. -/
def cancelSlots (T : Tile) : List Nat → Tile × List TileOut
  | [] => (T, [])
  | q :: r =>
    let (T, o) := cancelSlot T q false
    let (T, p) := cancelSlots T r
    (T, o ++ p)

/-- KILL of task k: cancel its slots and discard the shadows it armed (R180). -/
def cancelOwner (T : Tile) (k : Nat) : Tile × List TileOut :=
  let T := { T with streams := T.streams.map fun (q, s) =>
    (q, match s.shadow with
        | some (_, o) => if o == k then { s with shadow := none } else s
        | none => s) }
  cancelSlots T ((List.range 32).filter fun q => (T.str q).st != 0 && (T.str q).owner == k)

/-- A stream enters ERROR with a reason: FILL_TOKEN and DONE_TOKEN once each (R170; log entry 15), a leader's markers
leave (R186). -/
def streamError (T : Tile) (q reason : Nat) : Tile × List TileOut :=
  let s := T.str q
  let T := T.setStr q { s with st := 4, reason := reason }
  let T := (T.incToken s.desc.fill 1).incToken s.desc.done 1
  (T, (if reason == 1 then [.timeout q s.gen] else []) ++ (if s.desc.leader then [.leaderEnd q s.gen s.members] else []))

/-- A generation becomes DONE (R168). -/
def streamDone (T : Tile) (q : Nat) : Tile :=
  let s := T.str q
  (T.setStr q { s with st := 3 }).incToken s.desc.done 1

/-- Signal complete buffers in buffer order (R168), at most n of them. -/
def signalBufs (T : Tile) (q : Nat) : Nat → Tile
  | 0 => T
  | n + 1 =>
    let s := T.str q
    let d := s.desc
    let b := s.signalled
    if s.st == 2 && b < d.nb && (List.range (d.nrec b)).all (fun j => s.got.contains (b * d.per + j)) then
      let s' := { s with signalled := b + 1, held := s.held + 1,
                         heldOf := if d.receive then s.heldOf ++ [(d.leaderTile, d.leaderSlot, s.lgen)] else s.heldOf,
                         doneRecs := s.doneRecs + d.nrec b,
                         pos := (s.start + b + 1) % d.nbuf, got := s.got.filter (fun r => r / d.per != b) }
      let T := (T.setStr q s').incToken d.fill 1
      if b + 1 == d.nb then streamDone T q else signalBufs T q n
    else T

/-- Operand cache offset of record r of the current generation (R160). -/
def recOff (s : SSlot) (r : Nat) : Nat :=
  let d := s.desc
  (d.buf + ((s.start + r / d.per) % d.nbuf) * d.bufsz + (r % d.per) * d.recsz) % ocSize

/-- A record arrives: written to its place, and complete buffers are signalled (R166, R168). -/
def recordIn (T : Tile) (q r : Nat) (bs : List Byte) : Tile :=
  let s := T.str q
  let T := T.ocPut (recOff s r) bs
  let T := T.setStr q { s with got := if s.got.contains r then s.got else r :: s.got }
  signalBufs T q 4

/-! ### Instructions -/

/-- SARM on slot q by task k with descriptor bytes d: the new tile and the status word (R164, R174). DESIGN CHOICE: an invalid descriptor
answers INVALID though a shadow is held (log entry 122). -/
def sarmOp (T : Tile) (q k : Nat) (d : SDesc) : Tile × Nat :=
  let s := T.str q
  match d.bad q with
  | some off => (T, 3 + off * 256 + s.gen.toNat * 65536)
  | none =>
    if s.shadow.isSome then (T, 2 + s.gen.toNat * 65536)
    else if s.st == 1 || s.st == 2 then
      (T.setStr q { s with shadow := some (d, k) }, 1 + (s.gen + 1).toNat * 65536)
    else (armTake T q d k, (s.gen + 1).toNat * 65536)

/-- SREL N on slot q (R167, R184): no more than the program holds; RELERR for more, and for any on an IDLE slot or a leader. -/
def srelOp (T : Tile) (q n : Nat) : Tile :=
  let s := T.str q
  let give := min n s.held
  let s' := { s with held := s.held - give, heldOf := s.heldOf.drop give,
                     relerr := s.relerr || give < n || s.st == 0 || s.desc.leader,
                     handed := if s.desc.inbound then s.handed else s.handed + give,
                     clear := s.clear && s.held - give > 0 }
  let rel : List CtlMsg := (s.heldOf.take give).zipIdx.map fun ((l, p, g), i) =>
    { slot := q, leader := l, lslot := p, lgen := some g, no := T.nextTag + i }
  { T.setStr q s' with releases := T.releases ++ rel, nextTag := T.nextTag + give }

/-- SLOT_STATE(q) (R188). -/
def slotState (T : Tile) (q : Nat) : Nat :=
  let s := T.str q
  s.st + (if s.shadow.isSome then 8 else 0) + (s.owner % 8) * 16 + (if s.desc.leader && s.st != 0 then 128 else 0) +
    (s.reason % 16) * 256 + (s.held % 4) * 4096 + (if s.relerr then 16384 else 0) + s.gen.toNat * 65536 +
    (s.doneRecs % 2 ^ 32) * 2 ^ 32
/-- SLOT_COUNT(q) (R188). DESIGN CHOICE: INFLIGHT leaves out the entries of cancelled generations (log entry 122). -/
def slotCount (T : Tile) (q : Nat) : Nat :=
  let s := T.str q
  let infl := (T.reqs.filter fun r => r.slot == q && !r.cancelled).length
  let lead := s.desc.leader && s.st != 0
  infl + (if lead then s.desc.members.length * 2048 else 0) +
    (if lead then (s.members.filter fun m => m.2.detached).length * 2 ^ 23 else 0)
/-- TRACK (R188). -/
def trackReg (T : Tile) : Nat := T.inUse + (T.reqs.filter (·.cancelled)).length * 2048

/-! ### Requests (R166, R169, R187, R196) -/

/-- The bytes of index list `n` of a descriptor: 0 the index list, 1 the offsets, 2 the weights. -/
def listAddr (d : SDesc) (n : Nat) : Nat :=
  match n with
  | 0 => d.idx | 1 => d.offs | _ => d.wgt

/-- Byte range [off, off+len) of list n: from the operand cache, or from the 256 B blocks read so far; on a block not
yet read, that block's number. Blocks count from the start of the list (log entry 17). -/
def listBytes (T : Tile) (s : SSlot) (n off len : Nat) : Except (Nat × Nat) (List Byte) :=
  let a := listAddr s.desc n
  if !a.testBit 63 then .ok (T.ocGet (a + off) len)
  else
    let first := off / 256
    let blks := (List.range (cdiv (off + len) 256 - first)).map (first + ·)
    match blks.find? (fun b => !s.blocks.any (fun x => x.1 == n && x.2.1 == b)) with
    | some b => .error (n, b)
    | none =>
      .ok ((List.range len).map fun i =>
        let o := off + i
        match s.blocks.find? (fun x => x.1 == n && x.2.1 == o / 256) with
        | some x => x.2.2.getD (o % 256) 0
        | none => 0)

/-- Index values of entries [first, first+n) (R160). -/
def indexVals (T : Tile) (s : SSlot) (first n : Nat) : Except (Nat × Nat) (List Nat) :=
  let d := s.desc
  if d.ifmt == 0 then .ok ((List.range n).map (first + ·))
  else (listBytes T s 0 (first * d.isz) (n * d.isz)).map fun bs =>
    (elems d.isz n bs).map fun v => if d.ifmt == 3 then v % 2 ^ 48 else v

/-- The bag of record r: entries as (index, none for the sentinel; FP32 weight) (R196, R192). DESIGN CHOICE: WSUM through REMOTE, where CTX
stands in the place of WGT, has zero weights (log entry 122). -/
def bagOf (T : Tile) (s : SSlot) (r : Nat) : Except (Nat × Nat) (List (Option Nat × Nat)) := do
  let d := s.desc
  let (lo, hi) ←
    if d.bag % 65536 != 0 then pure (r * d.bag, (r + 1) * d.bag)
    else do
      let bs ← listBytes T s 1 (4 * r) 8
      pure (fldLe bs 0 4, fldLe bs 4 4)
  if hi ≤ lo then pure []
  else
    let n := hi - lo
    let ix ← indexVals T s lo n
    let ws ← if d.kind == 1 && d.pool % 4 == 2 then (listBytes T s 2 (4 * lo) (4 * n)).map (elems 4 n)
             else pure (List.replicate n 0)
    pure (List.zip (ix.map fun i => if d.sentinel == some i then none else some i) ws)

/-- Whether a record lies in HBM (R32, R187). -/
def inHbm (a : Nat) : Bool := a < 0x018000000000

/-- The addressed records a request asks for. -/
def ReqKind.addrs : ReqKind → List (Nat × Nat)
  | .gather l => l
  | .remote l _ => l
  | _ => []
/-- The request of a GATHER or REMOTE stream for records. -/
def gatherReq (d : SDesc) (recs : List (Nat × Nat)) : ReqKind := if d.kind == 0 then .gather recs else .remote recs []
/-- Add a narrow record to the unit of its granule, or start one (R187). -/
def addNarrow (d : SDesc) (us : List SUnit) (b r a : Nat) : List SUnit :=
  match us with
  | [] => [{ buf := b, kind := gatherReq d [(r, a)], narrow := true }]
  | u :: rest =>
    if u.narrow && u.kind.addrs.any (fun x => x.2 / 64 == a / 64) then { u with kind := gatherReq d (u.kind.addrs ++ [(r, a)]) } :: rest
    else u :: addNarrow d rest b r a

/-- The units of buffer b of a GATHER, or of a REMOTE stream of addressed records (R166, R187). -/
def gatherUnits (d : SDesc) (b : Nat) (recs : List (Nat × Nat)) : List SUnit :=
  recs.foldl (fun us (r, i) =>
    let a := (d.base + i * d.stride) % 2 ^ 48
    if d.recsz ≤ 32 && inHbm a then addNarrow d us b r a
    else us ++ [{ buf := b, kind := gatherReq d [(r, a)] }]) []

/-- Collect a list of computations, stopping at the first block that is missing. -/
def allOk {α ε : Type} : List (Except ε α) → Except ε (List α)
  | [] => .ok []
  | .ok x :: r => (allOk r).map (x :: ·)
  | .error e :: _ => .error e

/-- Form the request units of buffer b, or name the index block to read first. -/
def planUnits (T : Tile) (s : SSlot) (b : Nat) : Except (Nat × Nat) (List SUnit) :=
  let d := s.desc
  let first := b * d.per
  let n := d.nrec b
  let recs := (List.range n).map (first + ·)
  match d.kind with
  | 0 => (indexVals T s first n).map fun ix => gatherUnits d b (List.zip recs ix)
  | 1 => allOk (recs.map fun r => (bagOf T s r).map fun g => { buf := b, kind := .lookup r g })
  | _ =>
    if Config.remoteIsLookup d then
      allOk (recs.map fun r => (bagOf T s r).map fun g => { buf := b, kind := .remote [(r, 0)] g })
    else (indexVals T s first n).map fun ix => gatherUnits d b (List.zip recs ix)

/-- Whether buffer b of an inbound stream is engine-owned and may be worked on (R167, R175, R184). -/
def bufOpen (s : SSlot) (b : Nat) : Bool :=
  let d := s.desc
  b < d.nb && !s.clear &&
  (if d.leader then
    d.members.all fun m =>
      let x := kget s.members m {}
      x.detached || (x.armed && b < x.returned + d.nbuf)
  else b < s.signalled + d.nbuf - s.held)

/-- Tracker room for a slot (R169). -/
def trackRoom (T : Tile) (s : SSlot) : Bool :=
  T.inUse < (if s.desc.low then min T.lowLimit.toNat 1024 else 1024)

/-- What slot q has to send next, if anything: the slot after it, what is asked for, and whether by the Dibber path (R166, R169). An
outbound stream requests only index blocks. -/
def nextReq (T : Tile) (q : Nat) : Option (SSlot × ReqKind × Bool) :=
  let s := T.str q
  let d := s.desc
  if s.st != 2 || d.receive || !trackRoom T s then none
  else
    let block (n b : Nat) : Option (SSlot × ReqKind × Bool) :=
      if T.reqs.any (fun r => r.slot == q && r.gen == s.gen && !r.cancelled && r.kind == .block n b) then none
      else some (s, .block n b, false)
    if !d.inbound then
      match indexVals T s (s.signalled * d.per) (d.nrec s.signalled) with
      | .error (n, b) => block n b
      | .ok _ => none
    else
      match s.units with
      | u :: us => some ({ s with units := us }, u.kind, u.narrow)
      | [] =>
        if !bufOpen s s.planned then none
        else
          match planUnits T s s.planned with
          | .error (n, b) => block n b
          | .ok [] => none
          | .ok (u :: us) => some ({ s with planned := s.planned + 1, units := us }, u.kind, u.narrow)
/-- A slot between the last one served and q, in slot order, has a request to send (R172). -/
def reqBefore (T : Tile) (q : Nat) : Bool :=
  (List.range ((q + 31 - T.lastReq) % 32)).any fun i => (nextReq T ((T.lastReq + 1 + i) % 32)).isSome
/-- Send the next request of slot q, in its turn (R166, R169, R172). -/
def requestOp (T : Tile) (q : Nat) : Tile :=
  match (nextReq T q).filter fun _ => !reqBefore T q with
  | none => T
  | some (s, k, narrow) =>
    { T.setStr q s with
      reqs := T.reqs ++ [{ id := T.nextTag, slot := q, gen := s.gen, kind := k, desc := s.desc }]
      nextTag := T.nextTag + 1
      lastReq := q
      narrowReqs := if narrow then T.narrowReqs + 1 else T.narrowReqs }

/-- Records a response covers, in the order of its byte lists. -/
def ReqKind.recs : ReqKind → List Nat
  | .block _ _ => []
  | .gather l => l.map (·.1)
  | .lookup r _ => [r]
  | .remote l _ => l.map (·.1)

/-- Write the records of a response one after the other (R166). -/
def recordsIn (T : Tile) (q : Nat) : List (Nat × List Byte) → Tile
  | [] => T
  | (r, bs) :: l => recordsIn (recordIn T q r bs) q l

/-- The response of request r arrives at the tile (R166, R168, R179). DESIGN CHOICE: for a generation that has ended in ERROR it is dropped,
and counts in BYTES_FETCHED alone (log entry 122). -/
def responseOp (T : Tile) (r : StreamReq) (data : List (List Byte)) : Tile :=
  let n := (data.map List.length).sum
  let T := { T with reqs := T.reqs.filter (fun x => x.id != r.id), bytesFetched := T.bytesFetched + BitVec.ofNat 64 n }
  if r.cancelled then { T with bytesDiscarded := T.bytesDiscarded + BitVec.ofNat 64 n }
  else
    let s := T.str r.slot
    if s.gen != r.gen || s.st != 2 then T
    else
      match r.kind with
      | .block l b => T.setStr r.slot { s with blocks := s.blocks ++ [(l, b, data.headD [])] }
      | k => if s.desc.leader then T else recordsIn T r.slot (List.zip k.recs data)

/-- The member slot a multicast record belongs to (R183, R186). -/
def mcSlot (T : Tile) (m : McRec) : Option Nat :=
  (List.range 32).find? fun q =>
    let s := T.str q
    (s.st == 1 || s.st == 2) && s.desc.receive && s.credit == .accepted && s.lgen == m.lgen &&
      s.desc.leaderTile == m.leader && s.desc.leaderSlot == m.lslot

/-- A multicast record arrives (R166, R176, R186). -/
def mcResponseOp (T : Tile) (m : McRec) : Tile :=
  let n := BitVec.ofNat 64 m.data.length
  let T' := { T with mcIn := T.mcIn.filter (fun x => x.id != m.id), bytesFetched := T.bytesFetched + n }
  match mcSlot T m with
  | none => { T' with bytesDiscarded := T'.bytesDiscarded + n }
  | some q =>
    let s := T.str q
    -- a buffer the program still holds is never written (R176), and a CHAINED slot moves no records: the record waits
    if s.st != 2 || !bufOpen s (m.recno / s.desc.per) then T else recordIn T' q m.recno m.data

/-- The limit of R170 passes for request r. -/
def timeoutOp (T : Tile) (r : StreamReq) : Tile × List TileOut :=
  let T := { T with reqs := T.reqs.filter (fun x => x.id != r.id) }
  let s := T.str r.slot
  if r.cancelled || s.gen != r.gen || s.st != 2 then (T, []) else streamError T r.slot 1

/-- The held shadow takes effect in the cycle after DONE (R174). -/
def shadowOp (T : Tile) (q : Nat) : Tile :=
  let s := T.str q
  match s.st == 3, s.shadow with
  | true, some (d, o) => armTake (T.setStr q { s with shadow := none }) q d o
  | _, _ => T

/-- A CHAINED stream becomes ACTIVE once what it is chained behind has left CHAINED and ACTIVE (R177). -/
def chainOp (T : Tile) (q : Nat) : Tile :=
  let s := T.str q
  let free := match s.chain with
    | none => true
    | some (p, g) => let o := T.str p; o.gen != g || !(o.st == 1 || o.st == 2)
  if s.st == 1 && free then T.setStr q { s with st := 2 } else T

/-- The acceptances a generation of an outbound stream or leader waits for (R168, R184). -/
def SDesc.needAcks (d : SDesc) : Nat := if d.coll then 1 else d.count

/-- An acknowledgement counts for the generation it belongs to. -/
def ackIn (T : Tile) (a : AckMsg) : Tile :=
  let s := T.str a.slot
  if s.gen != a.gen || !(s.st == 1 || s.st == 2) then T
  else
    let s := { s with acked := s.acked + 1 }
    let T := T.setStr a.slot s
    if s.st == 2 && s.acked == s.desc.needAcks then streamDone T a.slot else T
/-- An acceptance leaves unit src for slot q, generation g. -/
def ackLeaves (T : Tile) (src q : Nat) (g : BitVec 16) : Tile :=
  { T with acks := T.acks ++ [{ slot := q, gen := g, src := src, no := T.nextTag }], nextTag := T.nextTag + 1 }

/-- The records of the oldest engine-owned outbound buffer (record number, index, bytes), and the tile after its last
byte has left: the buffer is signalled and is program-owned again (R167, R168). None when there is none to send. -/
def sendBuf (T : Tile) (q : Nat) : Option (Tile × List (Nat × Nat × List Byte)) :=
  let s := T.str q
  let d := s.desc
  if s.st != 2 || d.inbound || s.sent ≥ d.count || s.signalled ≥ s.handed then none
  else
    let b := s.signalled
    let first := b * d.per
    let n := d.nrec b
    match indexVals T s first n with
    | .error _ => none
    | .ok ix =>
      let recs := (List.range n).map fun j => (first + j, ix.getD j 0, T.ocGet (recOff s (first + j)) d.recsz)
      let s' := { s with sent := s.sent + n, signalled := b + 1, held := s.held + 1, doneRecs := s.doneRecs + n }
      some ((T.setStr q s').incToken d.fill 1, recs)

end Sys2Proof.Machine
end

