-- ==== Sys2Proof/Machine/Seq.lean ====
section
/-! DEFINITION. The sequencer of a tile: readiness, the choice of the task that issues, faults found before issue, and
the frame every instruction shares (R79-R91). -/

namespace Sys2Proof.Machine

/-- (y << 6) | x. -/
def tileCode (t : TileId) : Nat := t.y.val * 64 + t.x.val
/-- The compute die of a tile (R21). -/
def tileDie (t : TileId) : Nat := 2 * (t.y.val / 18) + t.x.val / 32

/-- Eight bytes of the instruction store at 8 × PC (R90, R111). -/
def Tile.fetch (T : Tile) (k : Nat) : IWord := BitVec.ofNat 64 (leNat (mgets T.mem (isBase + 8 * (T.slot k).pc.toNat) 8))

/-- Outstanding operations (R87, R109). -/
def TileOp.isSend (o : TileOp) : Bool := match o.kind with
  | .send .. => true
  | _ => false
def TileOp.isGld (o : TileOp) : Bool := match o.kind with
  | .gld .. => true
  | _ => false
def TileOp.isGst (o : TileOp) : Bool := match o.kind with
  | .gst .. => true
  | _ => false
def Tile.globalOut (T : Tile) : Nat := (T.ops.filter fun o => !o.isSend).length
def Tile.sendsOut (T : Tile) : Nat := (T.ops.filter TileOp.isSend).length

/-- An operation of the task that slot k holds now (R80, R81, R96). -/
def Tile.owns (T : Tile) (k : Nat) (o : TileOp) : Bool := o.slot == k && o.task == (T.slot k).task
/-- The address of a load, store, SEND, RECV or SARM. -/
def memAddr (K : Slot) (w : IWord) : Nat :=
  match w.row with
  | .ld | .st => ocAddr (K.areg (w.f 38 3)) (w.f 0 20)
  | .gld | .gst => glAddr (K.areg (w.f 38 3)) (w.f 0 20)
  | .sarm => ocAddr (K.areg (w.f 38 3)) (w.f 0 20)
  | .send | .recv => ocAddr (K.areg (w.f 43 3)) (w.f 0 20)
  | _ => 0
/-- An earlier GLD or GST of the task to the tile's own window has not been served, at a granule of the n bytes of operand cache at
`off`: what the task does there itself waits for it (R39, R111). DESIGN CHOICE: by not issuing (log entry 125). -/
def Tile.ownPending (T : Tile) (k off n : Nat) : Bool :=
  n != 0 && T.ops.any fun o => T.owns k o && o.ans.isNone && o.own.any fun (u, a) =>
    !((kget T.kept u []).any fun x => x.1 == o.tag) && a < ocSize &&
      (a / 64 + ocSize / 64 - off % ocSize / 64) % (ocSize / 64) ≤ (off % 64 + n - 1) / 64
/-- The unit that executes the instruction can accept it (R84, R87, R96, R111, R129, R165). -/
def unitAccepts (T : Tile) (k : Nat) (w : IWord) : Bool :=
  match w.row with
  | .ld | .st => !T.ownPending k (memAddr (T.slot k) w) (2 ^ w.f 36 2)
  | .recv => !T.ownPending k (memAddr (T.slot k) w) (((kget T.mboxes (w.f 34 4) []).head?.map fun m => m.bytes.length).getD 0)
  | .gld | .gst => T.globalOut < 64
  | .send => T.sendsOut < 4 && !T.ownPending k (memAddr (T.slot k) w) (w.f 29 9 + 1)
  | .fence =>
    !(T.ops.any fun o => T.owns k o && ((w.f 0 1 == 1 && o.isGst) || (w.f 1 1 == 1 && o.isGld) || (w.f 2 1 == 1 && o.isSend)))
  | .mwld | .mma | .mbwd | .morth => T.mq.length < 4
  | .vadd | .vmul | .vfma | .vcmp | .vsel | .vminmax | .vred | .vmov | .vsieve | .vexpand | .vupd | .cvt | .cvtq | .cvtdq =>
    T.vq.length < 4
  | .scan => T.scanBusy.isNone
  | _ => true

/-- The wait token, and the amount of TTAKE, are there (R84). -/
def tokensReady (T : Tile) (w : IWord) : Bool :=
  (w.wait == 0 || 1 ≤ (T.token w.wait).toNat) &&
  (w.row != .ttake ||
    w.f 0 16 + (if w.f 37 6 == w.wait then 1 else 0) ≤ (T.token (w.f 37 6)).toNat)

/-- The next instruction of slot k is ready (R84). A word ILLEGAL by its bits is found as soon as its wait token allows. -/
def Tile.ready (T : Tile) (k : Nat) : Bool :=
  let w := T.fetch k
  (T.slot k).st == .live &&
    (if w.illegal then w.wait == 0 || 1 ≤ (T.token w.wait).toNat else tokensReady T w && unitAccepts T k w)

/-- The order of R88: the slots after the last one that issued, that one last; it comes first while it may go on. DESIGN CHOICE: with no
task issued yet the order begins at slot 0, and a START keeps the last one (log entry 117). -/
def Tile.order (T : Tile) (rdy : Nat → Bool) : List Nat :=
  let rest := (List.range 8).map fun i => (T.last + 1 + i) % 8
  let other := (List.range 8).any fun j => j != T.last && rdy j
  if T.hot && !T.yielded && rdy T.last && (T.quantum == 0 || T.run < T.quantum.toNat || !other) then T.last :: rest else rest

/-- The task that issues or is found faulty in this cycle; `busy` names the slots that R86 and R89 hold back. -/
def Tile.pickSlot (T : Tile) (busy : BitVec 8) : Option Nat :=
  let rdy (k : Nat) : Bool := !bbit busy k && T.ready k
  (T.order rdy).find? rdy

/-- The state a task enters when its instruction is found faulty before issue (R79, R80, R95, R99, R123-R125, R163). -/
def faultOf (T : Tile) (k : Nat) (w : IWord) : Option SlotSt :=
  let K := T.slot k
  if w.illegal then some .illegal
  else if (engNeeds w).any (Need.illegal K) || engOverlapBad K w then some .illegal
  else if (engNeeds w).any (Need.misaligned K) then some .misaligned
  else
    match w.row with
    | .ld | .st | .gld | .gst => if memAddr K w % 2 ^ (w.f 36 2) != 0 then some .misaligned else none
    | .treg => if w.f 0 16 % 4 != 0 then some .misaligned else none
    | .sarm => if memAddr K w % 64 != 0 then some .misaligned else none
    | _ => none

/-- State codes of R79 for the fault states. -/
def SlotSt.code : SlotSt → Nat
  | .idle => 0 | .live => 1 | .halted => 3 | .illegal => 4 | .misaligned => 5 | .killed => 6

/-- What issue does before the instruction's own effect: R88's bookkeeping, the wait token consumed (R83 step 3), the
PC moved on. HALT leaves the PC at itself (R109). -/
def issueFrame (T : Tile) (k : Nat) (w : IWord) : Tile :=
  let again := T.hot && !T.yielded && T.last == k
  let T := { T with last := k, run := if again then T.run + 1 else 1, hot := true, yielded := w.row == .yield }
  let T := if w.wait == 0 then T else T.setToken w.wait (T.token w.wait - 1)
  if w.row == .halt then T else T.modSlot k fun K => { K with pc := K.pc + 1 }

/-- One cycle of the sequencer in which the deciding task's instruction is of row r: it is found faulty, or it issues
and has the effect `eff`. A cycle whose deciding instruction is of another row is that row's command. -/
def tileIssue (r : TRow) (eff : Tile → Nat → IWord → Tile × List TileOut) (busy : BitVec 8) (T : Tile) : Tile × List TileOut :=
  match T.pickSlot busy with
  | none => (T, [])
  | some k =>
    let w := T.fetch k
    if w.row != r then (T, [])
    else
      match faultOf T k w with
      | some f => (T.modSlot k fun K => { K with st := f }, [.fault k (T.slot k).pc f.code])
      | none => eff (issueFrame T k w) k w

/-- An instruction that completes when its action has taken effect signals its token (R85). -/
def signal (T : Tile) (w : IWord) : Tile := T.incToken w.sig 1

/-- STATE of TASK_STATE(k): RUNNING or WAITING follows from readiness (R79). -/
def taskCode (T : Tile) (k : Nat) : Nat :=
  match (T.slot k).st with
  | .live => if T.ready k then 1 else 2
  | st => st.code
/-- WAIT_ON of TASK_STATE(k) (R109). -/
def taskWaitOn (T : Tile) (k : Nat) : Nat :=
  let w := T.fetch k
  if (T.slot k).st == .live && !T.ready k && w.wait != 0 && (T.token w.wait) == 0 then w.wait else 0

end Sys2Proof.Machine
end

