-- ==== Sys2Proof/Machine/TileRegs.lean ====
section
/-! DEFINITION. The register block of a tile (R53, R109, R110, R188), by byte offset from tile-window offset 0x13_0000. -/

namespace Sys2Proof.Machine

/-- Whether a register starts at an offset, and whether it is 64 bits wide (R109, R188). -/
def tileRegAt (o : Nat) : Option Bool :=
  if o % 4 != 0 then none
  else if o == 0x8 then some true
  else if o < 0x20 then (if o == 0xC then none else some false)
  else if 0x40 ≤ o && o < 0x80 then (if o % 8 == 0 then some true else none)
  else if 0x100 ≤ o && o < 0x300 then some false
  else if o == 0x300 then some true
  else if 0x340 ≤ o && o < 0x380 then some false
  else if 0x400 ≤ o && o < 0xC00 then
    let r := o % 0x100
    if r < 0x80 then some false
    else if r < 0xC0 then (if r % 8 == 0 then some true else none)
    else none
  else if o == 0xF00 then some false
  else if o == 0x1000 || o == 0x1004 then some false
  else if o == 0x1008 || o == 0x1010 || o == 0x1018 then some true
  else if 0x1100 ≤ o && o < 0x1300 then (if o % 8 == 0 then some true else none)
  else if 0x1800 ≤ o && o < 0x2000 then some false
  else none

/-- The present value of the register at an offset. WO fields read as zero (R6). -/
def tilePeek (t : TileId) (T : Tile) (o : Nat) : Nat :=
  if o == 0x0 then t.x.val + t.y.val * 64 + tileDie t * 4096 + T.group.toNat * 2 ^ 14 + T.lag.toNat * 2 ^ 20
  else if o == 0x4 then T.quantum.toNat
  else if o == 0x8 then T.cycles % 2 ^ 64
  else if o == 0x10 then T.progress.toNat
  else if o == 0x14 then T.imgState + T.loadId.toNat * 16 + T.chunks.length * 2 ^ 20 + T.imgRound * 2 ^ 29
  else if o == 0x18 then T.globalOut + T.sendsOut * 128
  else if o == 0x1C then T.sendRetry.toNat
  else if 0x40 ≤ o && o < 0x80 then
    let k := (o - 0x40) / 8
    taskCode T k + (T.slot k).pc.toNat * 256 + taskWaitOn T k * 2 ^ 24 + (T.slot k).code.toNat * 2 ^ 32
  else if 0x100 ≤ o && o < 0x200 then (T.token ((o - 0x100) / 4)).toNat
  else if o == 0x300 then T.tokenOvf.toNat
  else if 0x340 ≤ o && o < 0x380 then
    let m := (o - 0x340) / 4
    (kget T.mboxTok m 0).toNat + (kget T.mboxes m []).length * 64
  else if 0x400 ≤ o && o < 0xC00 then
    let k := (o - 0x400) / 0x100
    let r := o % 0x100
    if r < 0x80 then ((T.slot k).sreg (r / 4)).toNat else ((T.slot k).areg ((r - 0x80) / 8)).toNat
  else if o == 0xF00 then T.fpFlags.toNat
  else if o == 0x1000 then T.localUs.toNat + T.remoteMs.toNat * 2 ^ 10 + T.lowLimit.toNat * 2 ^ 20
  else if o == 0x1004 then trackReg T
  else if o == 0x1008 then T.bytesFetched.toNat
  else if o == 0x1010 then T.bytesDiscarded.toNat
  else if o == 0x1018 then T.narrowReqs.toNat
  else if 0x1100 ≤ o && o < 0x1300 then
    let q := (o - 0x1100) / 0x10
    if o % 0x10 == 0 then slotState T q else slotCount T q
  else if 0x1800 ≤ o && o < 0x2000 then
    let q := (o - 0x1800) / 0x40
    fldLe (T.str q).desc (o % 0x40) 4
  else 0

/-- Clear the RC fields of the register at an offset (R6, R8). -/
def tileClear (T : Tile) (o : Nat) : Tile :=
  if o == 0x1C then { T with sendRetry := 0 }
  else if o == 0x1008 then { T with bytesFetched := 0 }
  else if o == 0x1010 then { T with bytesDiscarded := 0 }
  else if o == 0x1018 then { T with narrowReqs := 0 }
  else T

/-- Write the masked bits of a value to the register at an offset, under its access codes. -/
def tileWrite (T : Tile) (o v mask : Nat) : Tile :=
  let x := v &&& mask
  if o == 0x4 then { T with quantum := BitVec.ofNat 5 v }
  else if o == 0x10 then { T with progress := BitVec.ofNat 32 v }
  else if 0x100 ≤ o && o < 0x200 then T.setToken ((o - 0x100) / 4) (BitVec.ofNat 16 v)
  else if 0x200 ≤ o && o < 0x300 then T.incToken ((o - 0x200) / 4) (v % 65536)
  else if o == 0x300 then { T with tokenOvf := T.tokenOvf &&& ~~~ (BitVec.ofNat 64 x) }
  else if 0x340 ≤ o && o < 0x380 then { T with mboxTok := kputD T.mboxTok ((o - 0x340) / 4) (BitVec.ofNat 6 v) 0 }
  else if 0x400 ≤ o && o < 0xC00 then
    let k := (o - 0x400) / 0x100
    let r := o % 0x100
    T.modSlot k fun K =>
      if r < 0x80 then K.setS (r / 4) (BitVec.ofNat 32 v)
      else K.setA ((r - 0x80) / 8) (BitVec.ofNat 48 (maskIn (K.areg ((r - 0x80) / 8)).toNat v mask))
  else if o == 0xF00 then { T with fpFlags := T.fpFlags &&& ~~~ (BitVec.ofNat 12 x) }
  else if o == 0x1000 then
    { T with localUs := BitVec.ofNat 10 v, remoteMs := BitVec.ofNat 10 (v >>> 10), lowLimit := BitVec.ofNat 11 (v >>> 20) }
  else if 0x1100 ≤ o && o < 0x1300 && o % 0x10 == 0 then
    let q := (o - 0x1100) / 0x10
    if x.testBit 14 then T.setStr q { T.str q with relerr := false } else T
  else T

/-- Whether a write to the register at an offset reaches a CFG field (R9): TILE_ID.GROUP. -/
def tileCfg (o : Nat) : Bool := o == 0

/-- One 32-bit read of the tile's registers by a master: the tile after, the value, whether the offset is mapped. -/
def tileRead32 (t : TileId) (T : Tile) (m : Master) (o : Nat) : Tile × Nat × Bool :=
  let (v, cl, L, ok) := read32 tileRegAt (tilePeek t T) T.latches m o
  let T := { T with latches := L }
  (match cl with
   | some r => tileClear T r
   | none => T, v, ok)

/-- One 32-bit write: the tile after, whether the offset is mapped, whether a CFG field was written. -/
def tileWrite32 (T : Tile) (m : Master) (o v : Nat) : Tile × Bool × Bool :=
  let (w, L, ok) := write32 tileRegAt T.latches m o v
  let T := { T with latches := L }
  match w with
  | some (r, x, mask) => (tileWrite T r x mask, ok, tileCfg r)
  | none => (T, ok, false)

end Sys2Proof.Machine
end

