-- ==== Sys2Proof/Machine/Regs.lean ====
section
/-! DEFINITION. Reading and writing the registers outside the tiles, raising events, free values, and the accessors of
the parts of the state (R6, R9, R458-R464). -/

namespace Sys2Proof.Machine

/-! ### Registers -/

/-- The value of a register. -/
def State.reg (s : State) (k : RegKind) (i : Nat := 0) (j : Nat := 0) : Nat :=
  (kget s.regs (k.at i j) (BitVec.ofNat 64 k.dflt)).toNat
def State.setReg (s : State) (k : RegKind) (v : Nat) (i : Nat := 0) (j : Nat := 0) : State :=
  { s with regs := kputD s.regs (k.at i j) (BitVec.ofNat 64 v) (BitVec.ofNat 64 k.dflt) }
/-- The field of width w at bit lo of a register. -/
def State.fld (s : State) (k : RegKind) (lo w : Nat) (i : Nat := 0) (j : Nat := 0) : Nat := bits (s.reg k i j) lo w
def State.setFld (s : State) (k : RegKind) (lo w v : Nat) (i : Nat := 0) (j : Nat := 0) : State :=
  s.setReg k (setBits (s.reg k i j) lo w v) i j
/-- Add to a field, wrapping. -/
def State.addFld (s : State) (k : RegKind) (lo w v : Nat) (i : Nat := 0) (j : Nat := 0) : State :=
  s.setFld k lo w (s.fld k lo w i j + v) i j
/-- Add to a field, saturating. -/
def State.satFld (s : State) (k : RegKind) (lo w v : Nat) (i : Nat := 0) (j : Nat := 0) : State :=
  s.setFld k lo w (min (s.fld k lo w i j + v) (2 ^ w - 1)) i j
/-- Raise a field to a value when that is higher. -/
def State.maxFld (s : State) (k : RegKind) (lo w v : Nat) (i : Nat := 0) (j : Nat := 0) : State :=
  s.setFld k lo w (max (s.fld k lo w i j) v) i j
/-- Count in a 64-bit RC counter. -/
def State.count (s : State) (k : RegKind) (n : Nat) (i : Nat := 0) (j : Nat := 0) : State := s.addFld k 0 64 n i j

/-- Indices of a port's and a queue's registers. -/
def State.port (s : State) (k : RegKind) (lo w p : Nat) : Nat := s.fld k lo w (p % 2) p
def State.setPort (s : State) (k : RegKind) (lo w p v : Nat) : State := s.setFld k lo w v (p % 2) p
def State.q (s : State) (k : RegKind) (lo w q : Nat) : Nat := s.fld k lo w (q / 8192) (q % 8192)
def State.setQ (s : State) (k : RegKind) (lo w q v : Nat) : State := s.setFld k lo w v (q / 8192) (q % 8192)

/-! ### Parts of the state -/

def tileIdOf (c : Nat) : TileId := { x := Fin.ofNat 64 (c % 64), y := Fin.ofNat 36 (c / 64) }
def State.tile (s : State) (c : Nat) : Tile := kget s.tiles c {}
def State.setTile (s : State) (c : Nat) (T : Tile) : State := { s with tiles := kput s.tiles c T }
def State.modTile (s : State) (c : Nat) (f : Tile → Tile) : State := s.setTile c (f (s.tile c))
def State.emb (s : State) (d : Nat) : EmbDie := kget s.embs d {}
def State.modEmb (s : State) (d : Nat) (f : EmbDie → EmbDie) : State := { s with embs := kput s.embs d (f (s.emb d)) }
def State.job (s : State) (j : Nat) : Job := kget s.jobs j {}
def State.modJob (s : State) (j : Nat) (f : Job → Job) : State := { s with jobs := kput s.jobs j (f (s.job j)) }
def State.ctx (s : State) (c : Nat) : Ctx := kget s.ctxs c {}
def State.modCtx (s : State) (c : Nat) (f : Ctx → Ctx) : State := { s with ctxs := kput s.ctxs c (f (s.ctx c)) }
def State.grp (s : State) (g : Nat) : Group := kget s.groups g {}

/-- The next free 64-bit value (log entry 5). -/
def State.freeNext (s : State) : State × BitVec 64 := ({ s with freeCount := s.freeCount + 1 }, Config.freeValue s.freeCount)
/-- n bytes that no field holds, from address a (log entry 4). -/
def State.freeBytes (s : State) (a n : Nat) : State × List Byte :=
  ({ s with freeCount := s.freeCount + 1 }, (List.range n).map fun i => Config.freeByte s.freeCount (a + i))

/-! ### Sources, requesters and events -/

def srcMgmt : Nat := 0xFFFF
def srcDie (d : Nat) : Nat := 0xFF00 + d
def srcPort (p : Nat) : Nat := 0xFFFC + p

/-- UE_ADDR.REQUESTER and UE_KIND.KIND of a master (R287). -/
def Master.code : Master → Nat × Nat
  | .task t _ => (tileCode t, 0)
  | .stream t => (tileCode t, 0)
  | .remote n _ => (n.toNat, 1)
  | .baseDie d => (srcDie d.val, 2)
  | .portDie _ => (0xFFFE, 2)
  | .mgmt => (srcMgmt, 2)
/-- The unit that answers at the master's own entry point (R35). -/
def Master.entry : Master → Nat
  | .task t _ => tileCode t
  | .stream t => tileCode t
  | .remote _ p => srcPort p.val
  | .baseDie d => srcDie d.val
  | .portDie p => srcPort p.val
  | .mgmt => srcMgmt

/-- The class of an event type (R464). -/
def evClass (t : Nat) : Nat :=
  if t ∈ [0x0101, 0x0102, 0x0103, 0x0104, 0x0202, 0x0203, 0x0504, 0x0603, 0x0A01] then 0
  else if t ∈ [0x0205, 0x0701, 0x0702, 0x0901, 0x0904, 0x0906] then 1
  else if 0x0F00 ≤ t then 3
  else 2

/-- Count an event in EVT.COUNTS (R474). -/
def State.countClass (s : State) (cls : Nat) : State := s.satFld .evCounts (16 * cls) 16 1

/-- An event raised by a unit: counted, then folded, held, or lost (R463). -/
def State.event (s : State) (src typ : Nat) (data : List Byte) : State :=
  let s := s.countClass (evClass typ)
  let l := kget s.events src []
  if l.any fun e => e.typ == typ && e.count < 255 then
    { s with events := kput s.events src
               (replaceFirst (fun (e : EvRec) => e.typ == typ && e.count < 255) (fun e => { e with count := e.count + 1 }) l) }
  else if l.length < 16 then
    { s with events := kput s.events src (l ++ [{ typ := typ, src := src, uptime := s.uptime, data := slice data 0 16 }]) }
  else { s.count .evLost 1 with lost := kmod s.lost src 0 (· + 1) }

/-- ADDR_UNMAPPED (R35) and CFG_WRITE_IGNORED (R9). -/
def State.unmapped (s : State) (src a : Nat) (m : Master) : State :=
  s.event src 0x0102 (natLe 8 a ++ natLe 2 (Master.code m).1 ++ natLe 1 (Master.code m).2)
def State.cfgIgnored (s : State) (src a : Nat) (m : Master) : State :=
  s.event src 0x0101 (natLe 8 a ++ natLe 2 (Master.code m).1 ++ natLe 1 (Master.code m).2)

/-- What a tile asks of the device. -/
def State.tileOut (s : State) (c : Nat) : TileOut → State
  | .fault k pc code => s.event c 0x0201 (natLe 2 c ++ natLe 1 k ++ natLe 1 code ++ natLe 2 pc.toNat)
  | .undeliverable w => s.event c 0x0202 (natLe 2 c ++ natLe 4 w.toNat)
  | .timeout q g => s.event c 0x0301 (natLe 2 c ++ natLe 1 q ++ natLe 1 0 ++ natLe 2 g.toNat)
  | .unmapped k o => s.unmapped c (0x200000000000 + c * 0x400000 + 0x130000 + o) (.task (tileIdOf c) (Fin.ofNat 8 k))
  | .cfgIgnored k o => s.cfgIgnored c (0x200000000000 + c * 0x400000 + 0x130000 + o) (.task (tileIdOf c) (Fin.ofNat 8 k))
  | .marker _ _ _ _ => s
  | .leaderEnd _ _ _ => s

/-! ### Register access under the access codes -/

/-- Records of the event buffer by position modulo 256 (R466). -/
def State.bufWord (s : State) (w : Nat) : Nat :=
  let tail := s.reg .evTail
  let n := s.evBuf.length
  match (List.range n).find? fun i => (tail - n + i) % 256 == w / 4 with
  | some i => if s.ringMapped then 0 else fldLe (s.evBuf.getD i []) (8 * (w % 4)) 8
  | none => 0

/-- MIGDIR(e) as base die d holds it (R224, R229). -/
def State.migEnt (s : State) (d e : Nat) : Option MigEnt :=
  match s.migDir.find? fun x => x.1 == e with
  | some (_, m) => if m.only == none || m.only == some d then some m else none
  | none => none

/-- The present value of a register; a few are read from what they count. -/
def State.peek (s : State) (k : RegKind) (i j : Nat) : Nat :=
  match k with
  | .uptime => s.uptime
  | .evBuf => s.bufWord i
  | .migLo =>
    match s.migEnt i j with
    | some m => m.table + m.index * 2 ^ 16 + m.stack * 2 ^ 56 + m.st * 2 ^ 60
    | none => 0
  | .migHi =>
    match s.migEnt i j with
    | some m => m.addr
    | none => 0
  | .emUsed => (s.migDir.filter fun x => x.2.only == none || x.2.only == some i).length
  | k => s.reg k i j

/-- What a read shows: WO fields read as zero and reserved bits too (R6, R10). -/
def State.shown (s : State) (k : RegKind) (i j : Nat) : Nat := s.peek k i j &&& k.mask fun f => f.acc != .wo

/-- Clear the RC fields of a register that is read (R6). -/
def State.clearRc (s : State) (k : RegKind) (i j : Nat) : State :=
  let m := k.mask fun f => f.acc == .rc
  if m == 0 then s else s.setReg k (s.reg k i j &&& (maskAll ^^^ m)) i j

/-- A write of the masked bits of v under the access codes: RW bits are set, W1C bits cleared, others kept (R6). -/
def State.plainWrite (s : State) (k : RegKind) (i j v mask : Nat) : State :=
  let rwm := k.mask (fun f => f.acc == .rw) &&& mask
  let w1m := k.mask (fun f => f.acc == .w1c) &&& mask &&& v
  if rwm == 0 && w1m == 0 then s
  else s.setReg k (((s.reg k i j &&& (maskAll ^^^ rwm)) ||| (v &&& rwm)) &&& (maskAll ^^^ w1m)) i j

/-- The unit that holds a register (R9, R462). -/
def RegKind.src (a : Nat) : Nat :=
  if a < portBase then srcDie ((a - dieBase) / 0x40000000)
  else if a < mgmtBase then srcPort ((a - portBase) / 0x100000000)
  else srcMgmt

/-- A write of a CFG field after READY is recorded (R9). DESIGN CHOICE: where the write was a 32-bit half of a 64-bit register, the event
carries the register's base address (log entry 114). -/
def State.cfgCheck (s : State) (k : RegKind) (i j mask : Nat) (m : Master) : State :=
  if s.ready && (k.mask fun f => f.acc == .cfg) &&& mask != 0 then s.cfgIgnored (RegKind.src (k.at i j)) (k.at i j) m else s

/-! ### Device facts used everywhere -/

def State.diag (s : State) : Bool := s.fld .boot 5 1 == 1
def State.tier (s : State) : Nat := s.fld .licStatus 0 2
/-- This device's node id and pair node id (R322). -/
def State.node (s : State) : Nat := s.fld .faNode 0 16
def State.pairNode (s : State) : Nat := s.fld .faNode 16 16
/-- Twin state (R349). -/
def State.twin (s : State) : Nat := s.fld .twState 0 3
def State.twinMode (s : State) : Nat := s.fld .twCfg 0 2
def State.roleB (s : State) : Bool := s.fld .twCfg 2 1 == 1
def State.halvesUp (s : State) : Nat := s.fld .twState 3 1 + s.fld .twState 4 1
/-- Phase of a job (R236). -/
def State.phase (s : State) (j : Nat) : Nat := s.fld .jStatus 0 4 j
def State.setPhase (s : State) (j p : Nat) : State := s.setFld .jStatus 0 4 p j
def State.step (s : State) (j : Nat) : Nat := s.reg .jStep j
def State.void (s : State) : Bool := s.fld .qmStatus 0 1 == 1

end Sys2Proof.Machine
end

