-- ==== Sys2Proof/Machine/Memory.lean ====
section
/-! DEFINITION. Stacked memory: regions and bands, the way from a device address to a stack and a pseudo-channel, the
granule with its ECC and POISONED flag, and PROMISE_VOID (R32, R36, R38, R40, R268-R274, R283, R341). -/

namespace Sys2Proof.Machine

/-- Numbers in rising order without repeats. -/
def sortNat (l : List Nat) : List Nat := l.foldl (fun o x => insertNat x o) []
/-- Bands that a region takes in stack st (R268). -/
def bandsIn (mode target st : Nat) : Nat :=
  match mode with
  | 1 => 1
  | 2 => if st / 4 == target then 4 else 0
  | 3 => if st == target then 16 else 0
  | _ => 0
def State.regionMode (s : State) (r : Nat) : Nat :=
  let m := s.fld .region 0 2 r
  let t := s.fld .region 2 4 r
  if (m == 2 && t > 3) || (m == 1 && t != 0) then 0 else m
def State.regionTarget (s : State) (r : Nat) : Nat := s.fld .region 2 4 r
/-- first_band(r, st) (R269). -/
def State.firstBand (s : State) (r st : Nat) : Nat :=
  ((List.range r).map fun k => bandsIn (s.regionMode k) (s.regionTarget k) st).sum

/-- XOR of n digits of w bits (R271). -/
def fold (g w n : Nat) : Nat := (List.range n).foldl (fun f k => f ^^^ bits g (w * k) w) 0

/-- Region, stack and stack-local address of an HBM address, none where its region is OFF or withdrawn (R271). -/
def State.resolve (s : State) (a : Nat) : Option (Nat × Nat) :=
  let r := a >>> 36
  if r ≥ 24 then none
  else
    let mode := s.regionMode r
    if mode == 0 || s.fld .region 6 1 r == 1 then none
    else
      let o := a % 2 ^ 36
      let g := o >>> 12
      let (st, rel) :=
        match mode with
        | 1 => (fold g 4 6, (g >>> 4) <<< 12 ||| o % 4096)
        | 2 => (4 * s.regionTarget r + fold g 2 12, (g >>> 2) <<< 12 ||| o % 4096)
        | _ => (s.regionTarget r, o)
      some (st, s.firstBand r st * 2 ^ 32 + rel)

/-- The key of a stack-local address in `State.hbm`. -/
def physOf (st loc : Nat) : Nat := st * 2 ^ 37 + loc
/-- The key of a device address, whatever lies behind it. -/
def State.phys (s : State) (a : Nat) : Option Nat := (s.resolve a).map fun (st, l) => physOf st l

/-- Pseudo-channels that are not retired, in increasing number (R272). -/
def State.healthy (s : State) (st : Nat) : List Nat := (List.range 64).filter fun i => !(s.reg .stRetired st).testBit i
/-- The pseudo-channel and its address for a stack-local address (R272). -/
def pcOf (healthy : List Nat) (a : Nat) : Nat × Nat :=
  let m := healthy.length
  let u := a >>> 8
  let q := u / m
  let j := u - q * m
  let h := (q ^^^ (q >>> 6) ^^^ (q >>> 12)) % m
  (healthy.getD ((j + h) % m) 0, q * 256 + a % 256)

/-- Where a pseudo-channel address lies in the DRAM: bank, row and 64 B column of the page (R272). -/
def dramCell (p : Nat) : Nat × Nat × Nat := (bits p 10 6 ^^^ (p >>> 16) % 64, p >>> 16, bits p 6 4)

/-- STACK(st) has tripped (R283). -/
def State.tripped (s : State) (st : Nat) : Bool := s.fld .stStatus 0 2 st == 3

/-- PROMISE_VOID is raised (R341): why, and the stack or throttle group concerned. -/
def State.promiseVoid (s : State) (why what : Nat) : State :=
  if s.void then s
  else
    let s := (s.setReg .qmStatus (1 + 2 * why) 0).setReg .qmStatus (1 + 2 * why) 1
    let s := (s.setReg .qmVoidAt s.uptime 0).setReg .qmVoidAt s.uptime 1
    s.event srcMgmt 0x0802 (natLe 1 why ++ natLe 1 what)

/-- An uncorrectable read of the granule at device address a in stack st (R274, R341). -/
def State.uncorrectable (s : State) (m : Master) (a st loc : Nat) : State :=
  let g := physOf st loc / 64
  let s := s.satFld .stEcc 32 32 1 st
  let s := s.setReg .stUeAddr (a / 64 * 64 + (Master.code m).1 * 2 ^ 48) st
  let s := s.setReg .stUeKind (Master.code m).2 st
  let s := { s with poison := insertNat g s.poison, ueSince := insertNat g s.ueSince }
  let s := s.event (srcDie st) 0x0601
    (natLe 8 (a / 64 * 64) ++ natLe 2 (Master.code m).1 ++ natLe 1 (pcOf (s.healthy st) loc).1 ++ natLe 1 (Master.code m).2)
  match m with
  | .portDie p =>
    let base := s.fld .qmSpill 0 48 p.val
    if base ≤ a && a < base + s.fld .qmSpill 48 14 p.val * 2 ^ 20 then s.promiseVoid 3 0 else s
  | _ => s

/-- What is wrong with symbol i of a codeword. -/
def symError (bad : List (Fin 68 × Byte)) (i : Nat) : Byte := bad.foldl (fun v e => if e.1.val == i then v ^^^ e.2 else v) 0
/-- XOR of a granule's data with the errors of its symbols 0 to 63. -/
def withErrors (bytes : List Byte) (bad : List (Fin 68 × Byte)) : List Byte :=
  bad.foldl (fun l e => if e.1.val < 64 then l.set e.1.val ((l.getD e.1.val 0) ^^^ e.2) else l) bytes
/-- Symbols in error. -/
def badSymbols (bad : List (Fin 68 × Byte)) : List Nat := (List.range 68).filter fun i => symError bad i != 0
/-- Symbols of stored granule g go bad. -/
def State.strike (s : State) (g : Nat) (bad : List (Fin 68 × Byte)) : State :=
  if bad.isEmpty then s else { s with upset := kmod s.upset g [] (· ++ bad) }

/-- The ECC check of a granule that is read (R274): its bytes, and whether it is uncorrectable. One bad symbol is corrected in the
stored granule too; an uncorrectable granule keeps its bytes as they are read, and is marked POISONED. -/
def State.checked (s : State) (m : Master) (a st loc : Nat) : State × List Byte × Bool :=
  let p := physOf st (loc / 64 * 64)
  let bad := kget s.upset (p / 64) []
  let n := (badSymbols bad).length
  let s' : State := { s with upset := kdel s.upset (p / 64) }
  if n ≥ 2 || s.poison.contains (p / 64) then
    let data := withErrors (mgets s.hbm p 64) bad
    (({ s' with hbm := mputs s.hbm p data }).uncorrectable m a st loc, data, true)
  else (if n == 1 then s'.satFld .stEcc 0 32 1 st else s', mgets s.hbm p 64, false)
/-- One granule read (R274): the bytes returned, and whether the granule is uncorrectable. `bad` has gone bad since it was last read. -/
def State.granule (s : State) (m : Master) (a st loc : Nat) (bad : List (Fin 68 × Byte)) : State × List Byte × Bool :=
  ((s.strike (physOf st loc / 64) bad).count .stRd 64 st).checked m a st loc

/-- Pieces of [a, a + n) that each lie in one granule. -/
def pieces (a n : Nat) : List (Nat × Nat) :=
  if n == 0 then []
  else (List.range ((a + n - 1) / 64 - a / 64 + 1)).map fun i =>
    let lo := max a ((a / 64 + i) * 64)
    (lo, min (a + n) ((a / 64 + i + 1) * 64) - lo)

/-- Pieces of [o, o + n) that each lie in one page. -/
def pagePieces (o n : Nat) : List (Nat × Nat) :=
  if n == 0 then []
  else (List.range ((o + n - 1) / 4096 - o / 4096 + 1)).map fun i =>
    let lo := max o ((o / 4096 + i) * 4096)
    (lo, min (o + n) ((o / 4096 + i + 1) * 4096) - lo)

/-- The unit that answers for an unmapped HBM address: the master's own entry point, or the base die of a tripped stack (R35, R283). -/
def State.missing (s : State) (m : Master) (a : Nat) : Option Nat :=
  match s.resolve a with
  | none => some (Master.entry m)
  | some (st, _) => if s.tripped st then some (srcDie st) else none
/-- ADDR_UNMAPPED for each run of unmapped pieces that one unit answers. -/
def State.missed (s : State) (m : Master) : Option Nat → List (Nat × Nat) → State
  | _, [] => s
  | before, (a, _) :: r =>
    let u := s.missing m a
    let s' := match u with
      | some x => if u == before then s else s.unmapped x a m
      | none => s
    s'.missed m u r
/-- A read of pieces that each lie in one granule; one in a region that is OFF or withdrawn, or in a tripped stack, reads as zero. -/
def State.readPieces (s : State) (m : Master) : List (Nat × Nat) → State × List Byte × Bool
  | [] => (s, [], false)
  | (a, n) :: r =>
    let (s, d, b) : State × List Byte × Bool := match s.resolve a with
      | some (st, loc) => if s.tripped st then (s, List.replicate 64 0, false) else s.granule m a st loc []
      | none => (s, List.replicate 64 0, false)
    let (s, l, b') := s.readPieces m r
    (s, slice d (a % 64) n ++ l, b || b')
/-- A read by a unit of the device. The flag: some granule was uncorrectable. -/
def State.hbmRead (s : State) (m : Master) (l : List (Nat × Nat)) : State × List Byte × Bool := (s.missed m none l).readPieces m l

/-- A write of bytes in one granule (R273, R274): a narrower one reads, checks and merges, and POISONED stays set under it. -/
def State.granuleWrite (s : State) (m : Master) (a st loc : Nat) (data : List Byte) (bad : List (Fin 68 × Byte) := []) : State :=
  let s := (s.strike (physOf st loc / 64) bad).count .stWr 64 st
  let g := physOf st loc / 64
  if data.length == 64 && a % 64 == 0 then
    { s with hbm := mputs s.hbm (physOf st loc) data, poison := s.poison.filter (· != g), upset := kdel s.upset g }
  else
    let s := ((s.count .stRd 64 st).checked m a st loc).1
    { s with hbm := mputs s.hbm (physOf st loc) data }

/-- A write of the pieces of data that begins at address a0. -/
def State.writePieces (s : State) (m : Master) (data : List Byte) (a0 : Nat) : List (Nat × Nat) → State
  | [] => s
  | (a, n) :: r =>
    let s := match s.resolve a with
      | some (st, loc) => if s.tripped st then s else s.granuleWrite m a st loc (slice data (a - a0) n)
      | none => s
    s.writePieces m data a0 r
/-- A write by a unit of the device; what is unmapped or lies in a tripped stack is dropped, and reported (R35). -/
def State.hbmWrite (s : State) (m : Master) (data : List Byte) (a0 : Nat) (l : List (Nat × Nat)) : State :=
  (s.missed m none l).writePieces m data a0 l

/-- Bytes of HBM without any access taking place, from the present contents or the directory snapshot. -/
def State.hbmRaw (s : State) (mem : KMap Byte) (a n : Nat) : List Byte :=
  (pieces a n).flatMap fun (b, k) =>
    match s.phys b with
    | some p => mgets mem p k
    | none => List.replicate k 0
/-- DRAM bytes as a read answers them now, without an access taking place: zeros in a tripped stack (R283), and a granule with more
than one bad symbol as it stands (R274). -/
def State.hbmNow (s : State) (a n : Nat) : List Byte :=
  (pieces a n).flatMap fun (b, k) =>
    match s.resolve b with
    | none => List.replicate k 0
    | some (st, loc) =>
      if s.tripped st then List.replicate k 0
      else
        let p := physOf st (loc / 64 * 64)
        let bad := kget s.upset (p / 64) []
        if (badSymbols bad).length < 2 then mgets s.hbm (physOf st loc) k else slice (withErrors (mgets s.hbm p 64) bad) (loc % 64) k
/-- A unit reads pieces for what it does to them, counted and checked as any read (R274, R287). -/
def State.reads (s : State) (m : Master) (l : List (Nat × Nat)) : State := l.foldl (fun s x => (s.hbmRead m (pieces x.1 x.2)).1) s
/-- A WRITE that the partner sends, or what this device writes of the partner's (R37, R370, R373, R374). -/
def State.twinPut (s : State) (data : List Byte) (a : Nat) : State :=
  s.hbmWrite (.remote Config.partnerNode 0) data a (pieces a data.length)
/-- Write bytes without an access of its own (records of the start sequence, and parts of a larger operation). -/
def State.hbmPut (s : State) (data : List Byte) (a : Nat) : State :=
  (pieces a data.length).foldl (fun s (b, k) =>
    match s.phys b with
    | some p => { s with hbm := mputs s.hbm p (slice data (b - a) k) }
    | none => s) s

/-- A write of the start sequence: check bytes and POISONED follow R273, and no byte is counted, since the counts are 0 when the start ends. -/
def State.startPut (s : State) (data : List Byte) (a : Nat) : State :=
  (pieces a data.length).foldl (fun s (b, k) =>
    match s.resolve b with
    | some (st, loc) =>
      let g := physOf st loc / 64
      let s := if k == 64 then { s with poison := s.poison.filter (· != g), upset := kdel s.upset g } else (s.checked .mgmt b st loc).1
      { s with hbm := mputs s.hbm (physOf st loc) (slice data (b - a) k) }
    | none => s) s

/-- The device address of a stack-local address, if a region lies there (the inverse of R271). -/
def State.devAddr (s : State) (st loc : Nat) : Option Nat :=
  (List.range 24).findSome? fun r =>
    let mode := s.regionMode r
    let first := s.firstBand r st * 2 ^ 32
    let n := bandsIn mode (s.regionTarget r) st * 2 ^ 32
    if n == 0 || s.fld .region 6 1 r == 1 || loc < first || loc ≥ first + n then none
    else
      let rel := loc - first
      let up := rel >>> 12
      let base := r * 2 ^ 36
      match mode with
      | 1 => some (base + (up * 16 + (st ^^^ fold up 4 6)) * 4096 + rel % 4096)
      | 2 => some (base + (up * 4 + ((st - 4 * s.regionTarget r) ^^^ fold up 2 12)) * 4096 + rel % 4096)
      | _ => some (base + rel)

/-- Bytes of [a, a + n) in stack st. Each 64 KiB aligned block of a region puts 4 KiB on a stack for each band it takes there (R271). -/
def State.shareOf (s : State) (a n st : Nat) : Nat :=
  let ragged (x y : Nat) : Nat := ((pagePieces x (y - x)).map fun (b, k) => match s.resolve b with
    | some (t, _) => if t == st then k else 0
    | none => 0).sum
  let blocks (x y : Nat) : Nat :=
    let r := x >>> 20
    if s.fld .region 6 1 r == 1 then 0 else (y - x) * 4096 * bandsIn (s.regionMode r) (s.regionTarget r) st
  let lo := cdiv a 65536
  let hi := (a + n) / 65536
  if hi ≤ lo then ragged a (a + n)
  else
    let mid := min hi (max lo ((lo >>> 20 + 1) <<< 20))
    ragged a (lo * 65536) + blocks lo mid + blocks mid hi + ragged (hi * 65536) (a + n)
/-- Stack st and the logic of its base die run: it has not failed (R279) and has not tripped (R282, R283). -/
def State.dieServes (s : State) (st : Nat) : Bool := s.fld .stStatus 0 2 st < 2

/-! ### Where an access falls -/

/-- The parts of the address map (R32). -/
inductive Place where
  | hbm (st loc : Nat)
  /-- answered at the master's own entry point (R35) -/
  | entry
  /-- a granule of a tripped stack, answered by its base die -/
  | trip (st : Nat)
  | tile (c off : Nat)
  | die (d off : Nat)
  | port (p off : Nat)
  | mgmt (off : Nat)
  | twin
  deriving DecidableEq, Repr

/-- Where an address falls; in diagnostic mode only the management window and port die 0's window answer (R429), before READY of a warm
start stacks 0 and 1, which alone are mapped then, and the management window (R431). -/
def State.place (s : State) (a : Nat) : Place :=
  if s.diag && !(mgmtBase ≤ a && a < 0x230040000000 || portBase ≤ a && a < 0x220100000000) then .entry
  else if s.early.isSome && !(mgmtBase ≤ a && a < 0x230040000000 || a < 0x018000000000) then .entry
  else if a < 0x018000000000 then
    match s.resolve a with
    | some (st, l) => if s.tripped st then .trip st else .hbm st l
    | none => .entry
  else if a < 0x200000000000 then .entry
  else if a < 0x200400000000 then
    let c := (a - 0x200000000000) / 0x400000
    if c ≥ 2304 then .entry else .tile c (a % 0x400000)
  else if a < dieBase then .entry
  else if a < 0x210400000000 then .die ((a - dieBase) / 0x40000000) (a % 0x40000000)
  else if a < portBase then .entry
  else if a < 0x220200000000 then .port ((a - portBase) / 0x100000000) (a % 0x100000000)
  else if a < mgmtBase then .entry
  else if a < 0x230040000000 then .mgmt (a - mgmtBase)
  else if a < 0x400000000000 then .entry
  else if a < 0x800000000000 then .twin
  else .entry

/-- Bytes from a to the next boundary at which R36 splits an access. -/
def State.runTo (s : State) (a : Nat) : Nat :=
  let upTo (e : Nat) : Nat := e - a
  if a < 0x018000000000 then
    let m := if s.fld .region 6 1 (a >>> 36) == 1 then 0 else s.regionMode (a >>> 36)
    if m == 1 || m == 2 then 4096 - a % 4096 else 2 ^ 36 - a % 2 ^ 36
  else if a < 0x200000000000 then upTo 0x200000000000
  else if a < 0x200400000000 then 0x400000 - a % 0x400000
  else if a < dieBase then upTo dieBase
  else if a < 0x210400000000 then 0x40000000 - a % 0x40000000
  else if a < portBase then upTo portBase
  else if a < 0x220200000000 then 0x100000000 - a % 0x100000000
  else if a < mgmtBase then upTo mgmtBase
  else if a < 0x230040000000 then upTo 0x230040000000
  else if a < 0x400000000000 then upTo 0x400000000000
  else if a < 0x800000000000 then upTo 0x800000000000
  else upTo (2 ^ 48)

/-- Cut [a, a + n) at those boundaries. -/
def State.cut (s : State) : Nat → Nat → Nat → List (Nat × Nat)
  | 0, _, _ => []
  | f + 1, a, n =>
    if n == 0 then []
    else
      let k := max 1 (min n (s.runTo a))
      (a, k) :: s.cut f ((a + k) % 2 ^ 48) (n - k)
/-- Join neighbours of one region that lie in the same stack. -/
def State.joinRuns (s : State) : List (Nat × Nat) → List (Nat × Nat)
  | [] => []
  | (a, n) :: r =>
    match s.joinRuns r with
    | (b, k) :: t =>
      let same := b == a + n && a >>> 36 == b >>> 36 && a < 0x018000000000 &&
        (match s.resolve a, s.resolve b with
         | some x, some y => x.1 == y.1
         | _, _ => false)
      if same then (a, n + k) :: t else (a, n) :: (b, k) :: t
    | [] => [(a, n)]
/-- The parts an access is served in (R36). -/
def State.parts (s : State) (a n : Nat) : List (Nat × Nat) := s.joinRuns (s.cut (n / 4096 + 8) a n)

/-- Whether [a, a + n) lies wholly in mapped HBM. -/
def State.mapped (s : State) (a n : Nat) : Bool :=
  a + n ≤ 0x018000000000 && (List.range ((a + n - 1) / 2 ^ 36 + 1 - a / 2 ^ 36)).all fun i =>
    let r := a / 2 ^ 36 + i
    s.regionMode r != 0 && s.fld .region 6 1 r == 0

/-- A unit reads all of the 64-byte aligned [base, base + n): what is unmapped is reported, every granule with something wrong is checked,
and the bytes count (R35, R274, R287). -/
def State.readAll (s : State) (m : Master) (base n : Nat) : State :=
  let bad := (sortNat (s.poison ++ s.upset.map fun x => x.1)).filterMap fun g =>
    ((s.devAddr (g / 2 ^ 31) (g % 2 ^ 31 * 64)).filter fun a => base ≤ a + 63 && a < base + n).map fun a => (a, g)
  let gone := (List.range 16).any (fun st => s.tripped st) || !s.mapped base n
  let s := if gone then s.missed m none (s.parts base n) else s
  let s := bad.foldl (fun s x => if s.tripped (x.2 / 2 ^ 31) then s else (s.checked m x.1 (x.2 / 2 ^ 31) (x.2 % 2 ^ 31 * 64)).1) s
  (List.range 16).foldl (fun s st => if s.tripped st then s else s.count .stRd (s.shareOf base n st) st) s

end Sys2Proof.Machine
end

