-- ==== Sys2Proof/Machine/Tables.lean ====
section
/-! DEFINITION. Embedding tables: descriptors as read at the last step start, open and closed tables, where rows lie and
where they are served, reading and writing row slots (R189-R194, R199, R224). -/

namespace Sys2Proof.Machine

/-- The descriptor bytes of table t that every base die uses (R189). -/
def State.tabBytes (s : State) (t : Nat) : List Byte := s.hbmRaw s.dirMem (s.reg .emDir + 64 * t) 64

/-- A table descriptor (R190). -/
structure Tab where
  t : Nat
  b : List Byte
  deriving DecidableEq, Repr
def State.tab (s : State) (t : Nat) : Tab := { t := t, b := s.tabBytes t }
def Tab.flags (T : Tab) : Nat := fldLe T.b 0 1
def Tab.ext (T : Tab) : Bool := T.flags.testBit 1
def Tab.fp16 (T : Tab) : Bool := T.flags.testBit 2
def Tab.defGrad (T : Tab) : Bool := T.flags.testBit 3
def Tab.defSkip (T : Tab) : Bool := T.flags.testBit 4
def Tab.opt (T : Tab) : Nat := fldLe T.b 1 1
def Tab.dim (T : Tab) : Nat := fldLe T.b 2 2
def Tab.regions (T : Tab) : List Nat := (List.range 24).filter fun k => (fldLe T.b 4 4).testBit k
def Tab.rows (T : Tab) : Nat := fldLe T.b 8 8
def Tab.offset (T : Tab) : Nat := fldLe T.b 0x10 8
def Tab.deflt (T : Tab) : Nat := fldLe T.b 0x18 8
def Tab.lr (T : Tab) : Nat := fldLe T.b 0x20 4
def Tab.b1 (T : Tab) : Nat := fldLe T.b 0x24 4
def Tab.b2 (T : Tab) : Nat := fldLe T.b 0x28 4
def Tab.eps (T : Tab) : Nat := fldLe T.b 0x2C 4
def Tab.wd (T : Tab) : Nat := fldLe T.b 0x30 4
def Tab.startStep (T : Tab) : Nat := fldLe T.b 0x34 4
def Tab.job (T : Tab) : Nat := fldLe T.b 0x38 2
/-- Planes of a slot (R193). -/
def Tab.scales (T : Tab) : Nat := cdiv T.dim 32
def Tab.planeP (T : Tab) : Nat := 2 * T.dim * (if T.ext then 2 else 1)
def Tab.slotSize (T : Tab) : Nat :=
  T.planeP +
  (match T.opt with
   | 2 => T.scales + T.dim
   | 3 => 4
   | 4 | 5 => 2 * T.scales + 2 * T.dim
   | _ => 0)
def Tab.stride (T : Tab) : Nat := cdiv T.slotSize 64 * 64
def Tab.fmt (T : Tab) : Fmt := if T.fp16 then .fp16 else .bf16

/-- The conditions of R191 in order of descriptor offset. -/
def State.tabChecks (s : State) (T : Tab) : List (Nat × Bool) :=
  let r := T.regions
  [(0x00, T.flags.testBit 0 && T.flags >>> 5 == 0 && !(T.ext && T.fp16)),
   (0x01, T.opt ≤ 5),
   (0x02, 16 ≤ T.dim && T.dim ≤ 1024 && T.dim % 16 == 0),
   (0x04, fldLe T.b 4 4 != 0 && fldLe T.b 7 1 == 0 && r.all fun k => s.regionMode k == 3),
   (0x08, 1 ≤ T.rows && T.rows ≤ 2 ^ 40),
   (0x10, T.offset % 4096 == 0 && T.offset < 2 ^ 36 && T.offset + cdiv T.rows (max r.length 1) * T.stride ≤ 2 ^ 36),
   (0x18, T.deflt != 0 && T.deflt % 64 == 0 && T.deflt < 2 ^ 48),
   (0x38, T.job < 16 && s.phase T.job != 0),
   (0x3A, (slice T.b 0x3A 6).all (· == 0))]
/-- The offset of the first failing field; none for an open table. -/
def State.tabBad (s : State) (T : Tab) : Option Nat := ((s.tabChecks T).find? fun c => !c.2).map (·.1)
def State.tabOpen (s : State) (T : Tab) : Bool := (s.tabBad T).isNone

/-- The open tables of a job in increasing id. -/
def State.tablesOf (s : State) (j : Nat) : List Nat :=
  (List.range 65536).filter fun t => s.tabOpen (s.tab t) && (s.tab t).job == j

/-- Every base die that runs reads the whole table directory (R189): an access, with all that it meets (R35, R274). -/
def State.readDirectory (s : State) : State :=
  let s := ((List.range 16).filter s.dieServes).foldl (fun (s : State) d => s.readAll (.baseDie (Fin.ofNat 16 d)) (s.reg .emDir) 4194304) s
  { s with dirMem := s.hbm.filter fun (x : Nat × Byte) => !s.tripped (x.1 / 2 ^ 37) }

/-- The device address of row i's slot at its natural home (R194); ROWS names the default row. -/
def Tab.addr (T : Tab) (i : Nat) : Nat :=
  if i ≥ T.rows then T.deflt
  else
    let r := T.regions.length
    let q := i / r
    let mix := (((q ^^^ T.t) * 0x8D2F6A55) % 2 ^ 64) >>> 32
    let k := T.regions.getD ((i % r + mix) % r) 0
    k * 2 ^ 36 + T.offset + q * T.stride
/-- The base die of a row's natural home; the default row's is the stack of DEFAULT (R194). -/
def State.natural (s : State) (T : Tab) (i : Nat) : Nat :=
  match s.resolve (T.addr i) with
  | some (st, _) => st
  | none => if i ≥ T.rows then 0 else s.regionTarget (T.addr i >>> 36)
/-- The directory entry of a row, FORWARD entries apart (R224). -/
def State.migOf (s : State) (t i : Nat) : Option (Nat × MigEnt) :=
  s.migDir.find? fun x => x.2.table == t && x.2.index == i && x.2.st != 4
/-- Where a row's current copy lies: base die and slot address. -/
def State.current (s : State) (T : Tab) (i : Nat) : Nat × Nat :=
  match s.migOf T.t i with
  | some (_, m) => (m.stack, m.addr)
  | none => (s.natural T i, T.addr i)

/-- A closed table is reported once per base die and step (R191). -/
def State.reportClosed (s : State) (die t : Nat) : State :=
  if (s.emb die).badSeen.contains t then s
  else
    let s := s.modEmb die fun e => { e with badSeen := t :: e.badSeen }
    let s := s.setFld .emStatus 7 1 1 die
    s.event (srcDie die) 0x0401 (natLe 2 t ++ natLe 1 ((s.tabBad (s.tab t)).getD 0))

/-- Bytes read by an engine, each with whether its granule is uncorrectable (R274). -/
def State.readMarked (s : State) (m : Master) : List (Nat × Nat) → State × List (Byte × Bool)
  | [] => (s, [])
  | (a, n) :: r =>
    let (s, l, b) := s.hbmRead m [(a, n)]
    let (s, t) := s.readMarked m r
    (s, l.map (·, b) ++ t)
/-- Elements of w bytes from marked bytes: a value any of whose bytes is uncorrectable is NaN. -/
def markedElems (nan w : Nat) : Nat → List (Byte × Bool) → List Nat
  | 0, _ => []
  | n + 1, l =>
    let h := l.take w
    (if h.any (·.2) then nan else leNat (h.map (·.1))) :: markedElems nan w n (l.drop w)

/-- Emb flags OF, UF, NX, NV are sticky (R197, R216). -/
def State.embFlags (s : State) (die : Nat) (f : Flags) : State :=
  s.setReg .emFlags (s.reg .emFlags die ||| f.bits) die

end Sys2Proof.Machine
end

