-- ==== Sys2Proof/Machine/Lookup.lean ====
section
/-! DEFINITION. Lookups in the base dies: pooling, the hot-row cache, and migration and pinning of rows; and how a
response reaches a stream or the members of a leader (R183-R186, R195-R202, R223-R227). -/

namespace Sys2Proof.Machine

/-! ### Responses -/

/-- Copy the records of a leader's request to every tile of its rectangle, and acknowledge them to the leader (R183, R184). -/
def State.multicast (s : State) (c : Nat) (r : StreamReq) (src : Nat) (recs : List (Nat × List Byte)) : State :=
  let d := ((s.tile c).str r.slot).desc
  let s := (d.members.filter (· < 2304)).foldl (fun s m =>
    s.modTile m fun T =>
      { T with mcIn := T.mcIn ++ recs.zipIdx.map (fun (x, i) =>
                 { id := T.nextTag + i, src := src, leader := c, lslot := r.slot, lgen := r.gen, recno := x.1, data := x.2 }),
               nextTag := T.nextTag + recs.length }) s
  s.modTile c fun T => (List.range recs.length).foldl (fun T _ => ackLeaves T src r.slot r.gen) T

/-- A request of tile c's stream engine is answered by unit src: the response is on its way (R166), or the records go out by
multicast when the slot leads (R183). DESIGN CHOICE: a request that is outstanding when its leader is cancelled is answered to the leader's
tile, which discards it (log entry 122). -/
def State.answer (s : State) (c : Nat) (r : StreamReq) (src : Nat) (data : List (List Byte)) : State :=
  let x := (s.tile c).str r.slot
  let lead := x.gen == r.gen && x.desc.leader && !r.cancelled && r.kind.recs != []
  let s := if lead then s.multicast c r src (List.zip r.kind.recs data) else s
  s.modTile c fun T =>
    { T with reqs := replaceFirst (fun (q : StreamReq) => q.id == r.id)
                       (fun q => { q with resp := some (if lead then [] else data), sent := some (src, T.nextTag) }) T.reqs,
             nextTag := T.nextTag + 1 }

/-! ### Pooling (R196-R199) -/

def bump {α : Type} [DecidableEq α] (l : List (α × Nat)) (k : α) : List (α × Nat) :=
  if l.any fun x => x.1 == k then replaceFirst (fun x => x.1 == k) (fun x => (x.1, x.2 + 1)) l else l ++ [(k, 1)]

/-- A row whose entry is MOVED, or MOVING from where an earlier MOVE put it: its natural home forwards requests (R224). -/
def State.away (s : State) (t i : Nat) : Option MigEnt :=
  (s.migOf t i).bind fun (_, m) => if (m.st == 1 || m.st == 2) && m.stack != s.natural (s.tab t) i then some m else none
/-- Base die and slot address from which a row is served: the natural home's cache for a pinned row (R224), else the current copy. -/
def State.servedAt (s : State) (T : Tab) (i : Nat) : Nat × Nat :=
  let n := s.natural T i
  let c := s.current T i
  match s.migOf T.t i with
  | some (_, m) => if m.st == 3 && (s.emb n).hot.contains (T.t, i) then (n, c.2) else c
  | none => c
/-- Read the elements of one row where it is served (R199, R201). -/
def State.rowRead (s : State) (T : Tab) (i : Nat) : State × List FVal :=
  let (die, a) := s.servedAt T i
  let s := s.count .emCnt 1 die 0
  let s := s.modEmb die fun e => { e with counts := bump e.counts (T.t, i) }
  let w := 2 * T.dim
  if (s.emb die).hot.contains (T.t, i) then
    (s.count .emCnt 1 die 2, (elems 2 T.dim (s.hbmRaw s.hbm a w)).map T.fmt.decode)
  else
    let s := s.count .emCnt 1 die 1
    let (s, l) := s.readMarked (.baseDie (Fin.ofNat 16 die)) (pieces a w)
    (s, (markedElems T.fmt.nan 2 T.dim l).map T.fmt.decode)

/-- Element-wise step with sticky flags. -/
def lanes (f : FVal → Nat → Nat × Flags) (row : List FVal) (acc : List Nat) : List Nat × Flags :=
  let r := (List.zip row acc).map fun (x, a) => f x a
  (r.map (·.1), (r.map (·.2)).foldl Flags.or fNone)

/-- Pool one row into the accumulator; n rows have been pooled before (R197). -/
def poolStep (mode n w : Nat) (row : List FVal) (acc : List Nat) : List Nat × Flags :=
  let d := Fmt.fp32.decode
  match mode with
  | 2 => lanes (fun x a => Fmt.fp32.fma (d w) x (d a)) row acc
  | 3 => if n == 0 then lanes (fun x _ => Fmt.fp32.encode .rne false x) row acc
         else lanes (fun x a => Fmt.fp32.encode .rne false (fminmax true (d a) x)) row acc
  | _ => lanes (fun x a => Fmt.fp32.add (d a) x) row acc

/-- Pool a bag entry by entry: accumulator, rows pooled, flags. -/
def State.poolBag (s : State) (T : Tab) (mode : Nat) :
    List (Option Nat × Nat) → List Nat → Nat → Flags → State × List Nat × Nat × Flags
  | [], acc, n, f => (s, acc, n, f)
  | (i, w) :: r, acc, n, f =>
    let bad := match i with
      | some i => i ≥ T.rows
      | none => true
    let row := if bad then T.rows else i.getD 0
    let s := if bad then
        let die := s.natural T T.rows
        (s.count .emCnt 1 die 3).modEmb die fun e => { e with defHits := kmod e.defHits T.t 0 (· + 1) }
      else s
    if bad && T.defSkip then s.poolBag T mode r acc n f
    else
      let (s, vs) := s.rowRead T row
      let (acc, g) := poolStep mode n w vs acc
      s.poolBag T mode r acc (n + 1) (f.or g)

/-- The base die that pools a bag: the natural home of its first entry (log entry 21); the one that answers for a closed table (R191). -/
def State.poolDie (s : State) (T : Tab) (bag : List (Option Nat × Nat)) : Nat :=
  if !s.tabOpen T then T.t % 16
  else match bag with
  | (some i, _) :: _ => s.natural T (if i ≥ T.rows then T.rows else i)
  | _ => s.natural T T.rows

/-- The natural homes forward the entries of a bag whose rows are away, each counted (R224, R229). -/
def State.forwarded (s : State) (t : Nat) (bag : List (Option Nat × Nat)) : State :=
  let T := s.tab t
  if !s.tabOpen T then s
  else bag.foldl (fun (s : State) x =>
    match x.1 with
    | some i => if (s.away t i).isSome then s.count .emCnt 1 (s.natural T i) 8 else s
    | none => s) s
/-- Requests tagged with an older DV that reach a former location, not the natural home, are resent by it once, each counted (R226, R229). -/
def State.resent (s : State) (t : Nat) (bag : List (Option Nat × Nat)) : State :=
  bag.foldl (fun (s : State) x =>
    match x.1 with
    | some i =>
      match s.migDir.find? fun (e : Nat × MigEnt) => e.2.st == 4 && e.2.table == t && e.2.index == i && e.2.only != some (s.natural (s.tab t) i) with
      | some e => s.count .emCnt 1 (e.2.only.getD 0) 9
      | none => s
    | none => s) s
/-- One pooled vector as bytes: MODE and OUT of POOL, before it is fitted to the record (R197). -/
def State.pooled (s : State) (t pool : Nat) (bag : List (Option Nat × Nat)) : State × List Byte :=
  let T := s.tab t
  let mode := pool % 4
  let bf := pool.testBit 2
  if !s.tabOpen T then
    (s.reportClosed (t % 16) t, List.replicate (T.dim * (if bf then 2 else 4)) 0)
  else
    let die := s.poolDie T bag
    let (s, acc, n, f) := s.poolBag T mode bag (List.replicate T.dim 0) 0 fNone
    let (acc, f) :=
      if mode == 1 && n > 0 then
        let k := Fmt.fp32.decode (Fmt.fp32.encode .rne false (.fin false n 0)).1
        let r := acc.map fun a => Fmt.fp32.div (Fmt.fp32.decode a) k
        (r.map (·.1), (r.map (·.2)).foldl Flags.or f)
      else (acc, f)
    if bf then
      let r := acc.map bf16Rne
      (s.embFlags die ((r.map (·.2)).foldl Flags.or f), r.flatMap fun x => natLe 2 x.1)
    else (s.embFlags die f, acc.flatMap fun a => natLe 4 a)

/-- A record of RECSZ bytes: the vector, then zeros; or the vector cut (R197). -/
def fitRec (recsz : Nat) (l : List Byte) : List Byte := slice l 0 recsz

/-- Every base die that a bag needs runs: the one that pools it, and each row's natural home and serving die (R279, R282). -/
def State.bagServed (s : State) (t : Nat) (bag : List (Option Nat × Nat)) : Bool :=
  let T := s.tab t
  if !s.tabOpen T then s.dieServes (t % 16)
  else
    s.dieServes (s.poolDie T bag) && bag.all fun (i, _) =>
      let row := min (i.getD T.rows) T.rows
      s.dieServes (s.natural T row) && s.dieServes (s.servedAt T row).1

/-! ### Hot-row cache (R201, R202) -/

/-- Insertion by decreasing count, then table, then index. -/
def hotInsert (x : (Nat × Nat) × Nat) : List ((Nat × Nat) × Nat) → List ((Nat × Nat) × Nat)
  | [] => [x]
  | y :: r =>
    if x.2 > y.2 || (x.2 == y.2 && (x.1.1 < y.1.1 || (x.1.1 == y.1.1 && x.1.2 < y.1.2))) then x :: y :: r
    else y :: hotInsert x r
/-- Take rows in order until the cache is full. -/
def hotTake (s : State) : Nat → List (Nat × Nat) → List (Nat × Nat)
  | _, [] => []
  | room, (t, i) :: r =>
    let b := 2 * (s.tab t).dim
    if b ≤ room then (t, i) :: hotTake s (room - b) r else []
/-- The fill of base die d at a step start: rows of which it is the natural or the current home, pinned ones up to PIN_LIMIT first.
A row that cannot be read without error stays out. DESIGN CHOICE: candidates are rows that the die itself has served, so a row that has
just moved to it is none in the step after the move (log entry 123). -/
def State.hotFill (s : State) (d : Nat) : State :=
  if !s.dieServes d then s.modEmb d fun e => { e with hot := [], counts := [], badSeen := [] }
  else
    let size (l : List (Nat × Nat)) : Nat := (l.map fun x => 2 * (s.tab x.1).dim).sum
    let pins := (s.migDir.filter fun (x : Nat × MigEnt) => x.2.st == 3 && s.natural (s.tab x.2.table) x.2.index == d).map fun x => (x.2.table, x.2.index)
    let pins := hotTake s (min Config.hotCache (s.fld .emHot 16 8 d * 65536)) pins
    let home (x : Nat × Nat) : Bool := let T := s.tab x.1; s.tabOpen T && (s.natural T x.2 == d || (s.current T x.2).1 == d)
    let least := s.fld .emHot 0 16 d
    let cand := ((s.emb d).counts.filter fun (x : (Nat × Nat) × Nat) => x.2 ≥ least && home x.1).foldl (fun l x => hotInsert x l) []
    let rows := pins ++ hotTake s (Config.hotCache - size pins) ((cand.map (·.1)).filter fun x => !pins.contains x)
    let (s, good) := rows.foldl (fun (acc : State × List (Nat × Nat)) x =>
      let T := s.tab x.1
      let (s, _, bad) := acc.1.hbmRead (.baseDie (Fin.ofNat 16 d)) (pieces (s.current T x.2).2 (2 * T.dim))
      (s, if bad then acc.2 else acc.2 ++ [x])) (s, [])
    s.modEmb d fun e => { e with hot := good, counts := [], badSeen := [] }

/-! ### Migration (R223-R227) -/

/-- A write of MIG_REQ (R223): nothing while one is pending. -/
def State.migWrite (s : State) (d : Nat) (v : Nat) : State :=
  if s.fld .emMigStatus 4 1 d == 1 then s
  else (s.modEmb d fun e => { e with migReq := some (BitVec.ofNat 64 v) }).setFld .emMigStatus 4 1 1 d

/-- Bytes of migration area d that are in use; a free slot of n bytes, if there is one. -/
def State.migSlot (s : State) (d n : Nat) : Option Nat :=
  let base := s.reg .emMig d
  let size := s.fld .emSizes 16 16 d * 2 ^ 20
  let used := s.migSlots.filter fun (x : Nat × Nat) => overlaps x.1 x.2 base size
  let cands := base :: used.map fun x => x.1 + x.2
  cands.find? fun a => base ≤ a && a + n ≤ base + size && !used.any fun x => overlaps a n x.1 x.2
/-- Pinned bytes of the rows whose natural home is d, those about to be pinned included (R202). -/
def State.pinned (s : State) (d : Nat) : Nat :=
  let dim (t i : Nat) : Nat := if s.natural (s.tab t) i == d then 2 * (s.tab t).dim else 0
  ((s.migDir.filter fun (x : Nat × MigEnt) => x.2.st == 3).map fun x => dim x.2.table x.2.index).sum +
  ((s.migNext.filter fun a => a.op == 2 && !s.migDir.any fun (x : Nat × MigEnt) => x.2.st == 3 && x.2.table == a.table && x.2.index == a.index).map
    fun a => dim a.table a.index).sum

/-- Directory entries that accepted requests take at the next step start. -/
def State.migAsked (s : State) : Nat := (s.migNext.filter fun b => (b.op == 1 || b.op == 2) && (s.migOf b.table b.index).isNone).length
/-- The code of R223 for a request at base die d, and the slot reserved for a MOVE. -/
def State.migCheck (s : State) (d : Nat) (a : MigAsk) : Nat × Nat :=
  let T := s.tab a.table
  let cur := s.current T a.index
  let ent := s.migOf a.table a.index
  let entSt := match ent with
    | some (_, m) => m.st
    | none => 0
  if a.op == 0 || a.op > 4 || !s.tabOpen T || a.index ≥ T.rows then (3, 0)
  else if s.natural T a.index != d then (4, 0)
  else if entSt == 1 || s.migNext.any (fun b => b.table == a.table && b.index == a.index) then (5, 0)
  else if (a.op == 1 || a.op == 4 && cur.1 != d) && entSt == 3 then (5, 0)
  else
    let target := if a.op == 4 then d else a.target
    if (a.op == 1 || a.op == 4) && target == cur.1 then (3, 0)
    else if (a.op == 1 || a.op == 2) && ent.isNone && s.migDir.length + s.migAsked ≥ 4096 then (2, 0)
    else if a.op == 1 then
      match s.migSlot a.target T.stride with
      | some x => (0, x)
      | none => (2, 0)
    else if a.op == 2 && entSt != 3 && s.pinned d + 2 * T.dim > s.fld .emHot 16 8 d * 65536 then (6, 0)
    else (0, 0)

/-- MIG_STATUS_ANSWER: the natural home answers (R223), while it runs. -/
def State.migAnswer (s : State) (d : Nat) : State :=
  match (s.emb d).migReq.filter fun _ => s.dieServes d with
  | none => s
  | some v =>
    let a : MigAsk := { table := bfld v 0 16, index := bfld v 16 40, op := bfld v 60 3, target := bfld v 56 4 }
    let (code, slot) := s.migCheck d a
    let s := (s.modEmb d fun e => { e with migReq := none }).setReg .emMigStatus code d
    if code != 0 then s
    else
      let s := if a.op == 1 then { s with migSlots := s.migSlots ++ [(slot, (s.tab a.table).stride)] } else s
      { s with migNext := s.migNext ++ [{ a with slot := slot }] }

/-- The lowest free directory entry. -/
def State.migFreeEnt (s : State) : Nat := ((List.range 4096).find? fun e => !s.migDir.any fun x => x.1 == e).getD 0

/-- Requests take effect at a step start (R225, R227). -/
def State.migBegin (s : State) : State :=
  -- UNPINs accepted in the step before
  let s := { s with migDir := s.migDir.filterMap fun ((e, m) : Nat × MigEnt) =>
    match m.unpin with
    | some 0 =>
      if m.addr == (s.tab m.table).addr m.index then none else some (e, { m with st := 2, unpin := none })
    | some (n + 1) => some (e, { m with unpin := some n })
    | none => some (e, m) }
  let asks := s.migNext
  asks.foldl (fun (s : State) (a : MigAsk) =>
    let T := s.tab a.table
    let (cs, ca) := s.current T a.index
    let (e, m) := (s.migOf a.table a.index).getD
      (s.migFreeEnt, { table := a.table, index := a.index, stack := cs, st := 0, addr := ca })
    match a.op with
    | 1 => { s with migDir := kput s.migDir e { m with st := 1, target := a.target, slot := a.slot, copy := none, back := false } }
    | 4 => { s with migDir := kput s.migDir e { m with st := 1, target := s.natural T a.index, slot := T.addr a.index, copy := none, back := true } }
    | 2 => { s with migDir := kput s.migDir e { m with st := 3 } }
    | _ => if m.st == 3 then { s with migDir := kput s.migDir e { m with unpin := some 0 } } else s)
    { s with migNext := [] }

/-- The current locations copy the MOVING rows of job j's tables (R225 step 2). -/
def State.migCopy (s : State) (j : Nat) : State :=
  (s.migDir.filter fun (x : Nat × MigEnt) => x.2.st == 1 && x.2.copy.isNone && (s.tab x.2.table).job == j).foldl (fun s (e, m) =>
    let n := (s.tab m.table).stride
    let who : Master := .baseDie (Fin.ofNat 16 m.stack)
    let (s, bytes, _) := s.hbmRead who (pieces m.addr n)
    let s := s.hbmWrite (.baseDie (Fin.ofNat 16 m.target)) bytes m.slot (pieces m.slot n)
    { s with migDir := kput s.migDir e { m with copy := some m.slot } }) s

/-- The directory switches at a commit (R224, R225 steps 3 and 4). With no entry free beside those that accepted requests take, a former
location holds no FORWARD entry (DESIGN CHOICE, log entry 97). -/
def State.migCommit (s : State) : State :=
  let old := s.migDir.filter fun (x : Nat × MigEnt) => x.2.st == 4
  let s := { s with migDir := s.migDir.filter (fun (x : Nat × MigEnt) => x.2.st != 4),
                    migSlots := s.migSlots.filter fun (x : Nat × Nat) => !old.any fun o => o.2.slot == x.1 }
  let moving := s.migDir.filter fun (x : Nat × MigEnt) => x.2.st == 1 && x.2.copy.isSome
  let s := moving.foldl (fun s (e, m) =>
    let fwd : MigEnt := { table := m.table, index := m.index, stack := m.target, st := 4, addr := m.slot, slot := m.addr,
                          only := some m.stack }
    let s := if m.back then { s with migDir := kdel s.migDir e }
             else { s with migDir := kput s.migDir e { m with st := 2, stack := m.target, addr := m.slot, copy := none } }
    if s.migDir.length + s.migAsked ≥ 4096 then s else { s with migDir := kput s.migDir s.migFreeEnt fwd }) s
  if moving == [] && old == [] then s
  else (List.range 16).foldl (fun s d => s.setReg .emDv ((s.reg .emDv d + 1) % 2 ^ 32) d) s

end Sys2Proof.Machine
end

