-- ==== Sys2Proof/Machine/Post.lean ====
section
/-! DEFINITION. Context records as the image lays them out, handing packets to a context, and the operation headers of
COLLECTIVE and SPARSE_EXCHANGE packets (R3, R301, R318, R320). Groups and rectangles of jobs are here too (R263, R264). -/

namespace Sys2Proof.Machine

/-- Contexts below this one may be open: the licence's count and CTX_COUNT (R3, R4, R301). -/
def State.ctxRoom (s : State) : Nat :=
  min (s.reg .faCtxCount) (if s.diag then 0 else if s.tier == 0 then 0 else if s.tier == 1 then 262144 else 1048576)
/-- An n-byte field of the record of context c; before READY of a warm start only the records pinned in the caches are there (R431). -/
def State.ctxFld (s : State) (c off n : Nat) : Nat :=
  leNat (match s.early with
    | none => s.hbmRaw s.hbm (s.fld .faCtxBase 0 48 + 256 * c + off) n
    | some e => slice (kget e.ctxs c []) off n)
/-- STATE of context c: 0 CLOSED, 1 SYNCING, 2 OPEN, 3 FAILED. -/
def State.ctxSt (s : State) (c : Nat) : Nat := if c < s.ctxRoom then s.ctxFld c 0 1 else 0
def State.setCtxSt (s : State) (c v : Nat) : State :=
  match s.early with
  | none => s.hbmPut (natLe 1 v) (s.fld .faCtxBase 0 48 + 256 * c)
  | some e => { s with early := some { e with ctxs := kmod e.ctxs c [] fun r => natLe 1 v ++ r.drop 1 } }
def State.ctxPort (s : State) (c : Nat) : Nat := s.ctxFld c 1 1 % 32
def State.ctxClass (s : State) (c : Nat) : Nat := s.ctxFld c 3 1 % 64
def State.ctxPeer (s : State) (c : Nat) : Nat := s.ctxFld c 4 2
/-- The context that carries messages to a node: the lowest OPEN one with that PEER_NODE (log entry 22). -/
def State.ctxFor (s : State) (node : Nat) : Option Nat :=
  (s.ctxs.find? fun (x : Nat × Ctx) => s.ctxSt x.1 == 2 && s.ctxPeer x.1 == node).map (·.1)

/-- Messages to the partner join those that leave; after a fatal error none does (R460). -/
def State.tell (s : State) (l : List TwMsg) : State := if s.fatal then s else { s with twinOut := s.twinOut ++ l }
/-- Hand a packet to a context. -/
def State.post (s : State) (c : Nat) (p : TxPkt) : State := s.modCtx c fun C => { C with queue := C.queue ++ [p] }
/-- Hand an unsequenced packet to a context. -/
def State.postCtl (s : State) (c op : Nat) (pay : List Byte) : State := s.modCtx c fun C => { C with ctl := C.ctl ++ [(op, pay)] }
/-- Units leave the ingress buffer: the grant grows, and a CREDIT packet leaves when it has grown by 64 (R306). -/
def State.giveCredit (s : State) (c n : Nat) : State :=
  if n == 0 then s
  else s.modCtx c fun C =>
    let g := C.grant + n
    { C with grant := g, ctl := if g - C.grantSent ≥ 64 && !C.ctl.any (fun (x : Nat × List Byte) => x.1 == 9) then C.ctl ++ [(9, [])] else C.ctl }
/-- This device's role as LIVE codes it (R353). -/
def State.roleBit (s : State) : Nat := if s.roleB then 2 else 1
/-- The partner computes too: PAIRED in MIRROR (R353). -/
def State.partnerComputes (s : State) : Bool := s.twin == 2 && s.twinMode == 1
/-- A Faolo header in network order (R297), and the packet that RELAY carries: header and payload. -/
def faoloHdr (flags op paylen ctx cls src dst psn status apsn ecn climit ts echo : Nat) : List Byte :=
  natBe 1 (16 + flags) ++ natBe 1 op ++ natBe 2 paylen ++ natBe 4 (ctx % 2 ^ 20 * 4096 + cls % 64 * 64) ++ natBe 2 src ++ natBe 2 dst ++
    natBe 4 (psn % 2 ^ 24 * 256 + status) ++ natBe 4 (apsn % 2 ^ 24 * 256 + ecn) ++ natBe 2 climit ++ natBe 2 0 ++ natBe 4 ts ++ natBe 4 echo
def relayPkt (src dst op : Nat) (pay : List Byte) (first last : Bool := true) : List Byte :=
  faoloHdr (2 * first.toNat + last.toNat) op pay.length 0 0 src dst 0 0 0 0 0 0 0 ++ pay
/-- Pairs this device knows: node ids in TWIN.PEER (R352). -/
def State.isPair (s : State) (n : Nat) : Bool := n != 0 && (List.range 256).any fun e => s.fld .twPeer 0 16 e == n
/-- LIVE of pair P: as latched for a job at its STEP_START; for a packet of no job, as TWIN.PEER has it (R353). -/
def State.liveOf (s : State) (j : Option Nat) (P : Nat) : Nat :=
  match j with
  | some j => kget (s.job j).live P 3
  | none => (((List.range 256).find? fun e => s.fld .twPeer 0 16 e == P).map fun e => s.fld .twPeer 16 2 e).getD 3
/-- This device's role computes in pair P (R353). -/
def State.onPlane (s : State) (j : Option Nat) (P : Nat) : Bool := s.liveOf j P &&& s.roleBit != 0
/-- Pair packets on context c leave on this device's own context (R353). -/
def State.ownFlow (s : State) (j : Option Nat) (c : Nat) : Bool :=
  s.twinMode == 0 || !s.isPair (s.ctxPeer c) || (s.twin != 4 && s.onPlane j (s.ctxPeer c))
/-- A packet leaves for context c, of job j if of one: to another pair on this device's plane, over RELAY, or not at all (R351, R353). -/
def State.postVia (s : State) (j : Option Nat) (c : Nat) (p : TxPkt) : State :=
  let P := s.ctxPeer c
  if s.twinMode == 0 || !s.isPair P then s.post c p
  else if s.twin == 4 then s
  else if s.onPlane j P then s.post c p
  else if s.partnerComputes then s
  else (s.tell [TwMsg.relay c (relayPkt s.pairNode P p.op p.pay p.first p.last)]).count .twRelayed 1
/-- Whether packets of job j for a node leave on a context of this device. -/
def State.sendsTo (s : State) (j node : Nat) : Bool :=
  (s.ctxFor node).any fun c => s.ownFlow (some j) c
/-- Hand a packet of job j to the context of a node, if there is one. -/
def State.postNode (s : State) (j node op : Nat) (pay : List Byte) : State :=
  match s.ctxFor node with
  | none => s
  | some c => s.postVia (some j) c { op := op, pay := pay }

/-- The low byte of a signed number. -/
def s8 (i : Int) : List Byte := [BitVec.ofInt 8 i]
/-- A COLLECTIVE operation header (R318). -/
def collHdr (kind job opid step elem count : Nat) (w : Int) (flags : Nat) : List Byte :=
  natLe 1 kind ++ natLe 1 job ++ natLe 2 opid ++ natLe 4 step ++ natLe 4 elem ++ natLe 2 count ++ s8 w ++ natLe 1 flags
/-- A SPARSE_EXCHANGE operation header (R320). -/
def sparseHdr (kind job table step seq count : Nat) (e : Int) (flags : Nat) : List Byte :=
  natLe 1 kind ++ natLe 1 job ++ natLe 2 table ++ natLe 4 step ++ natLe 4 seq ++ natLe 2 count ++ s8 e ++ natLe 1 flags

/-- Cut a list into runs of n. -/
def chunksOf {α : Type} (n : Nat) : Nat → List α → List (List α)
  | 0, _ => []
  | f + 1, l => if l.isEmpty then [] else l.take n :: chunksOf n f (l.drop n)
def chunks {α : Type} (n : Nat) (l : List α) : List (List α) := chunksOf (max n 1) l.length l

/-! ### Groups -/

def State.jobGroup (s : State) (j : Nat) : Nat := s.fld .jCfg 14 6 j
def State.groupSize (s : State) (g : Nat) : Nat := s.fld .groupCfg 0 9 g
def State.groupRank (s : State) (g : Nat) : Nat := s.fld .groupCfg 9 8 g
def State.members (s : State) (g : Nat) : List Nat := (List.range (s.groupSize g)).map fun k => s.fld .member 0 16 g k
/-- This device's node id in exchange groups: the pair's in twin operation (R210, R264). -/
def State.selfNode (s : State) : Nat := if s.pairNode == 0 then s.node else s.pairNode
/-- A group is defined and contains this device at its rank (R240, R264). -/
def State.groupOk (s : State) (g : Nat) : Bool :=
  s.groupSize g != 0 && s.groupSize g ≤ 256 && s.groupRank g < s.groupSize g && s.fld .member 0 16 g (s.groupRank g) == s.selfNode
/-- Rank of a node in a group. -/
def State.rankOf (s : State) (g node : Nat) : Option Nat := (s.members g).findIdx? (· == node)
/-- Post a payload to every other member of a group. -/
def State.postGroup (s : State) (j g op : Nat) (pay : List Byte) : State :=
  ((s.members g).filter (· != s.selfNode)).foldl (fun s n => s.postNode j n op pay) s

/-- Tiles of a rectangle coded as JOB(j).RECT. -/
def rectOf (v : Nat) : List Nat := rectTiles (bits v 0 6) (bits v 6 6) (bits v 12 6) (bits v 18 6)
def rectHas (v c : Nat) : Bool := bits v 0 6 ≤ c % 64 && c % 64 ≤ bits v 12 6 && bits v 6 6 ≤ c / 64 && c / 64 ≤ bits v 18 6
/-- The open job whose rectangle holds a tile (R231). -/
def State.jobOfTile (s : State) (c : Nat) : Option Nat := (List.range 16).find? fun j => s.phase j != 0 && rectHas (s.reg .jRect j) c

/-- Raise evidence of OF and NV for a job's step (R250). -/
def State.evid (s : State) (j : Nat) (f : Flags) : State :=
  s.modJob j fun J => { J with evOf := J.evOf || f.ovf, evNv := J.evNv || f.inv }
/-- WINDOW_ROGUE_SOURCE (R62). -/
def State.rogue (s : State) (unit src r tensor : Nat) : State :=
  s.event unit 0x0204 (natLe 2 src ++ natLe 1 r ++ natLe 1 0 ++ natLe 4 tensor)
/-- The flags of a handshake: OF when W is clamped, or when W − EXP ≥ 127 (R60, R243). -/
def State.shake (s : State) (j : Nat) (w : Int × Bool) : Flags :=
  { ovf := w.2 || w.1 - sext (s.job j).exp 8 ≥ 127 }


/-! ### Records a unit writes and lists it reads -/

/-- The ingress SRAM window of diagnostic mode (R429). -/
def State.inIngress (s : State) (p off n : Nat) : Bool := s.diag && p == 0 && 0x10000000 ≤ off && off + n ≤ 0x14000000
/-- Twin operation is configured and licensed (R348). -/
def State.twinOn (s : State) : Bool := (s.twinMode == 1 || s.twinMode == 2) && s.pairNode != 0 && s.tier == 3
/-- A twin-window access can leave: twin operation is on and a half is up (R34). -/
def State.twinReach (s : State) : Bool := s.twinOn && s.halvesUp != 0 && !s.diag
/-- The parts of R36, cut also between the memories and the registers of a tile (R13, R33). -/
def State.runs (s : State) (a n : Nat) : List (Nat × Nat) :=
  (s.parts a n).flatMap fun (b, k) =>
    match s.place b with
    | .tile _ off =>
      if off < 0x130000 && off + k > 0x130000 then [(b, 0x130000 - off), (b + (0x130000 - off), off + k - 0x130000)] else [(b, k)]
    | _ => [(b, k)]

/-- One 32-bit read of a register outside the tiles (R11, R12, R35). -/
def State.regRead32 (s : State) (m : Master) (a : Nat) : State × Nat :=
  let val (b : Nat) : Nat := match regAt b with
    | some (k, i, j) => s.shown k i j
    | none => 0
  let (v, cl, L, ok) := read32 regWide val s.latches m a
  let s := { s with latches := L }
  let s := match cl.bind regAt with
    | some (k, i, j) => s.clearRc k i j
    | none => s
  (if ok then s else s.unmapped (RegKind.src a) a m, v)
/-- A read of register space outside the tiles (R11-R14). -/
def State.regRead (s : State) (m : Master) (a n : Nat) : State × List Byte :=
  if n == 4 && a % 4 == 0 then
    let (s, v) := s.regRead32 m a
    (s, natLe 4 v)
  else if n == 8 && a % 8 == 0 then
    match regAt a, regWide a with
    | some (k, i, j), some true => (s.clearRc k i j, natLe 8 (s.shown k i j))
    | _, _ =>
      let (s, v) := s.regRead32 m a
      let (s, w) := s.regRead32 m (a + 4)
      (s, natLe 4 v ++ natLe 4 w)
  else (s, List.replicate n 0)

/-- The device address of a tile's register offset. -/
def tileRegAddr (c o : Nat) : Nat := 0x200000000000 + c * 0x400000 + 0x130000 + o
/-- One 32-bit read of a tile's register. -/
def State.tileReg32 (s : State) (m : Master) (c o : Nat) : State × Nat :=
  let (T, v, ok) := tileRead32 (tileIdOf c) (s.tile c) m o
  let s := s.setTile c T
  (if ok then s else s.unmapped c (tileRegAddr c o) m, v)
/-- A read of a tile's registers. -/
def State.tileRegRead (s : State) (m : Master) (c o n : Nat) : State × List Byte :=
  if n == 4 && o % 4 == 0 then
    let (s, v) := s.tileReg32 m c o
    (s, natLe 4 v)
  else if n == 8 && o % 8 == 0 then
    if tileRegAt o == some true then
      (s.setTile c (tileClear (s.tile c) o), natLe 8 (tilePeek (tileIdOf c) (s.tile c) o))
    else
      let (s, v) := s.tileReg32 m c o
      let (s, w) := s.tileReg32 m c (o + 4)
      (s, natLe 4 v ++ natLe 4 w)
  else (s, List.replicate n 0)
/-- One 32-bit write of a tile's register. -/
def State.tileSet32 (s : State) (m : Master) (c o v : Nat) : State :=
  let (T, ok, cfg) := tileWrite32 (s.tile c) m o v
  let s := s.setTile c T
  let s := if ok then s else s.unmapped c (tileRegAddr c o) m
  if cfg && s.ready then s.cfgIgnored c (tileRegAddr c o) m else s
/-- A write of a tile's registers. -/
def State.tileRegWrite (s : State) (m : Master) (c o : Nat) (data : List Byte) : State :=
  if data.length == 4 && o % 4 == 0 then s.tileSet32 m c o (leNat data)
  else if data.length == 8 && o % 8 == 0 then
    if tileRegAt o == some true then
      s.modTile c fun T => { tileWrite T o (leNat data) maskAll with latches := write64 T.latches m o }
    else (s.tileSet32 m c o (fldLe data 0 4)).tileSet32 m c (o + 4) (fldLe data 4 4)
  else s

/-- Whether a write of n bytes at a is one that register space takes (R13). -/
def regSized (a n : Nat) : Bool := (n == 4 && a % 4 == 0) || (n == 8 && a % 8 == 0)
/-- A write by a master as one access (R32-R41). What it writes into registers outside the tiles is gathered in `unitOut`, from
where `State.settle` carries it out before the command ends. -/
def State.memWrite (s : State) (m : Master) (a : Nat) (data : List Byte) : State :=
  (s.runs a data.length).foldl (fun s (b, n) =>
    let d := slice data ((b + 2 ^ 48 - a) % 2 ^ 48) n
    let reg (s : State) : State := if regSized b n then { s with unitOut := s.unitOut ++ [(m, b, d)] } else s
    match s.place b with
    | .hbm _ _ => s.hbmWrite m d b (pieces b n)
    | .tile c off =>
      if off + n ≤ 0x130000 then s.modTile c fun T => { T with mem := mputs T.mem off d }
      else if off < 0x140000 then s.tileRegWrite m c (off - 0x130000) d
      else s.unmapped c b m
    | .entry => s.unmapped (Master.entry m) b m
    | .trip st => s.unmapped (srcDie st) b m
    | .port p off => if s.inIngress p off n then { s with ingress := mputs s.ingress (off - 0x10000000) d } else reg s
    | .die _ _ => reg s
    | .mgmt _ => reg s
    | .twin =>
      if s.twinReach then s.tell [TwMsg.write (b - 0x400000000000) d] else s.unmapped (Master.entry m) b m) s
/-- A read by a master as one access; the twin's answer to a read of its window is free. -/
def State.memRead (s : State) (m : Master) (a n : Nat) : State × List Byte :=
  (s.runs a n).foldl (fun (acc : State × List Byte) (x : Nat × Nat) =>
    let (s, l) := acc
    let zero := List.replicate x.2 (0 : Byte)
    let put (r : State × List Byte) : State × List Byte := (r.1, l ++ r.2)
    match s.place x.1 with
    | .hbm _ _ => let (s, d, _) := s.hbmRead m (pieces x.1 x.2); (s, l ++ d)
    | .tile c off =>
      if off + x.2 ≤ 0x130000 then (s, l ++ mgets (s.tile c).mem off x.2)
      else if off < 0x140000 then put (s.tileRegRead m c (off - 0x130000) x.2)
      else (s.unmapped c x.1 m, l ++ zero)
    | .entry => (s.unmapped (Master.entry m) x.1 m, l ++ zero)
    | .trip st => (s.unmapped (srcDie st) x.1 m, l ++ zero)
    | .port p off => if s.inIngress p off x.2 then (s, l ++ mgets s.ingress (off - 0x10000000) x.2) else put (s.regRead m x.1 x.2)
    | .die _ _ => put (s.regRead m x.1 x.2)
    | .mgmt _ => put (s.regRead m x.1 x.2)
    | .twin =>
      if s.twinReach then
        put ((s.tell [TwMsg.read (x.1 - 0x400000000000) x.2]).freeBytes x.1 x.2)
      else (s.unmapped (Master.entry m) x.1 m, l ++ zero)) (s, [])

end Sys2Proof.Machine
end

