-- ==== Sys2Proof/Machine/Rake.lean ====
section
/-! DEFINITION. The Rake: staging of PUSH records, the two levels of merging, the update sweep with its optimisers, and
the retention copies (R203-R221, R71, R253). -/

namespace Sys2Proof.Machine

/-! ### Staging -/

/-- The staging die of a record (R204). -/
def State.stageDie (s : State) (home table index : Nat) : Nat :=
  if home == 0 then
    let T := s.tab table
    if s.tabOpen T then s.natural T (if index ≥ T.rows then T.rows else index) else table % 16
  else (((index ^^^ (table <<< 16) ^^^ home) * 0x8D2F6A55 % 2 ^ 64) >>> 32) % 16

/-- Step a lies before step b, modulo 2^32. -/
def stepBefore (a b : Nat) : Bool := let d := (b + 2 ^ 32 - a) % 2 ^ 32; 1 ≤ d && d < 2 ^ 31
/-- Bytes of a staging entry: FP32 sums and 16 B, the 272 B of R221 at DIM 64 (log entry 23). -/
def StageEnt.size (e : StageEnt) : Nat := 4 * e.sums.length + 16
/-- Bytes staged at a base die. -/
def State.staged (s : State) (d : Nat) : Nat := ((s.stage.filter fun e => e.die == d).map StageEnt.size).sum
/-- The elements of a record: the first DIM, short ones padded with +0 (log entry 24). -/
def PushRec.vals (r : PushRec) (dim : Nat) : List Nat :=
  if r.bf16 then (elems 2 dim (slice r.bytes 0 (2 * dim))).map fun v => v * 65536 else elems 4 dim (slice r.bytes 0 (4 * dim))
/-- Element-wise FP32 sum with flags (R205). -/
def addLists (a b : List Nat) : List Nat × Flags :=
  let r := (List.zip a b).map fun (x, y) => Fmt.fp32.add (Fmt.fp32.decode x) (Fmt.fp32.decode y)
  (r.map (·.1), (r.map (·.2)).foldl Flags.or fNone)

/-- Count a discarded record (R229). -/
def State.pushDrop (s : State) (d : Nat) : State := s.count .emCnt 1 d 10

/-- Where the next evicted entry of n bytes goes in a base die's staging area, if one fits behind those there. DESIGN CHOICE: R205 does
not say which entries are evicted, nor where to: it is each new one that the merge buffer has no room for (log entry 128). -/
def State.stageAt (s : State) (d n : Nat) : Option Nat :=
  let base := s.reg .emStage d
  let top := ((s.stage.filter fun e => e.die == d).filterMap fun e => e.at'.map fun a => cdiv (a + e.size) 64 * 64).foldl max base
  if top + n ≤ base + s.fld .emSizes 0 8 d * 2 ^ 30 then some top else none
/-- The sums of an entry, read back from the staging area if it was evicted: NaN where uncorrectable (R205, R274). -/
def State.stageRead (s : State) (e : StageEnt) : State × List Nat :=
  match e.at' with
  | none => (s, e.sums)
  | some a =>
    let (s, l) := s.readMarked (.baseDie (Fin.ofNat 16 e.die)) (pieces a (4 * e.sums.length))
    (s, markedElems Fmt.fp32.nan 4 e.sums.length l)
/-- An entry's sums go back to where it is. -/
def State.stageWrite (s : State) (e : StageEnt) : State :=
  match e.at' with
  | none => s
  | some a => s.hbmWrite (.baseDie (Fin.ofNat 16 e.die)) (e.sums.flatMap (natLe 4)) a (pieces a (4 * e.sums.length))
/-- Add the values to the record's entry, or make it; full areas discard (R205, R208). -/
def State.stageAdd (s : State) (r : PushRec) (row : Nat) (vals : List Nat) : State :=
  let same (e : StageEnt) : Bool :=
    e.die == r.die && e.job == r.job && e.src == r.tile && e.home == r.home && e.table == r.table && e.row == row && e.step == r.step
  if (s.job r.job).fullDies.contains (r.die, r.step) then
    (s.pushDrop r.die).modJob r.job fun J => { J with poisonTabs := (r.step, r.home, r.table) :: J.poisonTabs }
  else
    match s.stage.find? same with
    | some e =>
      let (s, sums) := s.stageRead e
      let (v, f) := addLists sums vals
      let s := s.stageWrite { e with sums := v }
      ({ s with stage := replaceFirst same (fun e => { e with sums := v }) s.stage }.embFlags r.die f).count .emCnt 1 r.die 4
    | none =>
      let e : StageEnt := { die := r.die, job := r.job, src := r.tile, home := r.home, table := r.table, row := row, step := r.step, sums := vals }
      let used := s.staged r.die + e.size
      if used > Config.mergeBuffer + s.fld .emSizes 0 8 r.die * 2 ^ 30 then
        let s := (s.pushDrop r.die).setFld .emStatus 4 1 1 r.die
        let s := s.modJob r.job fun J =>
          { J with fullDies := (r.die, r.step) :: J.fullDies, poisonTabs := (r.step, r.home, r.table) :: J.poisonTabs }
        s.event (srcDie r.die) 0x0402 (natLe 2 r.job ++ natLe 4 r.step)
      else
        let e := if used > Config.mergeBuffer then { e with at' := s.stageAt r.die e.size } else e
        let s := if used > Config.mergeBuffer then (s.stageWrite e).count .emCnt e.size r.die 6 else s
        { s with stage := s.stage ++ [e] }.count .emCnt 1 r.die 4

/-- The row that an index names at the table's home, this device: every invalid one is the default row (R192). -/
def State.l2Index (s : State) (t i : Nat) : Nat :=
  let T := s.tab t
  if s.tabOpen T then min i T.rows else i
/-- A level-2 contribution joins its row. A second one of the same source to a row's accumulator is discarded with NV (R62, R210). DESIGN
CHOICE: R62 names no unit, so the event's SOURCE is base die (table mod 16) (log entry 113). Rows that R205 only counts have none. -/
def State.l2Add (s : State) (j r : Nat) (x : L2Row) : State :=
  let T := s.tab x.table
  let x := { x with row := s.l2Index x.table x.row }
  let counted := s.tabOpen T && x.row == T.rows && !T.defGrad
  if !counted && (s.job j).rows.any fun q => q.src == x.src && q.table == x.table && q.row == x.row then
    (s.rogue (srcDie (x.table % 16)) x.src r (0x030000 + x.table)).evid j fNV
  else s.modJob j fun J => { J with rows := J.rows ++ [x] }

/-- A record at its staging die (R191, R203-R208, R253). -/
def State.pushAt (s : State) (r : PushRec) : State :=
  let T := s.tab r.table
  let J := s.job r.job
  let cur := s.step r.job
  if stepBefore r.step cur || (r.step == cur && J.cast) then (s.pushDrop r.die).setFld .jStatus 6 1 1 r.job
  else if r.home == 0 && !s.tabOpen T then (s.pushDrop r.die).reportClosed r.die r.table
  else
    -- a table homed elsewhere has the dimension this device's own directory gives it (log entry 25)
    let dim := if T.dim == 0 then r.bytes.length / (if r.bf16 then 2 else 4) else T.dim
    let row := if r.home == 0 && r.index ≥ T.rows then T.rows else r.index
    if r.home == 0 && row == T.rows && !T.defGrad then
      s.modEmb r.die fun e => { e with defGrads := kmod e.defGrads r.table 0 (· + 1) }
    else
      if r.step == cur && J.closedStep == some cur then
        let s := (s.pushDrop r.die).evid r.job fNV
        s.modJob r.job fun J => { J with rows := J.rows.map fun x =>
          if x.src == s.selfNode && (r.home == 0 || r.home == s.selfNode) && x.table == r.table && x.row == (if r.home == 0 then row else s.l2Index r.table row)
          then { x with vals := x.vals.map fun _ => Fmt.bf16.nan } else x }
      else s.stageAdd r row (r.vals dim)

/-- The row a record names at its home: every invalid index of a table homed here names the default row (R192). -/
def State.pushRow (s : State) (r : PushRec) : Nat := if r.home == 0 then min r.index (s.tab r.table).rows else r.index
/-! ### Level 1 (R210-R212) -/

/-- The flags of a list. -/
def orAll (l : List Flags) : Flags := l.foldl Flags.or fNone
/-- Evidence carries OF and NV only. -/
def Flags.ev (f : Flags) : Flags := { ovf := f.ovf, inv := f.inv }

/-- Window sums of one row: contributions as (source, FP32 or BF16 values), source kind r, tensor and first index. -/
def rowSums (fmt : Fmt) (key : BitVec 64) (step tensor idx : Nat) (w : Int) (n dim : Nat) (r : Bool)
    (contribs : List (Nat × List Nat)) : List Win :=
  (List.range dim).map fun e =>
    contribs.foldl (fun (a : Win) (c : Nat × List Nat) =>
      a.add w n (fmt.decode (c.2.getD e 0)) (srField key tensor step (idx + e) (srW r c.1))) {}

/-- Keys of a list without repeats, in order of first appearance. -/
def distinct {α : Type} [DecidableEq α] (l : List α) : List α := l.foldl (fun o x => if o.contains x then o else o ++ [x]) []

/-- Level 1 of one table at one home, over its entries: the rows' BF16 results. -/
def State.level1Table (s : State) (j rect home t : Nat) (ents : List StageEnt) : State × List L2Row :=
  let key := BitVec.ofNat 64 (s.reg .jKey j)
  let step := s.step j
  let n1 := (rectOf rect).length
  let (good, bad) := ents.partition fun e => rectHas rect e.src
  let s := bad.foldl (fun (s : State) (e : StageEnt) => (s.rogue (srcDie e.die) e.src 0 (0x010000 + t)).evid j fNV) s
  if good == [] then (s, [])
  else
    let dim := (good.map fun e => e.sums.length).foldl max 0
    let reps := (distinct (good.map (·.src))).map fun c =>
      expReport ((good.filter (·.src == c)).flatMap fun e => e.sums.map Fmt.fp32.decode)
    let W := windowExp ((reps.map (·.1)).foldl max (-128)) n1
    let s := s.evid j ((s.shake j W).or { inv := reps.any (·.2) })
    let poisoned := (s.job j).poisonTabs.any fun x => x.1 == step && x.2.1 == home && x.2.2 == t
    let rows := distinct (good.map fun e => (e.die, e.row))
    rows.foldl (fun (acc : State × List L2Row) (x : Nat × Nat) =>
      let (s, out) := acc
      let es := good.filter fun e => e.die == x.1 && e.row == x.2
      let wins := rowSums .fp32 key step (0x010000 + t) (x.2 * dim) W.1 n1 dim false (es.map fun e => (e.src, e.sums))
      let wins := if poisoned || es.any (·.poison) then wins.map fun w => { w with poison := true, flags := w.flags.or fNV } else wins
      let rd := wins.zipIdx.map fun (w, e) =>
        let (v, f) := w.read32 W.1 0
        let (b, g) := bf16Sr (srField key (0x020000 + t) step (x.2 * dim + e) 0) v
        (b, f.or g)
      let f := orAll (wins.map (·.flags))
      let s := ((s.evid j f.ev).embFlags x.1 (f.or (orAll (rd.map (·.2))))).count .emCnt es.length x.1 5
      (s, out ++ [{ src := s.selfNode, table := t, row := x.2, vals := rd.map (·.1) }])) (s, [])

/-- The report of a source's rows of one table (R213). -/
def l2Report (src t : Nat) (rows : List L2Row) : L2Report :=
  let (e, nv) := expReport ((rows.filter (·.table == t)).flatMap fun r => r.vals.map Fmt.bf16.decode)
  { src := src, table := t, e := e, flags := if nv then 8 else 0 }

/-- Accumulators of a merge, as (base die, elements): what does not fit into a die's merge buffer is evicted to its staging area (R214,
log entry 23). -/
def State.mergeSpill (s : State) (rows : List (Nat × Nat)) : State :=
  (List.range 16).foldl (fun (s : State) d =>
    let n := ((rows.filter fun x => x.1 == d).map fun x => 8 * x.2 + 16).sum
    if n ≤ Config.mergeBuffer then s else (s.setFld .emStatus 6 1 1 d).count .emCnt (n - Config.mergeBuffer) d 6) s
/-- Send level-1 results to another home: L1_REPORT entries, L1_RESULT rows, L1_END (R321). A table of this source without a row for
that home is reported with E_i = −128. -/
def State.l1Send (s : State) (j home : Nat) (tabs : List Nat) (rows : List L2Row) : State :=
  let step := s.step j
  let reps := tabs.map fun t => l2Report s.selfNode t rows
  let s := (chunks 2044 reps).foldl (fun s l =>
    s.postNode j home 0x11 (sparseHdr 5 j 0 step 0 l.length 0 0 ++
      l.flatMap fun (r : L2Report) => natLe 2 r.table ++ s8 r.e ++ natLe 1 r.flags)) s
  let s := (distinct (rows.map (·.table))).foldl (fun s t =>
    let rs := rows.filter (·.table == t)
    let w := 8 + 2 * (rs.head?.map fun r => r.vals.length).getD 16
    (chunks (8176 / w) rs).foldl (fun s l =>
      s.postNode j home 0x11 (sparseHdr 6 j t step 0 l.length 0 0 ++
        l.flatMap fun (r : L2Row) => natLe 8 r.row ++ r.vals.flatMap (natLe 2))) s) s
  s.postNode j home 0x11 (sparseHdr 7 j 0 step 0 0 0 0 ++ natLe 8 rows.length)

/-- Every base die that holds entries of job j's step runs: a stopped one merges nothing, and level 1 does not end (R282). -/
def State.stageServes (s : State) (j : Nat) : Bool := (s.stage.filter fun e => e.job == j && e.step == s.step j).all fun e => s.dieServes e.die
/-- Level 1 of a whole sweep: staging closes, results go to the homes (R212, R221 steps 1 and 2). -/
def State.level1 (s : State) (j rect : Nat) : State :=
  let step := s.step j
  let mine := s.stage.filter fun e => e.job == j && e.step == step
  let s := { s with stage := s.stage.filter fun e => !(e.job == j && e.step == step) }
  let (s, mine) := mine.foldl (fun (acc : State × List StageEnt) e =>
    let (s, v) := acc.1.stageRead e
    (s, acc.2 ++ [{ e with sums := v }])) (s, [])
  -- entries of a table that has closed since are discarded (R191)
  let (mine, shut) := mine.partition fun e => e.home != 0 || s.tabOpen (s.tab e.table)
  let s := shut.foldl (fun s e => s.pushDrop e.die) s
  -- records of the step were discarded for want of room (R208)
  let s := if (s.job j).poisonTabs.any fun x => x.1 == step then s.evid j fNV else s
  let here (h : Nat) : Bool := h == 0 || h == s.selfNode
  let (s, res) := (distinct (mine.map fun e => (e.home, e.table))).foldl
    (fun (acc : State × List (Nat × L2Row)) (x : Nat × Nat) =>
      let (s, rs) := acc.1.level1Table j rect x.1 x.2 (mine.filter fun e => e.home == x.1 && e.table == x.2)
      (s, acc.2 ++ rs.map fun r => (x.1, r))) (s, [])
  -- a table of the job without a row of this source is reported too, with E of −128 (R213, log entry 61)
  let tabs := distinct (res.map (·.2.table) ++ s.tablesOf j)
  let s := s.mergeSpill (res.filterMap fun x => (mine.find? fun e => e.table == x.2.table && e.row == x.2.row && e.home == x.1).map fun e => (e.die, x.2.vals.length))
  let own := (res.filter fun x => here x.1).map (·.2)
  let reps := (distinct (own.map (·.table))).map fun t => l2Report s.selfNode t own
  let others := distinct (((s.members (s.jobGroup j)).filter (· != s.selfNode)) ++ ((res.map (·.1)).filter fun h => !here h))
  let s := others.foldl (fun s h => s.l1Send j h tabs ((res.filter fun x => x.1 == h).map (·.2))) s
  let s := own.foldl (fun s r => s.l2Add j 1 r) s
  let at' := mine.filterMap fun e => e.at'.map fun a => (e.table, e.row, a, e.size)
  s.modJob j fun J => { J with stagedAt := J.stagedAt ++ at', reports := J.reports ++ reps, level1 := true, rect := rect, closedStep := some step }

/-! ### Level 2 (R213, R321) -/

/-- Sources whose reports are complete: this device, and those whose first L1_RESULT or L1_END has come. -/
def State.l2Reported (s : State) (j n : Nat) : Bool :=
  let J := s.job j
  n == s.selfNode || J.ends.any (·.1 == n) || J.rows.any (·.src == n)
/-- Every report that a vote waits for is here (R251). -/
def State.l2Ready (s : State) (j : Nat) : Bool := (s.members (s.jobGroup j)).all fun n => s.l2Reported j n
/-- Every contribution is here: each source's L1_END with all its rows (R321). -/
def State.l2Done (s : State) (j : Nat) : Bool :=
  let J := s.job j
  (s.members (s.jobGroup j)).all fun n =>
    n == s.selfNode || J.ends.any fun x => x.1 == n && kget J.rowsIn n 0 ≥ x.2
/-- Contributors of level 2. -/
def State.n2 (s : State) (j : Nat) : Nat := max 1 (s.groupSize (s.jobGroup j))
/-- W2 of a table (R213): a source without a report counts as −128. -/
def State.w2 (s : State) (j t : Nat) : Int × Bool :=
  windowExp ((((s.job j).reports.filter (·.table == t)).map (·.e)).foldl max (-128)) (s.n2 j)
/-- The contributions to table t at its home: those to rows, and those aimed at the default row under DEFGRAD 0, which R205 only counts.
DESIGN CHOICE: R205 speaks of records at the staging die, and a record for another home is merged at level 1 first, so it is the row of its
level-1 result that counts, once (log entry 123). -/
def State.l2Rows (s : State) (j t : Nat) : List L2Row × List L2Row :=
  let T := s.tab t
  let rows := ((s.job j).rows.filter (·.table == t)).map fun r => { r with row := min r.row T.rows }
  if T.defGrad then (rows, []) else rows.partition fun r => r.row != T.rows
/-- The level-2 accumulators of one row of table t, from its contributions (R213). -/
def State.l2Sums (s : State) (j t i : Nat) (cs : List L2Row) : List Win :=
  let T := s.tab t
  rowSums .bf16 (BitVec.ofNat 64 (s.reg .jKey j)) (s.step j) (0x030000 + t) (i * T.dim) (s.w2 j t).1 (s.n2 j) T.dim true
    (cs.map fun r => (r.src, r.vals))
/-- The evidence of level 2: its handshakes, its reports, and its accumulators as they stand (R72, R250). -/
def State.l2Evid (s : State) (j : Nat) : Flags :=
  let J := s.job j
  let sums (t : Nat) : Flags :=
    if !s.tabOpen (s.tab t) || (s.tab t).job != j then fNone
    else
      let rows := (s.l2Rows j t).1
      orAll ((distinct (rows.map (·.row))).map fun i => (orAll ((s.l2Sums j t i (rows.filter (·.row == i))).map (·.flags))).ev)
  ((orAll ((distinct (J.reports.map (·.table))).map fun t => s.shake j (s.w2 j t))).or
    (orAll (J.reports.map fun r => Flags.ev (Flags.ofBits r.flags)))).or (orAll ((distinct (J.rows.map (·.table))).map sums))

/-! ### The optimisers (R216-R218) -/

/-- One FP32 operation under RNE, with its flags gathered. -/
def opm (r : Nat × Flags) : StateM Flags FVal := do
  modify fun f => f.or r.2
  pure (Fmt.fp32.decode r.1)
def oAdd (a b : FVal) : StateM Flags FVal := opm (Fmt.fp32.add a b)
def oMul (a b : FVal) : StateM Flags FVal := opm (Fmt.fp32.mul a b)
def oDiv (a b : FVal) : StateM Flags FVal := opm (Fmt.fp32.div a b)
def oSqrt (a : FVal) : StateM Flags FVal := opm (Fmt.fp32.sqrt a)
def oFma (a b c : FVal) : StateM Flags FVal := opm (Fmt.fp32.fma a b c)
def fOne : FVal := .fin false 1 0

/-- c1 or c2 of R218: the power by squaring over the bits of t. -/
def biasPow : Nat → Nat → FVal → FVal → StateM Flags FVal
  | 0, _, p, _ => pure p
  | f + 1, t, p, b =>
    if t == 0 then pure p
    else do
      let p ← if t % 2 == 1 then oMul p b else pure p
      let b ← oMul b b
      biasPow f (t / 2) p b
def biasCorr (t : Nat) (b : FVal) : StateM Flags FVal := do
  let p ← biasPow 32 t fOne b
  oAdd fOne p.neg

/-- The per-table constants c_b1, c_b2, c1, c2. -/
structure OptK where
  cb1 : FVal := fOne
  cb2 : FVal := fOne
  c1 : FVal := fOne
  c2 : FVal := fOne
def Tab.f (v : Nat) : FVal := Fmt.fp32.decode v
def Tab.consts (T : Tab) (step : Nat) : StateM Flags OptK := do
  if T.opt == 4 || T.opt == 5 then
    let t := (step + 2 ^ 32 - T.startStep + 1) % 2 ^ 32
    let cb1 ← oAdd fOne (Tab.f T.b1).neg
    let cb2 ← oAdd fOne (Tab.f T.b2).neg
    let c1 ← biasCorr t (Tab.f T.b1)
    let c2 ← biasCorr t (Tab.f T.b2)
    pure { cb1 := cb1, cb2 := cb2, c1 := c1, c2 := c2 }
  else pure {}

/-- A row as the optimiser sees it: w, the moment planes, the accumulator. -/
structure RowVals where
  w : List FVal
  m : List FVal := []
  v : List FVal := []
  gacc : FVal := FVal.zero

/-- Adam and AdamW on one element: m, v, w. In `b × m + c × q` the second product is rounded, then fused (log entry 26). -/
def adamElem (T : Tab) (k : OptK) (w m v q : FVal) : StateM Flags (FVal × FVal × FVal) := do
  let m ← oFma (Tab.f T.b1) m (← oMul k.cb1 q)
  let v ← oFma (Tab.f T.b2) v (← oMul k.cb2 (← oMul q q))
  let u ← oDiv (← oDiv m k.c1) (← oAdd (← oSqrt (← oDiv v k.c2)) (Tab.f T.eps))
  let u ← if T.opt == 5 then oFma (Tab.f T.wd) w u else pure u
  pure (m, v, ← oFma (Tab.f T.lr).neg u w)

/-- The update of one row with gradient g (R217). -/
def optimise (T : Tab) (k : OptK) (r : RowVals) (g : List FVal) : StateM Flags RowVals := do
  let wd := Tab.f T.wd
  let nlr := (Tab.f T.lr).neg
  let q ← if T.opt == 5 then pure g else (List.zip r.w g).mapM fun (w, g) => oFma wd w g
  match T.opt with
  | 1 =>
    let w ← (List.zip q r.w).mapM fun (q, w) => oFma nlr q w
    pure { r with w := w }
  | 2 =>
    let m ← (List.zip r.m q).mapM fun (m, q) => oFma (Tab.f T.b1) m q
    let w ← (List.zip m r.w).mapM fun (m, w) => oFma nlr m w
    pure { r with w := w, m := m }
  | 3 =>
    let s ← q.foldlM (fun s x => oFma x x s) FVal.zero
    let gacc ← oAdd r.gacc (← oDiv s (.fin false T.dim 0))
    let d ← oAdd (← oSqrt gacc) (Tab.f T.eps)
    let w ← (List.zip q r.w).mapM fun (q, w) => do oFma nlr (← oDiv q d) w
    pure { r with w := w, gacc := gacc }
  | 4 | 5 =>
    let out ← (List.zip (List.zip r.w q) (List.zip r.m r.v)).mapM fun ((w, q), (m, v)) => adamElem T k w m v q
    pure { r with w := out.map (·.2.2), m := out.map (·.1), v := out.map (·.2.1) }
  | _ => pure r

/-! ### Row slots (R71, R193) -/

/-- Element values of an HB8 plane; an uncorrectable byte makes what it scales or holds NaN (R274). -/
def hb8Plane (uns : Bool) (dim : Nat) (scales els : List (Byte × Bool)) : List FVal :=
  (List.range dim).map fun e =>
    let s := scales.getD (e / 32) (0, false)
    let x := els.getD e (0, false)
    if s.2 || x.2 then .nan else hb8Value uns s.1.toNat x.1.toNat
/-- Encode a plane: scale bytes and element bytes (R48, R219). -/
def hb8Encode (uns : Bool) (key : BitVec 64) (tensor step idx : Nat) (vs : List FVal) : List Byte × List Byte × Flags :=
  let bl := (chunks 32 vs).zipIdx.map fun (l, b) => hb8Block uns (fun i => .sr (srField key tensor step (idx + 32 * b + i) 0)) l
  (bl.map fun x => BitVec.ofNat 8 x.1, bl.flatMap fun x => x.2.1.map (BitVec.ofNat 8), orAll (bl.map (·.2.2)))

/-- What a slot holds. -/
def Tab.rowVals (T : Tab) (l : List (Byte × Bool)) : RowVals :=
  let part (o n : Nat) : List (Byte × Bool) := (l.drop o).take n
  let row := markedElems T.fmt.nan 2 T.dim (part 0 (2 * T.dim))
  let w := if T.ext then
      let x := part (2 * T.dim) (2 * T.dim)
      row.zipIdx.map fun (h, e) =>
        let lo := (x.drop (2 * e)).take 2
        if lo.any (·.2) then .nan else Fmt.fp32.decode (h * 65536 + leNat (lo.map (·.1)))
    else row.map T.fmt.decode
  let p := T.planeP
  let S := T.scales
  match T.opt with
  | 2 => { w := w, m := hb8Plane false T.dim (part p S) (part (p + S) T.dim) }
  | 3 => { w := w, gacc := Fmt.fp32.decode ((markedElems Fmt.fp32.nan 4 1 (part p 4)).headD 0) }
  | 4 | 5 => { w := w, m := hb8Plane false T.dim (part p S) (part (p + 2 * S) T.dim),
               v := hb8Plane true T.dim (part (p + S) S) (part (p + 2 * S + T.dim) T.dim) }
  | _ => { w := w }

/-- The bytes of a slot for new values (R71, R193, R219). -/
def Tab.slotBytes (T : Tab) (key : BitVec 64) (step i : Nat) (r : RowVals) : List Byte × Flags :=
  let idx := i * T.dim
  let raw := r.w.map fun v => (Fmt.fp32.encode .rne false v).1
  let (rows, f) := if T.ext then
      (raw.flatMap (fun v => natLe 2 (v >>> 16)) ++ raw.flatMap (fun v => natLe 2 v), fNone)
    else
      let l := r.w.zipIdx.map fun (v, e) => T.fmt.encode (.sr (srField key (0x040000 + T.t) step (idx + e) 0)) false v
      (l.flatMap fun x => natLe 2 x.1, orAll (l.map (·.2)))
  let enc (uns : Bool) (tensor : Nat) (vs : List FVal) := hb8Encode uns key (tensor + T.t) step idx vs
  match T.opt with
  | 2 =>
    let (s, e, g) := enc false 0x050000 r.m
    (rows ++ s ++ e, f.or g)
  | 3 => (rows ++ natLe 4 (Fmt.fp32.encode .rne false r.gacc).1, f)
  | 4 | 5 =>
    let (s1, e1, g1) := enc false 0x050000 r.m
    let (s2, e2, g2) := enc true 0x060000 r.v
    (rows ++ s1 ++ s2 ++ e1 ++ e2, (f.or g1).or g2)
  | _ => (rows, f)

/-! ### The update sweep (R215, R220, R221) -/

/-- Bytes of base die d's retention area in use. -/
def State.retained (s : State) (d : Nat) : Nat := (s.jobs.map fun (x : Nat × Job) => kget x.2.retNow d 0 + kget x.2.retOld d 0).sum
/-- Where a retention copy of n bytes goes in base die d's area: the first place free of those kept. DESIGN CHOICE: R220 lays nothing out
there (log entry 128). -/
def State.retainAt (s : State) (d n : Nat) : Option Nat :=
  let base := s.reg .emRetain d
  let size := s.fld .emSizes 8 8 d * 2 ^ 30
  let used := s.jobs.flatMap fun (x : Nat × Job) => ((x.2.wrote ++ x.2.wroteOld).filter fun y => y.die == d).filterMap fun y =>
    y.slot.map fun l => (y.at', cdiv (l.length + 4 * y.g.length) 64 * 64)
  (base :: used.map fun x => x.1 + x.2).find? fun a => base ≤ a && a + n ≤ base + size && !used.any fun x => overlaps a n x.1 x.2
/-- The retention copy of a row that is about to be written (R220): its slot, and its merged gradient. -/
def State.retain (s : State) (j : Nat) (T : Tab) (x : Touched) (slot : List (Byte × Bool)) : State :=
  let n := T.stride + 4 * T.dim
  if s.retained x.die + n > s.fld .emSizes 8 8 x.die * 2 ^ 30 then
    ((s.setFld .emStatus 5 1 1 x.die).modJob j fun J => { J with wrote := J.wrote ++ [x] }).event (srcDie x.die) 0x0403
      (natLe 2 j ++ natLe 4 (s.step j))
  else
    let a := (s.retainAt x.die n).getD (s.reg .emRetain x.die)
    let bytes := slot.map (·.1) ++ x.g.flatMap (natLe 4)
    let s := s.hbmWrite (.baseDie (Fin.ofNat 16 x.die)) bytes a (pieces a bytes.length)
    s.modJob j fun J => { J with retNow := kmod J.retNow x.die 0 (· + n), wrote := J.wrote ++ [{ x with slot := some slot, at' := a }] }

/-- The bytes of a slot updated with gradient g (R217-R219). -/
def Tab.updated (T : Tab) (k : OptK) (key : BitVec 64) (step row : Nat) (l : List (Byte × Bool)) (g : List Nat) : List Byte × Flags :=
  let (r, f) := (optimise T k (T.rowVals l) (g.map Fmt.fp32.decode)).run fNone
  let (bytes, h) := T.slotBytes key step row r
  (bytes, f.or h)
/-- Update one touched row (R216-R220). -/
def State.updateRow (s : State) (j : Nat) (T : Tab) (k : OptK) (row : Nat) (g : List Nat) : State :=
  let (d, a) := s.current T row
  let who : Master := .baseDie (Fin.ofNat 16 d)
  if T.opt == 0 || !s.dieServes d then s
  else
    let (s, l) := s.readMarked who (pieces a T.slotSize)
    let s := s.retain j T { die := d, table := T.t, row := row, addr := a, g := g } l
    let (bytes, f) := T.updated k (BitVec.ofNat 64 (s.reg .jKey j)) (s.step j) row l g
    let s := (s.embFlags d f).hbmWrite who bytes a (pieces a T.slotSize)
    s.count .emCnt 1 d 7

/-- Level 2 and the update of one table: its rows in the order of their first contribution. DESIGN CHOICE: R218 names no die for the flags
of c_b1, c_b2, c1 and c2, which belong to no row: FLAGS of the default row's natural home takes them (log entry 123). -/
def State.updateTable (s : State) (j t : Nat) (skip : Bool) : State :=
  let T := s.tab t
  if !s.tabOpen T || T.job != j then s
  else
    let W := (s.w2 j t).1
    let (rows, dflt) := s.l2Rows j t
    let s := dflt.foldl (fun (s : State) (_ : L2Row) => s.modEmb (s.natural T T.rows) fun e => { e with defGrads := kmod e.defGrads t 0 (· + 1) }) s
    let (k, kf) := (T.consts (s.step j)).run fNone
    let s := if skip || rows == [] || !s.dieServes (s.natural T T.rows) then s else s.embFlags (s.natural T T.rows) kf
    (distinct (rows.map (·.row))).foldl (fun s i =>
      let cs := rows.filter (·.row == i)
      let wins := s.l2Sums j t i cs
      let g := wins.map fun w => w.read32 W (sext (s.job j).exp 8)
      let d := (s.current T i).1
      if !s.dieServes d then s
      else
      let s := (s.embFlags d ((orAll (wins.map (·.flags))).or (orAll (g.map (·.2))))).count .emCnt cs.length d 5
      if skip then s else s.updateRow j T k i (g.map (·.1))) s

/-- Step 5 of R221 for job j, once its fate is decided and every contribution is here. -/
def State.sweepRows (s : State) (j : Nat) (skip : Bool) : State :=
  let rows := distinct ((s.job j).rows.map fun (r : L2Row) => (r.table, min r.row (s.tab r.table).rows))
  let s := s.mergeSpill (rows.map fun x => ((s.current (s.tab x.1) x.2).1, (s.tab x.1).dim))
  let s := (distinct ((s.job j).rows.map (·.table))).foldl (fun s t => s.updateTable j t skip) s
  s.migCopy j

end Sys2Proof.Machine
end

