-- ==== Sys2Proof/Machine/Scalar.lean ====
section
/-! DEFINITION. The tile instructions: scalar, address, memory, branch, task, token, mailbox, stream and engine issue
(R92-R108, R129, R153, R163). Each is a function of the tile after `issueFrame`, the slot and the word. -/

namespace Sys2Proof.Machine

/-- The functions of ALU and ALUI (R93). -/
def aluFn (fn : Nat) (a b : BitVec 32) : BitVec 32 :=
  let sh := b.toNat % 32
  match fn with
  | 0 => a + b
  | 1 => a - b
  | 2 => a &&& b
  | 3 => a ||| b
  | 4 => a ^^^ b
  | 5 => a <<< sh
  | 6 => a >>> sh
  | 7 => a.sshiftRight sh
  | 8 => a * b
  | 9 => BitVec.ofNat 32 ((a.toNat * b.toNat) >>> 32)
  | 10 => if a.slt b then 1 else 0
  | 11 => if a.ult b then 1 else 0
  | 12 => if a.slt b then a else b
  | 13 => if a.slt b then b else a
  | 14 => if a.ult b then a else b
  | _ => if a.ult b then b else a

/-- The conditions of BR (R97). -/
def brTaken (cond : Nat) (a b : BitVec 32) : Bool :=
  match cond with
  | 0 => a == b
  | 1 => a != b
  | 2 => a.slt b
  | 3 => !a.slt b
  | 4 => a.ult b
  | 5 => !a.ult b
  | _ => true

/-- Write a loaded value: a pair for 8 B, sign extension of 1 and 2 B when SIGNED (R95). -/
def loadInto (K : Slot) (rd size : Nat) (signed : Bool) (bs : List Byte) : Slot :=
  let v := leNat bs
  match size with
  | 3 => (K.setS rd (BitVec.ofNat 32 v)).setS (rd + 1) (BitVec.ofNat 32 (v >>> 32))
  | 2 => K.setS rd (BitVec.ofNat 32 v)
  | _ => if signed then K.setS rd (BitVec.ofInt 32 (sext v (8 * 2 ^ size))) else K.setS rd (BitVec.ofNat 32 v)

/-- The bytes a store takes from s[rs], or the pair (R95). -/
def storeBytes (K : Slot) (rs size : Nat) : List Byte :=
  let v := (K.sreg rs).toNat + (if size == 3 then (K.sreg (rs + 1)).toNat * 2 ^ 32 else 0)
  natLe (2 ^ size) v

abbrev TStep := Tile × List TileOut
/-- A change of the issuing slot only. -/
def slotStep (T : Tile) (k : Nat) (w : IWord) (f : Slot → Slot) : TStep := (signal (T.modSlot k f) w, [])

/-- NOP (R92). -/
def nopOp (T : Tile) (_k : Nat) (w : IWord) : TStep := (signal T w, [])
/-- ALU (R93). -/
def aluOp (T : Tile) (k : Nat) (w : IWord) : TStep :=
  slotStep T k w fun K => K.setS (w.f 41 5) (aluFn (w.f 27 4) (K.sreg (w.f 36 5)) (K.sreg (w.f 31 5)))
/-- ALUI (R93). -/
def aluiOp (T : Tile) (k : Nat) (w : IWord) : TStep :=
  slotStep T k w fun K => K.setS (w.f 41 5) (aluFn (w.f 32 4) (K.sreg (w.f 36 5)) (BitVec.ofNat 32 (w.f 0 32)))
/-- ADDR (R94). -/
def addrOp (T : Tile) (k : Nat) (w : IWord) : TStep :=
  slotStep T k w fun K =>
    let ad := w.f 43 3
    let as := K.areg (w.f 40 3)
    let rs := w.f 32 5
    match w.f 37 3 with
    | 0 => K.setA ad (BitVec.ofInt 48 ((as.toNat : Int) + sext (w.f 0 32) 32))
    | 1 => K.setA ad (as + BitVec.ofNat 48 ((K.sreg rs).toNat <<< w.f 0 4))
    | 2 => K.setA ad (BitVec.ofNat 48 (w.f 0 16 * 2 ^ 32 + (K.sreg rs).toNat))
    | _ => K.setS rs (BitVec.ofNat 32 (as.toNat >>> w.f 0 6))
/-- LD (R95). DESIGN CHOICE: its register is written at issue, so a later write of that register by an instruction that does not read it
stands, in program order; R86 interlocks readers only (log entry 116). -/
def ldOp (T : Tile) (k : Nat) (w : IWord) : TStep :=
  let size := w.f 36 2
  let bs := T.ocGet (memAddr (T.slot k) w) (2 ^ size)
  slotStep T k w fun K => loadInto K (w.f 41 5) size (w.f 35 1 == 1) bs
/-- ST (R95). -/
def stOp (T : Tile) (k : Nat) (w : IWord) : TStep :=
  let K := T.slot k
  (signal (T.ocPut (memAddr K w) (storeBytes K (w.f 41 5) (w.f 36 2))) w, [])

/-- The unit and offset of a device address in the own window of tile c (R33). -/
def ownOff (c a : Nat) : Option (Nat × Nat) :=
  if 0x200000000000 + c * 0x400000 ≤ a && a < 0x200000000000 + (c + 1) * 0x400000 then some (c, a % 0x400000) else none
/-- An operation leaves the tile with a fresh tag (R87, R493). -/
def sendOff (T : Tile) (o : TileOp) : Tile :=
  { T with ops := T.ops ++ [{ o with tag := T.nextTag, no := T.nextTag, task := (T.slot o.slot).task }], nextTag := T.nextTag + 1 }
/-- GLD (R95): the load leaves; its destination keeps its old value until the data arrive (R86). -/
def gldOp (c : Nat) (T : Tile) (k : Nat) (w : IWord) : TStep :=
  let a := memAddr (T.slot k) w
  (sendOff T { tag := 0, slot := k, kind := .gld (w.f 41 5) (w.f 36 2) (w.f 35 1 == 1), addr := a, own := ownOff c a, sig := w.sig }, [])
/-- GST (R95). -/
def gstOp (c : Nat) (T : Tile) (k : Nat) (w : IWord) : TStep :=
  let K := T.slot k
  let a := memAddr K w
  (sendOff T { tag := 0, slot := k, kind := .gst (storeBytes K (w.f 41 5) (w.f 36 2)), addr := a, own := ownOff c a, sig := w.sig }, [])
/-- FENCE (R96): ready only when what SCOPE names has completed, so it completes at once. -/
def fenceOp (T : Tile) (_k : Nat) (w : IWord) : TStep := (signal T w, [])

/-- The PC of the instruction that has just issued: `issueFrame` has moved the slot past it. -/
def herePc (K : Slot) : BitVec 13 := K.pc - 1
/-- BR (R97). -/
def brOp (T : Tile) (k : Nat) (w : IWord) : TStep :=
  slotStep T k w fun K =>
    if brTaken (w.f 43 3) (K.sreg (w.f 38 5)) (K.sreg (w.f 33 5)) then
      { K with pc := herePc K + BitVec.ofNat 13 (w.f 0 13) }
    else K
/-- JMP J (R98). -/
def jOp (T : Tile) (k : Nat) (w : IWord) : TStep := slotStep T k w fun K => { K with pc := BitVec.ofNat 13 (w.f 0 13) }
/-- JMP JAL (R98): s[RX] takes PC + 1. -/
def jalOp (T : Tile) (k : Nat) (w : IWord) : TStep :=
  slotStep T k w fun K => { K.setS (w.f 39 5) (K.pc.setWidth 32) with pc := BitVec.ofNat 13 (w.f 0 13) }
/-- JMP JR (R98). -/
def jrOp (T : Tile) (k : Nat) (w : IWord) : TStep :=
  slotStep T k w fun K => { K with pc := (K.sreg (w.f 39 5)).setWidth 13 }

/-- TREG (R99): an access of task k to the tile's own registers. -/
def tregOp (t : TileId) (T : Tile) (k : Nat) (w : IWord) : TStep :=
  let m : Master := .task t (Fin.ofNat 8 k)
  let o := w.f 0 16
  let rx := w.f 40 5
  if w.f 45 1 == 0 then
    let (T, v, ok) := tileRead32 t T m o
    (signal (T.modSlot k fun K => K.setS rx (BitVec.ofNat 32 v)) w, if ok then [] else [.unmapped k o])
  else
    let (T', ok, cfg) := tileWrite32 T m o ((T.slot k).sreg rx).toNat
    (signal T' w, (if ok then [] else [.unmapped k o]) ++ (if cfg then [.cfgIgnored k o] else []))

/-- HALT (R100): signals nothing (R85). -/
def haltOp (T : Tile) (k : Nat) (w : IWord) : TStep :=
  (T.modSlot k fun K => { K with st := .halted, code := BitVec.ofNat 16 (w.f 0 16) }, [])

/-- A slot that SPAWN or START may start (R82). -/
def SlotSt.free : SlotSt → Bool
  | .live => false
  | _ => true
/-- Slot n begins a task (R82). -/
def Tile.begin (T : Tile) (n : Nat) (N : Slot) : Tile := { T.setSlot n { N with task := T.nextTask } with nextTask := T.nextTask + 1 }
/-- TASK SPAWN (R101). -/
def spawnOp (T : Tile) (k : Nat) (w : IWord) : TStep :=
  let n := w.f 40 3
  let rd := w.f 35 5
  let K := T.slot k
  if n != k && (T.slot n).st.free then
    let N : Slot := { st := .live, pc := BitVec.ofNat 13 (w.f 0 13), a := K.a, code := (T.slot n).code }
    let N := (N.setS 1 (K.sreg (w.f 30 5))).setS 2 (BitVec.ofNat 32 n)
    (signal ((T.begin n N).modSlot k fun K => K.setS rd 0) w, [])
  else (signal (T.modSlot k fun K => K.setS rd 1) w, [])
/-- The mailbox word of a SEND. -/
def TileOp.dest (o : TileOp) : Nat := match o.kind with
  | .send v _ => bfld v 0 16
  | _ => 0
/-- SENDs that R105 held back leave once no earlier message to their mailbox is left, as packet n. -/
def sendsGo (n : Nat) (ops : List TileOp) : List TileOp :=
  ops.map fun o =>
    if o.isSend && o.held && o.ans.isNone && (ops.find? fun x => x.isSend && x.dest == o.dest) == some o then { o with held := false, no := n } else o
/-- A slot becomes KILLED (R81, R180): its task's loads in flight and unsent messages are cancelled, its streams too. -/
def killSlot (T : Tile) (n : Nat) : TStep :=
  if (T.slot n).st == .idle then (T, [])
  else
    let T := T.modSlot n fun K => { K with st := .killed }
    let ops := (T.ops.filter fun o => !(T.owns n o && o.isSend && o.held)).map fun o =>
      if T.owns n o && !o.isGst then { o with cancelled := true } else o
    cancelOwner { T with ops := sendsGo T.nextTag ops, nextTag := T.nextTag + 1 } n
/-- TASK KILL (R101). -/
def killOp (T : Tile) (_k : Nat) (w : IWord) : TStep :=
  let (T, o) := killSlot T (w.f 40 3)
  (signal T w, o)
/-- TASK YIELD (R88, R101): `issueFrame` has recorded it. -/
def yieldOp (T : Tile) (_k : Nat) (w : IWord) : TStep := (signal T w, [])

/-- TOK functions (R102), applied in step 3 of R83. -/
def tsetOp (T : Tile) (_k : Nat) (w : IWord) : TStep := (signal (T.setToken (w.f 37 6) (BitVec.ofNat 16 (w.f 0 16))) w, [])
def tsetrOp (T : Tile) (k : Nat) (w : IWord) : TStep :=
  (signal (T.setToken (w.f 37 6) (((T.slot k).sreg (w.f 32 5)).setWidth 16)) w, [])
def taddOp (T : Tile) (_k : Nat) (w : IWord) : TStep := (signal (T.incToken (w.f 37 6) (w.f 0 16)) w, [])
def ttakeOp (T : Tile) (_k : Nat) (w : IWord) : TStep :=
  (signal (T.setToken (w.f 37 6) (T.token (w.f 37 6) - BitVec.ofNat 16 (w.f 0 16))) w, [])
/-- TREAD reads the count at the start of the issue cycle: before the wait token was consumed. -/
def treadOp (T : Tile) (k : Nat) (w : IWord) : TStep :=
  let c := T.token (w.f 37 6) + (if w.f 37 6 == w.wait then 1 else 0)
  slotStep T k w fun K => K.setS (w.f 32 5) (c.setWidth 32)
def progressOp (T : Tile) (_k : Nat) (w : IWord) : TStep := (signal { T with progress := T.progress + 1 } w, [])

/-- An earlier message of this tile to the same mailbox is unaccepted (R105). -/
def sendBlocked (ops : List TileOp) (word : BitVec 32) : Bool :=
  ops.any fun o => match o.kind with
    | .send v _ => bfld v 0 16 == bfld word 0 16
    | _ => false
/-- SEND (R104-R106). -/
def sendOp (T : Tile) (k : Nat) (w : IWord) : TStep :=
  let K := T.slot k
  let word := K.sreg (w.f 38 5)
  let bs := T.ocGet (memAddr K w) (w.f 29 9 + 1)
  if bfld word 6 6 ≥ 36 then (signal T w, [.undeliverable word])
  else (sendOff T { tag := 0, slot := k, kind := .send word bs, sig := w.sig, held := sendBlocked T.ops word }, [])
/-- RECV (R107). -/
def recvOp (T : Tile) (k : Nat) (w : IWord) : TStep :=
  let m := w.f 34 4
  match kget T.mboxes m [] with
  | [] => slotStep T k w fun K => K.setS (w.f 38 5) 0
  | msg :: rest =>
    let T := (T.ocPut (memAddr (T.slot k) w) msg.bytes)
    let T := { T with mboxes := kput T.mboxes m rest }
    slotStep T k w fun K => K.setS (w.f 38 5) (BitVec.ofNat 32 (msg.bytes.length * 65536 + msg.src))
/-- MBOX CFG (R108). -/
def mboxCfgOp (T : Tile) (_k : Nat) (w : IWord) : TStep :=
  (signal { T with mboxTok := kputD T.mboxTok (w.f 28 4) (BitVec.ofNat 6 (w.f 37 6)) 0 } w, [])
/-- MBOX STAT (R108). -/
def mboxStatOp (T : Tile) (k : Nat) (w : IWord) : TStep :=
  let n := (kget T.mboxes (w.f 28 4) []).length
  slotStep T k w fun K => K.setS (w.f 32 5) (BitVec.ofNat 32 n)

/-- A matrix instruction issues: its operands are latched and it enters the queue (R124, R129). -/
def matIssue (T : Tile) (k : Nat) (w : IWord) : TStep := ({ T with mq := T.mq ++ [engLatch T k w], engSeq := T.engSeq + 1 }, [])
/-- A vector, Sieve or convert instruction issues (R124, R129). -/
def vecIssue (T : Tile) (k : Nat) (w : IWord) : TStep := ({ T with vq := T.vq ++ [engLatch T k w], engSeq := T.engSeq + 1 }, [])

/-- SARM (R163, R164, R174). -/
def sarmIssue (T : Tile) (k : Nat) (w : IWord) : TStep :=
  let d := T.ocGet (memAddr (T.slot k) w) 64
  let (T, st) := sarmOp T (w.f 41 5) k d
  slotStep T k w fun K => K.setS (w.f 33 5) (BitVec.ofNat 32 st)
/-- SREL (R167). -/
def srelIssue (T : Tile) (_k : Nat) (w : IWord) : TStep := (signal (srelOp T (w.f 41 5) (w.f 39 2)) w, [])
/-- SCAN (R165, R178): takes effect now, completes with SCAN_COMPLETE. -/
def scanIssue (T : Tile) (_k : Nat) (w : IWord) : TStep :=
  let (T, o) := cancelSlot T (w.f 41 5) (w.f 40 1 == 1)
  ({ T with scanBusy := some w.sig }, o)
/-- SSTAT (R163). -/
def sstatIssue (T : Tile) (k : Nat) (w : IWord) : TStep :=
  let v := slotState T (w.f 41 5)
  slotStep T k w fun K => K.setS (w.f 36 5) (BitVec.ofNat 32 v)

/-- An unallocated opcode never gets past `faultOf` (R91). -/
def unallocOp (T : Tile) (_k : Nat) (_w : IWord) : TStep := (T, [])

end Sys2Proof.Machine
end

