-- ==== Sys2Proof/Machine/Matrix.lean ====
section
/-! DEFINITION. The matrix engine: blocks, weight buffers, MWLD, MMA, MBWD and MORTH (R125, R126, R129-R141). -/

namespace Sys2Proof.Machine

/-- The 1,024 encodings of a 32 × 32 block, row-major (R126). -/
def Tile.block (T : Tile) (x : Opnd) (bytes : Nat) : List Nat := elems bytes 1024 (T.opndGet x 0 (1024 * bytes))
/-- Element (i, j) of a block as presented becomes (j, i) (R138). -/
def transpose (l : List Nat) : List Nat :=
  (List.range 1024).map fun e => l.getD ((e % 32) * 32 + e / 32) 0
/-- Read an operand block in an operand format: F19 converts each element by F19RND (R43, R134). Encodings and flags. -/
def readBlock (T : Tile) (x : Opnd) (fmt : Nat) (rnd tr : Bool) : List Nat × Flags :=
  let f := matFmt fmt
  let raw := T.block x f.bytes
  let raw := if tr then transpose raw else raw
  if f == .f19 then
    if rnd then
      let cs := raw.map f19Rne
      (cs.map (·.1), (cs.map (·.2)).foldl Flags.or fNone)
    else (raw.map fun v => (v >>> 13) <<< 13, fNone)
  else (raw, fNone)

/-- One matrix result element (R133, R49): the products, and the old accumulator when it takes part. -/
def dot (ps : List (FVal × FVal)) (old : Option FVal) : Nat × Flags :=
  let prods := ps.map fun p => fmulX p.1 p.2
  let terms := prods.map (·.1) ++ old.toList
  let posInf := terms.any (· == .inf false)
  let negInf := terms.any (· == .inf true)
  if prods.any (·.2.inv) || (posInf && negInf) then (Fmt.fp32.nan, fNV)
  else if terms.any FVal.isNan then (Fmt.fp32.nan, fNone)
  else if posInf then (Fmt.fp32.encode .rne false (.inf false)).1 |> fun b => (b, fNone)
  else if negInf then (Fmt.fp32.encode .rne false (.inf true)).1 |> fun b => (b, fNone)
  else
    let sum := match terms with
      | [] => FVal.zero
      | t :: r => r.foldl (fun a b => (faddX a b).1) t
    flush (Fmt.fp32.encode .rne false sum)
where
  /-- A subnormal result is flushed to zero, keeping the sign, and raises UF (R49). -/
  flush (r : Nat × Flags) : Nat × Flags :=
    if bits r.1 23 8 == 0 && bits r.1 0 23 != 0 then (r.1 - r.1 % 2 ^ 31, { r.2 with udf := true, inx := true }) else r

/-- FP32 arithmetic of the matrix engine: rounded once, then flushed (R49, R140). -/
def rne32 (r : FVal × Flags) : Nat × Flags :=
  let (b, f) := Fmt.fp32.of r
  dot.flush (b, f)

/-- Rows of a block as values. -/
def cellAt (l : List FVal) (i j : Nat) : FVal := l.getD (i * 32 + j) FVal.zero
/-- The block whose element (i, j) is Σ_k a(i,k) × b(k,j), plus old(i,j), for `rows` rows; the operand indexings are
given as functions. -/
def matProduct (rows : Nat) (a b : Nat → Nat → FVal) (old : Option (List FVal)) : List Nat × Flags :=
  let rs := (List.range (rows * 32)).map fun e =>
    let i := e / 32
    let j := e % 32
    dot ((List.range 32).map fun k => (a i k, b k j)) (old.map fun o => cellAt o i j)
  (rs.map (·.1), (rs.map (·.2)).foldl Flags.or fNone)

/-- OR flags into a set of the sticky flags: 0 matrix, 4 vector, 8 convert (R53). -/
def Tile.raise (T : Tile) (sh : Nat) (f : Flags) : Tile := { T with fpFlags := T.fpFlags ||| BitVec.ofNat 12 (f.bits <<< sh) }

def fp32s (l : List Nat) : List FVal := l.map Fmt.fp32.decode
def Tile.wb (T : Tile) (n : Nat) : WBuf := if n == 0 then T.wb0 else T.wb1
def Tile.setWb (T : Tile) (n : Nat) (b : WBuf) : Tile := if n == 0 then { T with wb0 := b } else { T with wb1 := b }
/-- A buffer's block as values; zeros in BF16 when it holds no loaded block (R135). -/
def WBuf.vals (b : WBuf) : List FVal := (List.range 1024).map fun e => b.fmt.decode (b.cells.getD e 0)

/-- The formats of stored encodings, exactly, as FP32 encodings: every operand format of R134 is exact in FP32. -/
def toFp32 (f : Fmt) (l : List Nat) : List Nat := l.map fun v => (Fmt.fp32.encode .rne false (f.decode v)).1

/-- Whether an array instruction uses weight buffer n. -/
def EngOp.usesWb (o : EngOp) (n : Nat) : Bool :=
  match o.word.row with
  | .mma => o.word.f 32 1 == n
  | .mbwd => true
  | _ => false
/-- The register ranges an array instruction writes, with their lengths: of an MMA, M rows of 128 B (R137). -/
def EngOp.matDests (o : EngOp) : List (Opnd × Nat) :=
  match o.word.row with
  | .mma => [(o.d, 128 * (o.word.f 22 5 + 1))]
  | .morth => [(o.d, 4096)]
  | .mbwd => [(o.d, 4096), (o.z, 4096)]
  | _ => []
/-- The operands a matrix instruction reads, with their lengths. -/
def EngOp.matSrcs (o : EngOp) : List (Opnd × Nat) :=
  match o.word.row with
  | .mwld => [(o.x, blockBytes (o.word.f 36 2))]
  | .mma => [(o.x, blockBytes (o.word.f 30 2))]
  | .mbwd => [(o.x, blockBytes (o.word.f 17 2)), (o.y, blockBytes (o.word.f 17 2))]
  | .morth => [(o.x, 4096)]
  | _ => []
/-- A read of `o` would overtake a write of `e` (R130). -/
def matHazard (o e : EngOp) : Bool := o.matSrcs.any fun s => e.matDests.any fun d => opndOverlap s.1 s.2 d.1 d.2

def isMwld (o : EngOp) : Bool := o.word.row == .mwld
/-- The dY load of a running MBWD can be over: no earlier load of the load path is left (R139). -/
def Tile.dyFree (T : Tile) (o : EngOp) : Bool := o.word.row != .mbwd || !(T.mq ++ T.mrunLoad).any fun e => isMwld e && e.seq < o.seq
/-- The other buffer takes the dY block of an MBWD, once; its row feeding ends after that. -/
def Tile.dyLoad (T : Tile) (o : EngOp) : Tile :=
  match o.word.row, o.got[3]? with
  | .mbwd, some dy => T.setWb (1 - o.word.f 19 1) { fmt := matFmt (o.word.f 17 2), cells := dy }
  | _, _ => T
/-- The running array instructions before number n have fed their last row: they hold neither the array nor a buffer (log entry 18). -/
def Tile.fed (T : Tile) (n : Nat) : Tile :=
  { (T.mrun.filter fun e => e.seq < n).foldl Tile.dyLoad T with
    mrun := T.mrun.map fun e => if e.seq < n && e.word.row == .mbwd then { e with got := e.got.take 3 } else e }
/-- Whether the oldest queued instruction of a path may start (R130, R136, R137, R139, R140). When the running array instructions have
fed their last row is the sender's to say: MATRIX_START comes after it (log entry 18). -/
def matCanStart (T : Tile) (load : Bool) (o : EngOp) : Bool :=
  let before := T.mq.filter fun e => e.seq < o.seq
  if load then
    let wb := o.word.f 38 1
    T.mrunLoad.isEmpty &&
    !before.any (fun e => e.usesWb wb) &&
    !(before ++ T.mrun.filter fun e => e.seq < o.seq).any (matHazard o)
  else
    let loads := (before ++ T.mrunLoad).filter fun e => isMwld e && e.seq < o.seq
    let wbPending (n : Nat) : Bool := loads.any fun e => e.word.f 38 1 == n
    T.mrun.all T.dyFree &&
    (match o.word.row with
     | .mma => !wbPending (o.word.f 32 1)
     | .mbwd => !wbPending (o.word.f 19 1)
     | _ => true) &&
    !T.mrun.any (matHazard o)

/-- Reading of the sources when an instruction starts: blocks as FP32 encodings (R134, R137, R139, R140). An MMA reads and converts
all 32 rows of X: F19 rows that its M leaves out raise their flags too (DESIGN CHOICE, log entry 109). -/
def matCapture (T : Tile) (o : EngOp) : EngOp × Flags :=
  let w := o.word
  match w.row with
  | .mwld =>
    let (c, f) := readBlock T o.x (w.f 36 2) (w.f 34 1 == 1) (w.f 35 1 == 1)
    ({ o with got := [c] }, f)
  | .mma =>
    let (c, f) := readBlock T o.x (w.f 30 2) (w.f 27 1 == 1) (w.f 29 1 == 1)
    let wb := T.wb (w.f 32 1)
    ({ o with got := [toFp32 (matFmt (w.f 30 2)) c, wb.vals.map fun v => (Fmt.fp32.encode .rne false v).1] }, f)
  | .mbwd =>
    let fmt := w.f 17 2
    let (dy, f) := readBlock T o.x fmt (w.f 14 1 == 1) false
    let (x, g) := readBlock T o.y fmt (w.f 14 1 == 1) false
    let wb := T.wb (w.f 19 1)
    ({ o with got := [toFp32 (matFmt fmt) dy, toFp32 (matFmt fmt) x, wb.vals.map (fun v => (Fmt.fp32.encode .rne false v).1), dy] },
     f.or g)
  | _ => ({ o with got := [T.block o.x 4] }, fNone)

/-- MATRIX_START (R129): the oldest queued instruction of the path starts, if it may. -/
def matStart (T : Tile) (load : Bool) : Tile :=
  match pick (fun e => isMwld e == load) T.mq with
  | none => T
  | some (o, rest) =>
    if !matCanStart T load o then T
    else
      let T := T.fed o.seq
      let (o, f) := matCapture T o
      let T := T.raise 0 f
      if load then { T with mq := rest, mrunLoad := T.mrunLoad ++ [o] } else { T with mq := rest, mrun := T.mrun ++ [o] }

/-- The old accumulator pair of a register operand, unless it is ignored. -/
def oldAcc (T : Tile) (d : Opnd) (zero : Bool) : Option (List FVal) := if zero then none else some (fp32s (T.block d 4))
/-- Write result rows to a register pair. -/
def putRows (T : Tile) (d : Opnd) (rows : List Nat) : Tile := T.opndPut d 0 (elemBytes 4 rows)

/-- MMA (R137): D[i][j] = round(old + Σ_k X[i][k] × W[k][j]) for rows 0 to M − 1. -/
def mmaDone (T : Tile) (o : EngOp) : Tile :=
  let w := o.word
  let x := fp32s (o.got.getD 0 [])
  let b := fp32s (o.got.getD 1 [])
  let (r, f) := matProduct (w.f 22 5 + 1) (cellAt x) (cellAt b) (oldAcc T o.d (w.f 28 1 == 1))
  (putRows T o.d r).raise 0 f

/-- MBWD (R139): dX += dY·Wᵀ, then dW += Xᵀ·dY; the other buffer holds dY by then. -/
def mbwdDone (T : Tile) (o : EngOp) : Tile :=
  let w := o.word
  let dy := fp32s (o.got.getD 0 [])
  let x := fp32s (o.got.getD 1 [])
  let b := fp32s (o.got.getD 2 [])
  let (r, f) := matProduct 32 (cellAt dy) (fun j k => cellAt b k j) (oldAcc T o.d (w.f 16 1 == 1))
  let T := (putRows T o.d r).raise 0 f
  let (r, f) := matProduct 32 (fun k i => cellAt x i k) (cellAt dy) (oldAcc T o.z (w.f 15 1 == 1))
  ((putRows T o.z r).raise 0 f).dyLoad o

/-- F19 conversion of FP32 encodings inside MORTH (R43, R140). -/
def f19Conv (rnd : Bool) (l : List Nat) : List FVal × Flags :=
  if rnd then
    let cs := l.map f19Rne
    (cs.map fun c => Fmt.f19.decode c.1, (cs.map (·.2)).foldl Flags.or fNone)
  else (l.map Fmt.f19.decode, fNone)

/-- A fused step of MORTH: an invalid product raises NV whatever is added to it (R51, R133). -/
def fmaMat (x y z : FVal) : FVal × Flags :=
  let p := fmulX x y
  if p.2.inv then p else fmaX x y z
/-- MORTH (R140). -/
def morthDone (T : Tile) (o : EngOp) : Tile :=
  let rnd := o.word.f 18 1 == 1
  let x := o.got.getD 0 []
  let c (i : Nat) : FVal := Fmt.fp32.decode (o.coef.getD i 0).toNat
  let (x19, f0) := f19Conv rnd x
  let (am, f1) := matProduct 32 (cellAt x19) (fun k j => cellAt x19 j k) none
  let scaled (i : Nat) : Nat × Flags := rne32 (fmulX (c 1) (Fmt.fp32.decode (am.getD i 0)))
  let (bm, f2) : List Nat × Flags :=
    if (c 2).isZero then
      let rs := (List.range 1024).map scaled
      (rs.map (·.1), (rs.map (·.2)).foldl Flags.or fNone)
    else
      let (a19, g0) := f19Conv rnd am
      let (p, g1) := matProduct 32 (cellAt a19) (cellAt a19) none
      let rs := (List.range 1024).map fun i =>
        let (s, h) := scaled i
        let (v, h') := rne32 (fmaMat (c 2) (Fmt.fp32.decode (p.getD i 0)) (Fmt.fp32.decode s))
        (v, h.or h')
      (rs.map (·.1), ((rs.map (·.2)).foldl Flags.or fNone).or (g0.or g1))
  let (b19, f3) := f19Conv rnd bm
  let (q, f4) := matProduct 32 (cellAt b19) (cellAt x19) none
  let rs := (List.range 1024).map fun i => rne32 (fmaMat (c 0) (Fmt.fp32.decode (x.getD i 0)) (Fmt.fp32.decode (q.getD i 0)))
  let fl := (rs.map (·.2)).foldl Flags.or fNone
  (putRows T o.d (rs.map (·.1))).raise 0 (f0.or (f1.or (f2.or (f3.or (f4.or fl)))))

/-- The writes of one array instruction. -/
def arrayDone (T : Tile) (o : EngOp) : Tile :=
  match o.word.row with
  | .mma => mmaDone T o
  | .mbwd => mbwdDone T o
  | _ => morthDone T o

/-- MATRIX_COMPLETE (R132): the oldest running instruction of the path writes its results and signals. The dY load of an
MBWD follows the earlier loads of the load path (R139). -/
def matComplete (T : Tile) (load : Bool) : Tile :=
  if load then
    match T.mrunLoad with
    | [] => T
    | o :: rest =>
      let T := { T with mrunLoad := rest }
      (T.setWb (o.word.f 38 1) { fmt := matFmt (o.word.f 36 2), cells := o.got.getD 0 [] }).incToken o.word.sig 1
  else
    match T.mrun with
    | [] => T
    | o :: rest =>
      if !T.dyFree o then T
      else (arrayDone { T with mrun := rest } o).incToken o.word.sig 1

end Sys2Proof.Machine
end

