-- ==== Sys2Proof/Machine/Vector.lean ====
section
/-! DEFINITION. The vector engine, the Sieve and the conversions (R129-R132, R142-R157). -/

namespace Sys2Proof.Machine

/-- The operands an engine instruction reads and writes, as (place, bytes), from its own needs (R123, R130). -/
def EngOp.place (o : EngOp) (i : Nat) : Opnd :=
  match i with
  | 0 => o.d | 1 => o.x | 2 => o.y | _ => o.z
def needLen (w : IWord) (i : Nat) : Nat := ((engNeeds w)[i]?.map (·.len)).getD 0
/-- Which operand numbers an instruction writes, and reads. -/
def EngOp.writesAt (o : EngOp) : List Nat :=
  match o.word.row with
  | .vupd | .vsieve => [0, 3]
  | .cvtq => [0, 1]
  | _ => [0]
def EngOp.readsAt (o : EngOp) : List Nat :=
  match o.word.row with
  | .vupd => [0, 1, 2]
  | .vsieve | .vexpand => [1, 2]
  | .cvtq => [2]
  | .vred | .vmov | .cvt => [1]
  | .vadd | .vmul | .vcmp | .vminmax | .cvtdq => [1, 2]
  | _ => [1, 2, 3]
/-- Some range of o (by numbers p) overlaps some range of e (by numbers q). -/
def rangesMeet (o : EngOp) (p : List Nat) (e : EngOp) (q : List Nat) : Bool :=
  p.any fun i => q.any fun j => opndOverlap (o.place i) (needLen o.word i) (e.place j) (needLen e.word j)

/-- A vector or convert instruction while it runs: the tile as its own later groups see it, its writes so far and its flags. -/
structure VecRun where
  T : Tile
  wr : List EngWr := []
  f : Flags := fNone
/-- It writes bytes at an offset of an operand, and raises flags. -/
def VecRun.put (r : VecRun) (x : Opnd) (off : Nat) (data : List Byte) (f : Flags := fNone) : VecRun :=
  { T := r.T.opndPut x off data, wr := r.wr ++ [{ at' := x, off := off, data := data }], f := r.f.or f }

/-- One element of an element-wise instruction (R143, R144, R146): a, b, c to the result's encoding and flags. -/
def vecElem (r : TRow) (fmt var : Nat) (a b c : Nat) : Nat × Flags :=
  let sf : Fmt := if fmt == 1 || fmt == 2 then .bf16 else .fp32
  let df : Fmt := if fmt == 1 then .bf16 else .fp32
  let ones : Nat := if fmt == 1 then 0xFFFF else 0xFFFFFFFF
  let x := sf.decode a
  let y := sf.decode b
  match r with
  | .vadd => if var == 0 then df.add x y else df.sub x y
  | .vmul => df.mul x y
  | .vfma =>
    let x := if var ≥ 2 then x.neg else x
    let z := df.decode c
    df.fma x y (if var % 2 == 1 then z.neg else z)
  | .vcmp =>
    let t := if fmt == 3 then
        (match var with
         | 0 => a == b | 1 => a < b | 2 => a ≤ b | _ => a != b)
      else
        (match var with
         | 0 => feqX x y
         | 1 => fltX x y && !feqX x y
         | 2 => fltX x y || feqX x y
         | _ => !feqX x y)
    (if t then ones else 0, fNone)
  | .vsel => (if c != 0 then a else b, fNone)
  | .vminmax => (( df.encode .rne false (fminmax (var == 1) x y)).1, fNone)
  | _ => (a, fNone)

/-- The element-wise instructions, in groups: each group's sources are read before its destination is written (R145). -/
def vecElementwise (r : VecRun) (o : EngOp) : VecRun :=
  let w := o.word
  let cnt := w.f 0 14 + 1
  let fmt := w.f 16 2
  let per := if fmt == 1 then 128 else 64
  let s := vecSrcBytes fmt
  let d := vecDstBytes fmt
  let cs := if w.row == .vsel then s else d
  (List.range (cdiv cnt per)).foldl (fun (r : VecRun) g =>
    let n := min per (cnt - g * per)
    let as := r.T.elemsAt o.x s (g * per) n
    let bs := r.T.elemsAt o.y s (g * per) n
    let zs := r.T.elemsAt o.z cs (g * per) n
    let rs := (List.range n).map fun i => vecElem w.row fmt (w.f 14 2) (as.getD i 0) (bs.getD i 0) (zs.getD i 0)
    r.put o.d (g * per * d) (elemBytes d (rs.map (·.1))) ((rs.map (·.2)).foldl Flags.or fNone)) r

/-- Combine two lane values of VRED; an empty lane passes the other (R147). -/
def redCombine (var : Nat) (x y : Option FVal) : Option FVal × Flags :=
  match x, y with
  | none, y => (y, fNone)
  | x, none => (x, fNone)
  | some x, some y =>
    if var == 2 then (some (fminmax true x y), fNone)
    else
      let (b, f) := Fmt.fp32.add x y
      (some (Fmt.fp32.decode b), f)
/-- One element joins a lane of VRED. -/
def redElem (var : Nat) (lane : Option FVal) (v : FVal) : Option FVal × Flags :=
  match var, lane with
  | 2, lane => redCombine 2 lane (some v.abs)
  | 1, none => let (b, f) := Fmt.fp32.mul v v; (some (Fmt.fp32.decode b), f)
  | 1, some a => let (b, f) := Fmt.fp32.fma v v a; (some (Fmt.fp32.decode b), f)
  | _, none => (some v, fNone)
  | _, some a => redCombine 0 (some a) (some v)
/-- The fixed combining tree of R147, from n lanes down to one. -/
def redTree (var : Nat) : Nat → List (Option FVal) → Flags → Option FVal × Flags
  | 0, ls, f => (ls.headD none, f)
  | k + 1, ls, f =>
    let h := 2 ^ k
    let rs := (List.range h).map fun i => redCombine var (ls.getD i none) (ls.getD (i + h) none)
    redTree var k (rs.map (·.1)) ((rs.map (·.2)).foldl Flags.or f)
/-- VRED (R147). -/
def vredOp (r : VecRun) (o : EngOp) : VecRun :=
  let w := o.word
  let cnt := w.f 0 14 + 1
  let fmt := w.f 16 2
  let var := w.f 14 2
  let sf : Fmt := if fmt == 1 then .bf16 else .fp32
  let xs := r.T.elemsAt o.x (vecSrcBytes fmt) 0 cnt
  let lanes := (List.range 64).map fun l =>
    (List.range (cdiv (cnt - l) 64)).foldl (fun (a, f) i =>
      let (v, g) := redElem var a (sf.decode (xs.getD (l + 64 * i) 0))
      (v, f.or g)) ((none : Option FVal), fNone)
  let (v, f) := redTree var 6 (lanes.map (·.1)) ((lanes.map (·.2)).foldl Flags.or fNone)
  r.put o.d 0 (natLe 4 (Fmt.fp32.encode .rne false (v.getD FVal.zero)).1) f

/-- VUPD (R148): the master and its working copy in the same group. DESIGN CHOICE: R145 speaks of the element-wise instructions only; a
VUPD, CVT or CVTDQ whose destination overlaps a source reads each group of 64 elements before it writes it too (log entry 124). -/
def vupdOp (r : VecRun) (o : EngOp) : VecRun :=
  let w := o.word
  let cnt := w.f 0 14 + 1
  let fmt := w.f 16 2
  let neg := w.f 14 2 == 1
  let s := if fmt == 0 then 4 else 2
  let sf : Fmt := if fmt == 0 then .fp32 else .bf16
  (List.range (cdiv cnt 64)).foldl (fun (r : VecRun) g =>
    let n := min 64 (cnt - g * 64)
    let as := r.T.elemsAt o.x s (g * 64) n
    let bs := r.T.elemsAt o.y s (g * 64) n
    let ds := r.T.elemsAt o.d 4 (g * 64) n
    let rs := (List.range n).map fun i =>
      let a := sf.decode (as.getD i 0)
      let (m, f1) := Fmt.fp32.fma (if neg then a.neg else a) (sf.decode (bs.getD i 0)) (Fmt.fp32.decode (ds.getD i 0))
      let (c, f2) := bf16Rne m
      (m, c, f1.or f2)
    (r.put o.d (g * 256) (elemBytes 4 (rs.map (·.1)))).put o.z (g * 128) (elemBytes 2 (rs.map (·.2.1)))
      ((rs.map (·.2.2)).foldl Flags.or fNone)) r

/-- VSIEVE (R149). -/
def vsieveOp (r : VecRun) (o : EngOp) : VecRun :=
  let w := o.word
  let cnt := w.f 0 14 + 1
  let z := sieveWidth (w.f 16 2)
  let src := r.T.elemsAt o.x z 0 cnt
  let pred := r.T.elemsAt o.y (sievePred (w.f 16 2)) 0 cnt
  let act := (List.range cnt).filter fun i => pred.getD i 0 != 0
  (r.put o.d 0 (elemBytes z (act.map fun i => src.getD i 0))).put o.z 0 (elemBytes 2 (act.length :: act))

/-- VEXPAND (R150). -/
def vexpandOp (r : VecRun) (o : EngOp) : VecRun :=
  let w := o.word
  let cnt := w.f 0 14 + 1
  let z := sieveWidth (w.f 16 2)
  let n := min ((r.T.elemsAt o.y 2 0 1).getD 0 0) cnt
  let src := r.T.elemsAt o.x z 0 n
  let idx := r.T.elemsAt o.y 2 1 n
  let r := if w.f 14 2 == 1 then r.put o.d 0 (List.replicate (cnt * z) 0) else r
  (List.range n).foldl (fun (r : VecRun) j =>
    let p := idx.getD j 0
    if p ≥ cnt then r else r.put o.d (p * z) (natLe z (src.getD j 0))) r

/-- The rounding mode of element i of a convert instruction (R54, R151, R153). -/
def cvtMode (o : EngOp) (rnd grad : Nat) (i : Nat) : Rnd :=
  if rnd == 2 || grad == 1 then
    .sr (srField o.key ((o.coef.getD 0 0).toNat % 2 ^ 24) o.step (((o.coef.getD 1 0).toNat + i) % 2 ^ 50) 0)
  else if rnd == 1 then .rtz else .rne

/-- One value converted (R152). Between equal formats it passes unchanged, NaNs made canonical and the low bits of F19 cleared. -/
def cvtElem (sf df : Fmt) (m : Rnd) (sat : Bool) (raw : Nat) : Nat × Flags :=
  if sf == df && !(sf.decode raw).isNan then (if sf == .f19 then (raw >>> 13) <<< 13 else raw, fNone)
  else df.encode m sat (sf.decode raw)
/-- CVT (R151, R152). A destination over a source: each group of 64 is read before it is written (DESIGN CHOICE, log entry 124). -/
def cvtOp (r : VecRun) (o : EngOp) : VecRun :=
  let w := o.word
  let cnt := w.f 0 14 + 1
  let sf := cvtFmt (w.f 29 3)
  let df := cvtFmt (w.f 26 3)
  (List.range (cdiv cnt 64)).foldl (fun (r : VecRun) g =>
    let n := min 64 (cnt - g * 64)
    let xs := r.T.elemsAt o.x sf.bytes (g * 64) n
    let rs := (List.range n).map fun i =>
      cvtElem sf df (cvtMode o (w.f 24 2) (w.f 22 1) (g * 64 + i)) (w.f 23 1 == 0) (xs.getD i 0)
    r.put o.d (g * 64 * df.bytes) (elemBytes df.bytes (rs.map (·.1))) ((rs.map (·.2)).foldl Flags.or fNone)) r

/-- CVTQ (R154, R47, R48): d the element plane, x the scale plane, y the source. -/
def cvtqOp (r : VecRun) (o : EngOp) : VecRun :=
  let w := o.word
  let cnt := w.f 0 14 + 1
  let sf : Fmt := if w.f 24 1 == 1 then .bf16 else .fp32
  (List.range (cdiv cnt 32)).foldl (fun (r : VecRun) b =>
    let n := min 32 (cnt - b * 32)
    let vs := (r.T.elemsAt o.y sf.bytes (b * 32) n).map sf.decode
    let (sc, es, g) := hb8Block (w.f 23 1 == 1) (fun i => cvtMode o (w.f 21 2) (w.f 20 1) (b * 32 + i)) vs
    (r.put o.d (b * 32) (elemBytes 1 es)).put o.x b (natLe 1 sc) g) r

/-- CVTDQ (R155): d the destination, x the scale plane, y the element plane; overlaps as for CVT (log entry 124). -/
def cvtdqOp (r : VecRun) (o : EngOp) : VecRun :=
  let w := o.word
  let cnt := w.f 0 14 + 1
  let df : Fmt := if w.f 24 1 == 1 then .bf16 else .fp32
  let uns := w.f 23 1 == 1
  (List.range (cdiv cnt 64)).foldl (fun (r : VecRun) g =>
    let n := min 64 (cnt - g * 64)
    let es := r.T.elemsAt o.y 1 (g * 64) n
    let sc := r.T.elemsAt o.x 1 (g * 2) (cdiv n 32)
    let rs := (List.range n).map fun i =>
      df.encode (if w.f 21 2 == 1 then .rtz else .rne) false (hb8Value uns (sc.getD (i / 32) 0) (es.getD i 0))
    r.put o.d (g * 64 * df.bytes) (elemBytes df.bytes (rs.map (·.1))) ((rs.map (·.2)).foldl Flags.or fNone)) r

/-- What one vector, Sieve or convert instruction does to tile T, group by group (R142-R157). -/
def vecRun (T : Tile) (o : EngOp) : VecRun :=
  let r : VecRun := { T := T }
  match o.word.row with
  | .vred => vredOp r o
  | .vupd => vupdOp r o
  | .vsieve => vsieveOp r o
  | .vexpand => vexpandOp r o
  | .cvt => cvtOp r o
  | .cvtq => cvtqOp r o
  | .cvtdq => cvtdqOp r o
  | _ => vecElementwise r o
/-- Where the flags of an instruction go: the C_ flags for CVT, CVTQ and CVTDQ, otherwise the V_ flags (R53). -/
def flagShift (r : TRow) : Nat := if r == .cvt || r == .cvtq || r == .cvtdq then 8 else 4

/-- VECTOR_START (R156): the head of the queue runs unless R130 makes it wait for a write. The engine handles one instruction at a time, so
all that it reads it reads now, before any write of a later one; VEXPAND takes n' now too (R150). -/
def vecStart (T : Tile) : Tile :=
  match T.vq with
  | [] => T
  | o :: rest =>
    if T.vrun.any fun e => rangesMeet o o.readsAt e e.writesAt then T
    else
      let r := vecRun T o
      { T with vq := rest, vrun := T.vrun ++ [{ o with wr := r.wr, fl := r.f.bits }] }

/-- The writes of an instruction are made, and its flags raised (R53, R132). -/
def vecDone (T : Tile) (o : EngOp) : Tile :=
  (o.wr.foldl (fun (T : Tile) w => T.opndPut w.at' w.off w.data) T).raise (flagShift o.word.row) (Flags.ofBits o.fl)

/-- VECTOR_COMPLETE (R132): the i-th running instruction writes and signals, unless an earlier one still running writes what it
writes (R130). -/
def vecComplete (T : Tile) (i : Nat) : Tile :=
  match T.vrun[i]? with
  | none => T
  | some o =>
    if (T.vrun.take i).any fun e => rangesMeet o o.writesAt e e.writesAt then T
    else (vecDone { T with vrun := T.vrun.eraseIdx i } o).incToken o.word.sig 1

end Sys2Proof.Machine
end

