-- ==== Sys2Proof/Machine/Bucket.lean ====
section
/-! DEFINITION. Reductions among the members of a group, and the collective engines' buckets: segments, reports, the
handshake, partials, results, and the release (R59-R68, R240-R249, R258). -/

namespace Sys2Proof.Machine

/-! ### Shards and sums common to buckets and COLLECTIVE commands -/

/-- The even split (R245). -/
def evenShards (nelem p : Nat) : List Nat :=
  let k := cdiv (cdiv nelem (max p 1)) 16 * 16
  (List.range p).map fun i => min k (nelem - i * k)
/-- First element of shard k. -/
def shardFirst (shards : List Nat) (k : Nat) : Nat := (shards.take k).sum
/-- Sum of squares of FP32 values in the lane order and tree of R147 (R258). -/
def sumSquares (vs : List Nat) : Nat :=
  let cnt := vs.length
  let lanes := (List.range 64).map fun l =>
    (List.range (cdiv (cnt - l) 64)).foldl (fun (a : Option FVal) i => (redElem 1 a (Fmt.fp32.decode (vs.getD (l + 64 * i) 0))).1) none
  (Fmt.fp32.encode .rne false ((redTree 1 6 lanes fNone).1.getD FVal.zero)).1
/-- FP32 sum in order (R258). -/
def sumInOrder : List Nat → Nat
  | [] => 0
  | v :: r => r.foldl (fun a x => (Fmt.fp32.add (Fmt.fp32.decode a) (Fmt.fp32.decode x)).1) v

/-- A partial as it travels: 8 B two's complement, or the POISON code (R319). -/
def Win.code (a : Win) : Option Int := if a.poison then none else some a.acc
def partialBytes (p : Option Int) : List Byte :=
  match p with
  | none => natLe 8 (2 ^ 63)
  | some i => natLe 8 (toField i 64)
def partialOf (v : Nat) : Option Int := if v == 2 ^ 63 then none else some (sext v 64)
/-- The value of element e among the runs a member sent. -/
def runsAt (runs : List CollRun) (rank e : Nat) : Option (Option Int) :=
  (runs.find? fun r => r.rank == rank && r.first ≤ e && e < r.first + r.vals.length).map fun r => r.vals.getD (e - r.first) none
/-- The flags of the run that holds it. -/
def runFlags (runs : List CollRun) (rank e : Nat) : Flags :=
  ((runs.find? fun r => r.rank == rank && r.first ≤ e && e < r.first + r.vals.length).map fun r => Flags.ofBits r.flags).getD fNone
/-- Elements [first, first + n) of a member are all here. -/
def runsFull (runs : List CollRun) (rank first n : Nat) : Bool :=
  ((runs.filter fun r => r.rank == rank && first ≤ r.first && r.first + r.vals.length ≤ first + n).map fun r => r.vals.length).sum ≥ n
/-- Combine this device's sums with the partials of the other members (R66). -/
def mergeRuns (own : Nat → Win) (runs : List CollRun) (ranks : List Nat) (e : Nat) : Win :=
  ranks.foldl (fun (a : Win) k =>
    match runsAt runs k e with
    | some (some i) => a.merge { acc := i, flags := runFlags runs k e }
    | some none => a.merge { poison := true, flags := runFlags runs k e }
    | none => a) (own e)
/-- Read out one sum: FP32 bits, and the stored result with its flags (R67). -/
def readOut (a : Win) (W EXP : Int) (bf : Bool) (field : Nat) : Nat × Nat × Flags :=
  let (v, f) := a.read32 W EXP
  if bf then
    let (b, g) := bf16Sr field v
    (v, b, f.or g)
  else (v, v, f)

/-- Data of a collective leave for a node; what leaves on a context counts as sent to the fabric (R265). -/
def State.postData (s : State) (j node port : Nat) (pay : List Byte) : State :=
  let s' := s.postNode j node 0x10 pay
  if s.sendsTo j node then s'.count .coOut pay.length port else s'
/-- Packets of runs, elements with their flags: kind 2 partials, at most 1,022 each, with the OR of their flags (R66), or kind 3
results. -/
def State.sendRuns (s : State) (kind j g node opid step port : Nat) (W : Int) (flags first sz : Nat) (vals : List (List Byte × Nat)) : State :=
  let per := if kind == 2 then 1022 else 8160 / sz
  (chunks per vals).zipIdx.foldl (fun (s : State) (x : List (List Byte × Nat) × Nat) =>
    let pay := collHdr kind j opid step (first + x.2 * per) x.1.length W ((x.1.map (·.2)).foldl (· ||| ·) flags) ++ (x.1.map (·.1)).flatten
    let dests := if node == 65536 then (s.members g).filter (· != s.selfNode) else [node]
    (dests.foldl (fun (s : State) n => s.postData j n port pay) s)) s
/-- The wire form of a partial, with its flags. -/
def Win.wire (a : Win) : List Byte × Nat := (partialBytes a.code, a.flags.bits)

/-! ### Bucket records (R240) -/

def Bucket.opCode (b : Bucket) : Nat := bits (fldLe b.rec' 0 1) 4 2
def Bucket.gbf (b : Bucket) : Bool := (fldLe b.rec' 0 1).testBit 1
def Bucket.rbf (b : Bucket) : Bool := (fldLe b.rec' 0 1).testBit 2
def Bucket.port (b : Bucket) : Nat := bits (fldLe b.rec' 0 1) 3 1
def Bucket.group (b : Bucket) : Nat := fldLe b.rec' 1 1
def Bucket.cpe (b : Bucket) : Nat := fldLe b.rec' 2 2
def Bucket.nelem (b : Bucket) : Nat := fldLe b.rec' 4 4
def Bucket.nseg (b : Bucket) : Nat := fldLe b.rec' 8 4
def Bucket.mask (b : Bucket) : Nat := fldLe b.rec' 0x0C 2
def Bucket.out (b : Bucket) : Nat := fldLe b.rec' 0x10 8
def Bucket.doneAt (b : Bucket) : Nat := fldLe b.rec' 0x18 8
def Bucket.split (b : Bucket) : Nat := fldLe b.rec' 0x20 8
def Bucket.gsz (b : Bucket) : Nat := if b.gbf then 2 else 4
def Bucket.rsz (b : Bucket) : Nat := if b.rbf then 2 else 4
def State.bucketP (s : State) (b : Bucket) : Nat := if b.opCode == 0 then 1 else s.groupSize b.group
def State.bucketRank (s : State) (b : Bucket) : Nat := if b.opCode == 0 then 0 else s.groupRank b.group

/-- Whether a record with its shard counts opens the bucket. -/
def State.bucketOk (s : State) (b : Bucket) (shards : List Nat) : Bool :=
  let fl := fldLe b.rec' 0 1
  let bytes := b.nelem * b.gsz
  fl.testBit 0 && b.opCode ≤ 2 && fl >>> 6 == 0 && b.group < 64 && (b.opCode != 0 || b.group == 0) && 1 ≤ b.cpe && b.cpe ≤ 2304 &&
  4194304 ≤ bytes && bytes ≤ 67108864 && 1 ≤ b.nseg && b.nseg ≤ 65536 && b.mask < 4096 && zeroAt b.rec' 0x0E 2 &&
  b.out >>> 48 == 0 && b.out % 64 == 0 && b.doneAt >>> 48 == 0 && b.doneAt != 0 && b.doneAt % 32 == 0 &&
  b.split >>> 48 == 0 && zeroAt b.rec' 0x28 24 && (b.opCode == 0 || s.groupOk b.group) &&
  (b.split == 0 || shards.sum == b.nelem)

def State.bucket (s : State) (j b : Nat) : Bucket := kget (s.job j).buckets b {}
def State.modBucket (s : State) (j b : Nat) (f : Bucket → Bucket) : State :=
  s.modJob j fun J => { J with buckets := kput J.buckets b (f (kget J.buckets b {})) }

/-- Read the records of a job and decide which buckets are open (R237 step 2). -/
def State.readBuckets (s : State) (j : Nat) : State :=
  (List.range 256).foldl (fun s b =>
    let (s, rec') := s.memRead .mgmt (s.reg .jBucketBase j + 64 * b) 64
    let B : Bucket := { rec' := rec' }
    let P := s.bucketP B
    let (s, shards) :=
      if B.split == 0 || !(fldLe rec' 0 1).testBit 0 || B.split >>> 48 != 0 then (s, evenShards B.nelem P)
      else
        let (s, l) := s.memRead .mgmt B.split (4 * P)
        (s, elems 4 P l)
    s.modBucket j b fun _ => { B with isOpen := s.bucketOk B shards, shards := shards }) s
/-- The PORT bits the multicast carries (R237 step 3). -/
def State.portBits (s : State) (j : Nat) : BitVec 256 :=
  BitVec.ofNat 256 (((s.job j).buckets.map fun x => if x.2.port == 1 then 2 ^ x.1 else 0).sum)

/-! ### Segments (R241, R242) -/

def Seg.same (a b : Seg) : Bool := a.tile == b.tile && a.slot == b.slot && a.gen == b.gen
/-- Header flags of a marker's FP_FLAGS: three engines' OF, UF, NX, NV. -/
def foldFlags (f : Nat) : Nat := bits f 0 4 ||| bits f 4 4 ||| bits f 8 4

/-- A bucket between its first segment and its completion (R265). -/
def Bucket.active (B : Bucket) : Bool := B.isOpen && !B.complete && B.segs.any (!·.rogue)
/-- Bytes staged for a bucket in progress (R242): CPE contributions at most, and 8 B, for every element. -/
def Bucket.staged (B : Bucket) : Nat :=
  if B.active then min (B.segs.map fun g => g.bytes.length).sum (B.nelem * B.cpe * B.gsz) + 8 * B.nelem else 0
/-- Bytes staged for a job's buckets. -/
def State.bstaged (s : State) (j : Nat) : Nat := ((s.job j).buckets.map fun x => x.2.staged).sum
/-- The buckets of a job's step are gone; those still in progress are so no longer (R265). -/
def State.dropBuckets (s : State) (j : Nat) : State :=
  (((s.job j).buckets.filter fun x => x.2.active).foldl (fun (s : State) (x : Nat × Bucket) => s.addFld .coStatus 0 9 511 x.2.port) s).modJob j
    fun J => { J with buckets := [] }
/-- NV of a discarded or poisoned segment reaches the bucket's header and the evidence (R242, R250). -/
def State.segNv (s : State) (j b : Nat) : State := (s.modBucket j b fun B => { B with hdr := B.hdr ||| 8 }).evid j fNV

/-- Whether segment g has an element. -/
def Seg.has (g : Seg) (e : Nat) : Bool := g.elem ≤ e && e < g.elem + g.nelem
/-- Whether g brings the first contribution of its tile to element e; a second one is rogue and counts for nothing (R62). -/
def Bucket.takes (B : Bucket) (g : Seg) (e : Nat) : Bool :=
  !g.bad && g.has e &&
  (match B.segs.find? fun h => !h.bad && h.tile == g.tile && h.has e with
   | some h => Seg.same h g
   | none => true)
/-- Elements of g that its tile has contributed to before. -/
def Bucket.again (B : Bucket) (g : Seg) : Nat :=
  ((List.range g.nelem).filter fun i => B.segs.any fun h => !h.bad && h.tile == g.tile && h.has (g.elem + i)).length

/-- Where the next segment of job j goes in the staging area: behind those known so far. DESIGN CHOICE: R242 lays nothing out there (log
entry 128). -/
def State.segTop (s : State) (j : Nat) : Nat :=
  ((s.job j).buckets.map fun x => ((x.2.segs.filter (!·.bad)).map fun g => cdiv (g.nelem * x.2.gsz) 64 * 64).sum).sum
/-- The device address of byte i of a segment, if its place lies within the area. -/
def State.segAt (s : State) (g : Seg) (gsz i : Nat) : Option Nat :=
  if g.off + g.nelem * gsz ≤ s.fld .jSizes 0 8 g.job * 2 ^ 30 then some (s.reg .jBstageBase g.job + g.off + i) else none
/-- The segment is known to the engine: on its first record it is checked (R240, R242, R62). -/
def State.segOpen (s : State) (g : Seg) : State :=
  let B := s.bucket g.job g.bucket
  if B.segs.any (Seg.same g) then s
  else if !B.isOpen then
    let s := (s.setFld .jStatus 7 1 1 g.job).evid g.job fNV
    s.modBucket g.job g.bucket fun B => { B with segs := B.segs ++ [{ g with bad := true }] }
  else
    let rogue := !rectHas (s.reg .jRect g.job) g.tile
    let s := if rogue || B.segs.any (!·.rogue) then s else s.addFld .coStatus 0 9 1 g.port
    let long := g.elem + g.nelem > B.nelem
    let again := if long then 0 else B.again g
    let s := if rogue || again != 0 then
        ((s.rogue (srcPort g.port) g.tile 0 (0x100000 + s.bucketRank B * 256 + g.bucket)).count .coRogue (if rogue then g.nelem else again)
          g.port).segNv g.job g.bucket
      else if long then
        ((s.event (srcPort g.port) 0x0501 (natLe 1 g.job ++ natLe 1 g.bucket ++ natLe 2 g.tile ++ natLe 4 g.elem)).setFld
          .coStatus 10 1 1 g.port).segNv g.job g.bucket
      else s
    s.modBucket g.job g.bucket fun B => { B with segs := B.segs ++ [{ g with bad := rogue || long, rogue := rogue, off := s.segTop g.job }] }

/-- What belongs to a segment comes too late: its step is over, or the bucket's local part is complete (R255). -/
def State.segLate (s : State) (g : Seg) : Bool := stepBefore g.step (s.step g.job) || (s.bucket g.job g.bucket).localDone
/-- The segment's record bytes grow, as far as it has elements, here and in the staging area. -/
def State.segGrow (s : State) (g : Seg) (bytes : List Byte) : State :=
  let B := s.bucket g.job g.bucket
  let x := (B.segs.find? (Seg.same g)).getD g
  let new := bytes.take (x.nelem * B.gsz - x.bytes.length)
  let s := match s.segAt x B.gsz x.bytes.length with
    | some a => s.hbmWrite (.portDie (Fin.ofNat 2 B.port)) new a (pieces a new.length)
    | none => s
  s.modBucket g.job g.bucket fun B =>
    { B with segs := replaceFirst (Seg.same g) (fun x => { x with bytes := x.bytes ++ new }) B.segs }
/-- A record joins its segment. A late one changes nothing else. A full staging area poisons every element not yet staged (R242). -/
def State.segTake (s : State) (g : Seg) (bytes : List Byte) : State :=
  if s.segLate g then s.setFld .jStatus 6 1 1 g.job
  else
    let s := s.segOpen g
    let B := s.bucket g.job g.bucket
    let x := (B.segs.find? (Seg.same g)).getD g
    if x.bad || !B.isOpen then s
    else if B.stageFull || (s.segGrow g bytes).bstaged g.job > s.fld .jSizes 0 8 g.job * 2 ^ 30 then
      let s := if B.stageFull then s
        else (s.event (srcPort g.port) 0x0502 (natLe 1 g.job ++ natLe 1 g.bucket ++ natLe 2 0 ++ natLe 4 (s.step g.job))).setFld
          .coStatus 9 1 1 g.port
      (s.segNv g.job g.bucket).modBucket g.job g.bucket fun B =>
        { B with stageFull := true, segs := replaceFirst (Seg.same g) (fun x => { x with cut := true }) B.segs }
    else s.segGrow g bytes
/-! ### Local part, report and handshake (R242, R243) -/

/-- The elements of a segment that hold contributions: element and value. -/
def Bucket.vals (B : Bucket) (g : Seg) : List (Nat × FVal) :=
  let fmt : Fmt := if B.gbf then .bf16 else .fp32
  ((elems B.gsz (min g.nelem (g.bytes.length / B.gsz)) g.bytes).zipIdx.map fun (v, i) => (g.elem + i, fmt.decode v)).filter
    fun x => B.takes g x.1
/-- Segments whose contributions count. -/
def Bucket.good (B : Bucket) : List Seg := B.segs.filter fun g => !g.bad && g.done
/-- Whether an element is poisoned before any value is seen: a segment cancelled or discarded, too many contributions, a timeout. -/
def Bucket.poisonAt (B : Bucket) (e : Nat) : Bool :=
  let cover := B.segs.filter fun g => B.takes g e
  B.poisonAll || (B.segs.any fun g => !g.rogue && g.has e && (g.bad || g.poison || (g.cut && g.elem + g.bytes.length / B.gsz ≤ e))) ||
    cover.length > B.cpe
/-- Whether some element has more than CPE contributions: the most overlapping segments start at some segment's ELEM. -/
def Bucket.over (B : Bucket) : Bool :=
  B.segs.any fun g => (B.segs.filter fun h => B.takes h g.elem).length > B.cpe
/-- This device's report: E_i and the header flags (R60, R242, R243). -/
def Bucket.report (B : Bucket) (rank : Nat) : CollReport :=
  let (e, nv) := expReport (B.good.flatMap fun g => (B.vals g).map (·.2))
  let nv := nv || B.poisonAll || B.over || B.segs.any fun g => !g.rogue && (g.bad || g.poison || g.cut)
  { rank := rank, e := e, flags := B.hdr ||| (if nv then 8 else 0) }

/-- This device's own sum of element e (R244). -/
def State.bucketOwn (s : State) (j b : Nat) (e : Nat) : Win :=
  let B := s.bucket j b
  let n := B.cpe * s.bucketP B
  let W := B.w.getD (-128)
  let key := BitVec.ofNat 64 (s.reg .jKey j)
  let tensor := 0x100000 + s.bucketRank B * 256 + b
  let fmt : Fmt := if B.gbf then .bf16 else .fp32
  let a : Win := { poison := B.poisonAt e }
  (B.good.filter fun g => B.takes g e).foldl (fun (a : Win) g =>
    a.add W n (fmt.decode (fldLe g.bytes ((e - g.elem) * B.gsz) B.gsz)) (srField key tensor (s.step j) e (srW false g.tile))) a

/-- The other members' ranks. -/
def State.otherRanks (s : State) (B : Bucket) : List Nat := (List.range (s.bucketP B)).filter (· != s.bucketRank B)

/-- Once this device's shard can be reduced: read it out, keep it, send it (R246, R258). -/
def State.bucketReduce (s : State) (j b : Nat) : State :=
  let B := s.bucket j b
  match B.w with
  | none => s
  | some W =>
    let me := s.bucketRank B
    let first := shardFirst B.shards me
    let n := B.shards.getD me 0
    if B.shardSent || !((s.otherRanks B).all fun k => runsFull B.parts k first n) then s
    else
      let key := BitVec.ofNat 64 (s.reg .jKey j)
      let EXP := sext (s.job j).exp 8
      let own := s.bucketOwn j b
      let outs := (List.range n).map fun i =>
        readOut (mergeRuns own B.parts (s.otherRanks B) (first + i)) W EXP B.rbf (srField key (0x110000 + b) (s.step j) (first + i) 0)
      let ssq := sumSquares (outs.map (·.1))
      let s := if B.opCode == 1 then
          let s := s.sendRuns 3 j B.group 65536 b (s.step j) B.port W B.flags first B.rsz (outs.map fun x => (natLe B.rsz x.2.1, 0))
          s.postGroup j B.group 0x10 (collHdr 7 j b (s.step j) 0 1 0 0 ++ natLe 4 ssq)
        else s
      s.modBucket j b fun B =>
        { B with shardSent := true, results := { rank := me, first := first, vals := outs.map fun x => some (x.2.1 : Int) } :: B.results,
                 shardSums := (me, ssq) :: B.shardSums }

/-- The engine reads the contributions back from the staging area: an uncorrectable granule makes its elements NaN, which carries NV
(R242, R274). -/
def State.bucketReread (s : State) (j b : Nat) : State :=
  let B := s.bucket j b
  let fmt : Fmt := if B.gbf then .bf16 else .fp32
  B.good.foldl (fun (s : State) g =>
    match s.segAt g B.gsz 0 with
    | none => s
    | some a =>
      let (s, l) := s.readMarked (.portDie (Fin.ofNat 2 B.port)) (pieces a g.bytes.length)
      let got := (markedElems fmt.nan B.gsz (g.bytes.length / B.gsz) l).flatMap (natLe B.gsz)
      let s := if l.any (·.2) then s.evid j fNV else s
      s.modBucket j b fun B => { B with segs := replaceFirst (Seg.same g) (fun x => { x with bytes := got }) B.segs }) s
/-- The handshake, once every report is here: W, the flags of every member, and the partials leave (R243, R246). -/
def State.bucketShake (s : State) (j b : Nat) : State :=
  let B := s.bucket j b
  let P := s.bucketP B
  if !B.isOpen || B.w.isSome || !B.localDone || B.reports.length < P then s
  else
    let W := windowExp ((B.reports.map (·.e)).foldl max (-128)) (B.cpe * P)
    let f := (B.reports.map (·.flags)).foldl (· ||| ·) 0
    let sh := s.shake j W
    let s := s.evid j ((Flags.ofBits f).ev.or sh)
    let s := s.modBucket j b fun B => { B with w := some W.1, flags := f ||| sh.bits }
    let s := s.bucketReread j b
    let own := s.bucketOwn j b
    let s := if B.opCode == 0 then s
      else (s.otherRanks B).foldl (fun s k =>
        s.sendRuns 2 j B.group (s.fld .member 0 16 B.group k) b (s.step j) B.port W.1 0 (shardFirst B.shards k) 8
          ((List.range (B.shards.getD k 0)).map fun i => (own (shardFirst B.shards k + i)).wire)) s
    s.bucketReduce j b

/-- The local part is complete: the report goes to every member (R243). -/
def State.bucketLocal (s : State) (j b : Nat) : State :=
  let B := s.bucket j b
  if B.localDone || !B.isOpen then s
  else
    let r := B.report (s.bucketRank B)
    let s := s.evid j (Flags.ofBits r.flags).ev
    let s := s.modBucket j b fun B => { B with localDone := true, reports := r :: B.reports }
    let s := if B.opCode == 0 then s else s.postGroup j B.group 0x10 (collHdr 1 j b (s.step j) 0 0 r.e r.flags)
    s.bucketShake j b

/-- SEGMENT_TIMEOUT: every open bucket whose local part is incomplete completes poisoned (R255). -/
def State.segmentTimeout (s : State) (j : Nat) : State :=
  if s.phase j != 3 || (s.job j).cast then s
  else
    ((s.job j).buckets.filter fun x => x.2.isOpen && !x.2.localDone).foldl (fun (s : State) (x : Nat × Bucket) =>
      let s := s.event srcMgmt 0x0505 (natLe 1 j ++ natLe 1 1 ++ natLe 2 x.1 ++ natLe 4 (s.step j))
      let s := (s.segNv j x.1).modBucket j x.1 fun B => { B with expired := true, poisonAll := true }
      s.bucketLocal j x.1) s

/-! ### Release (R247-R249) -/

/-- The result of the elements this device receives is complete. -/
def State.bucketReady (s : State) (j b : Nat) : Bool :=
  let B := s.bucket j b
  B.isOpen && !B.complete && B.shardSent &&
  (B.opCode != 1 || (List.range (s.bucketP B)).all fun k =>
    runsFull B.results k (shardFirst B.shards k) (B.shards.getD k 0) && B.shardSums.any fun x => x.1 == k)
/-- The stored result of element e. -/
def State.bucketAt (s : State) (B : Bucket) (e : Nat) : Nat :=
  ((List.range (s.bucketP B)).findSome? fun k => (runsAt B.results k e).map fun v => (v.getD 0).toNat).getD 0
/-- Elements [first, first + n) as bytes. -/
def State.bucketBytes (s : State) (B : Bucket) (first n : Nat) : List Byte :=
  (List.range n).flatMap fun i => natLe B.rsz (s.bucketAt B (first + i))

/-- BUCKET_RELEASE: write the results, the segment headers, the tokens and the completion record (R247-R249, R258). -/
def State.bucketRelease (s : State) (j b : Nat) : State :=
  let B := s.bucket j b
  let decided := s.phase j == 4 || s.phase j == 5
  if !decided || !s.bucketReady j b then s
  else
    let who : Master := .portDie (Fin.ofNat 2 B.port)
    let skip := s.fld .jStatus 4 1 j == 1
    let me := s.bucketRank B
    let (lo, n) := if B.opCode == 2 then (shardFirst B.shards me, B.shards.getD me 0) else (0, B.nelem)
    let W := B.w.getD (-128)
    let nan := if B.rbf then Fmt.bf16.nan else Fmt.fp32.nan
    -- POISON in the results received, in a partial received or in this device's own; of shards whose results stay elsewhere, the NV of
    -- another member's report tells (log entry 63)
    let poison := ((List.range n).any fun i => s.bucketAt B (lo + i) == nan) || (B.parts.any fun r => r.vals.contains none) ||
      ((List.range B.nelem).any fun e => (s.bucketOwn j b e).poison) ||
      (B.opCode == 2 && B.reports.any fun r => r.rank != me && r.flags.testBit 3)
    let head := natLe 4 (s.step j) ++ natLe 1 b ++ natLe 1 skip.toNat ++ s8 W ++ natLe 1 (B.flags % 16 + (if poison then 16 else 0))
    let s := if B.out != 0 && !skip && n != 0 then s.memWrite who (B.out + lo * B.rsz) (s.bucketBytes B lo n) else s
    let segs := B.segs.filter fun g => !g.rogue && (g.done || B.expired)
    let s := (segs.filter fun g => g.ret != 0).foldl (fun (s : State) g =>
      let f := max g.elem lo
      let k := min (g.elem + g.nelem) (lo + n) - f
      let hdr := head ++ natLe 4 f ++ natLe 4 (if skip || g.bad then 0 else k) ++ List.replicate 48 0
      let s := s.memWrite who g.ret hdr
      let s := if skip || g.bad || k == 0 then s else s.memWrite who (g.ret + 64 + (f - g.elem) * B.rsz) (s.bucketBytes B f k)
      s) s
    let s := segs.foldl (fun (s : State) g => s.modTile g.tile fun T => T.incToken g.retTok 1) s
    let own := s.bucketOwn j b
    let l := sumSquares ((List.range B.nelem).map fun e => ((own e).read32 W (sext (s.job j).exp 8)).1)
    let r := sumInOrder ((List.range (s.bucketP B)).filterMap fun k => (B.shardSums.find? fun x => x.1 == k).map (·.2))
    let s := s.memWrite who B.doneAt (head ++ natLe 4 (B.cpe * s.bucketP B) ++ natLe 4 n ++ natLe 4 l ++ natLe 4 r ++ natLe 8 s.uptime)
    let s := if B.segs.any (!·.rogue) then s.addFld .coStatus 0 9 511 B.port else s
    s.modBucket j b fun B => { B with complete := true }

end Sys2Proof.Machine
end

