-- ==== Sys2Proof/Machine/StreamNet.lean ====
section
/-! DEFINITION. What leaves and reaches a tile's stream engine: outbound records, markers, credits and detaches, and requests
that go to another device (R168, R181-R187, R200, R203, R204, R241, R320). -/

namespace Sys2Proof.Machine

/-- The segment a PUSH generation to a collective engine forms (R241). -/
def State.segOf (s : State) (c slot : Nat) (gen : BitVec 16) (d : SDesc) : Seg :=
  { tile := c, slot := slot, gen := gen, job := d.job, bucket := d.bucket, port := ((s.tile c).jobPorts.toNat.testBit d.bucket).toNat,
    elem := d.elem, nelem := d.nelem, ret := d.ret % 2 ^ 48, retTok := d.ret >>> 48 % 64, step := s.step d.job }
/-- A segment's marker leaves, with the tile's FP_FLAGS as they are now. -/
def State.sendMarker (s : State) (c slot : Nat) (gen : BitVec 16) (d : SDesc) (cancelled : Bool) : State :=
  let m : EndMark := { seg := s.segOf c slot gen d, flags := (s.tile c).fpFlags.toNat, cancelled := cancelled, no := (s.tile c).nextTag }
  { s with endFly := s.endFly ++ [m] }.modTile c fun T => { T with nextTag := T.nextTag + 1 }
/-- A leader's cancel markers leave for the members it still counts (R186). -/
def State.sendEnds (s : State) (c slot : Nat) (gen : BitVec 16) (ms : KMap Member) : State :=
  (ms.filter fun (m : Nat × Member) => m.2.armed && !m.2.detached).foldl (fun (s : State) (m : Nat × Member) =>
    s.modTile m.1 fun T => { T with markers := T.markers ++ [{ slot := m.2.mslot, leader := c, lslot := slot, lgen := some gen }] }) s
/-- Everything a tile asks of the device. -/
def State.outs (s : State) (c : Nat) (l : List TileOut) : State :=
  l.foldl (fun s o =>
    match o with
    | .marker q g d x => s.sendMarker c q g d x
    | .leaderEnd q g ms => s.sendEnds c q g ms
    | o => s.tileOut c o) s
/-- Run a function of tile c and carry out what it asks. -/
def State.onTile (s : State) (c : Nat) (f : Tile → Tile × List TileOut) : State :=
  let (T, o) := f (s.tile c)
  (s.setTile c T).outs c o

/-! ### Outbound records -/

/-- STREAM_SEND: the oldest buffer the engine owns leaves (R167, R168, R203, R241). -/
def State.streamSend (s : State) (c q : Nat) : State :=
  match sendBuf (s.tile c) q with
  | none => s
  | some (T, recs) =>
    let x := T.str q
    let d := x.desc
    let no := T.nextTag
    let s := s.setTile c { T with nextTag := no + recs.length }
    if d.kind == 4 then
      s.modTile c fun T =>
        { T with outs := T.outs ++ recs.zipIdx.map (fun ((_, i, bs), k) =>
                   { id := no + k, slot := q, gen := x.gen, addr := (d.base + i * d.stride) % 2 ^ 48, data := bs }) }
    else if d.coll then
      let g := s.segOf c q x.gen d
      let s := { s with segFly := s.segFly ++ recs.zipIdx.map fun ((_, _, bs), k) => { seg := g, bytes := bs, no := no + k } }
      if x.sent == d.count then s.sendMarker c q x.gen d false else s
    else
      let home := d.home
      let t := d.table
      let j := if home == 0 then (s.tab t).job % 16 else (s.jobOfTile c).getD 0
      { s with pushFly := s.pushFly ++ recs.zipIdx.map fun ((_, i, bs), k) =>
          let raw := i
          let i := if d.sentinel == some i then 2 ^ 64 - 1 else i
          { tile := c, slot := q, gen := x.gen, die := s.stageDie home t (if home == 0 then i else raw), home := home, table := t, index := i, job := j,
            step := s.step j, bf16 := d.gfmtBf16, bytes := bs, no := no + k } }

/-! ### Credits, detaches and markers of multicast (R184, R186) -/

/-- Same NBUF, BUFSZ, RECSZ and COUNT (R183). -/
def sameGeom (a b : SDesc) : Bool := a.nbuf == b.nbuf && a.bufsz == b.bufsz && a.recsz == b.recsz && a.count == b.count

/-- Packet n of tile c on the control channel is the next to reach tile l: arm credits, release credits and detaches from one member
to one leader arrive in the order in which they were sent (R28). -/
def State.ctlTurn (s : State) (c n l : Nat) : Bool :=
  let T := s.tile c
  !((T.streams.any fun x => x.2.credit == .flying && (x.2.st == 1 || x.2.st == 2) && x.2.desc.leaderTile == l && x.2.creditNo < n) ||
    (T.releases ++ T.detaches).any fun m => m.leader == l && m.no < n)
/-- ARM_CREDIT: a member's arm credit reaches its leader. -/
def State.armCredit (s : State) (c q : Nat) : State :=
  let x := (s.tile c).str q
  if !(x.desc.receive && x.credit == .flying && (x.st == 1 || x.st == 2) && s.ctlTurn c x.creditNo x.desc.leaderTile) then s
  else
    let lc := x.desc.leaderTile
    let lq := x.desc.leaderSlot
    let L := (s.tile lc).str lq
    let m := kget L.members c {}
    if !((L.st == 1 || L.st == 2) && L.desc.leader && L.desc.members.contains c && !m.armed) then
      s.modTile c fun T => T.setStr q { T.str q with credit := .refused }
    else
      let s := s.modTile lc fun T =>
        let L := T.str lq
        T.setStr lq { L with members := kput L.members c { m with armed := true, mslot := q } }
      let s := s.modTile c fun T => T.setStr q { T.str q with credit := .accepted, lgen := L.gen }
      if sameGeom L.desc x.desc then s else s.onTile lc fun T => streamError T lq 2
/-- ARM_CREDIT_RESEND. -/
def State.armCreditResend (s : State) (c q : Nat) : State :=
  if ((s.tile c).str q).credit == .refused then
    s.modTile c fun T => { T.setStr q { T.str q with credit := .flying, creditNo := T.nextTag } with nextTag := T.nextTag + 1 }
  else s
/-- RELEASE_CREDIT: a release of the leader's current generation counts. -/
def State.releaseCredit (s : State) (c q : Nat) : State :=
  match pick (fun (m : CtlMsg) => m.slot == q && s.ctlTurn c m.no m.leader) (s.tile c).releases with
  | none => s
  | some (m, rest) =>
    let s := s.modTile c fun T => { T with releases := rest }
    s.modTile m.leader fun T =>
      let L := T.str m.lslot
      if m.lgen == some L.gen && L.desc.leader then
        T.setStr m.lslot { L with members := kmod L.members c {} fun x => { x with returned := x.returned + 1 } }
      else T
/-- DETACH: the leader stops counting the member; with none left it ends in ERROR. -/
def State.detach (s : State) (c q : Nat) : State :=
  match pick (fun (m : CtlMsg) => m.slot == q && s.ctlTurn c m.no m.leader) (s.tile c).detaches with
  | none => s
  | some (m, rest) =>
    let s := s.modTile c fun T => { T with detaches := rest }
    let L := (s.tile m.leader).str m.lslot
    let cur := match m.lgen with
      | some g => g == L.gen
      | none => true
    if !(cur && L.desc.leader && (L.st == 1 || L.st == 2) && L.desc.members.contains c) then s
    else
      let ms := kmod L.members c {} fun x => { x with detached := true }
      let s := s.modTile m.leader fun T => T.setStr m.lslot { L with members := ms }
      if L.desc.members.all fun k => (kget ms k {}).detached then s.onTile m.leader fun T => streamError T m.lslot 4 else s
/-- CANCEL_MARKER: the member ends in ERROR. -/
def State.cancelMarker (s : State) (c q : Nat) : State :=
  match pick (fun (m : CtlMsg) => m.slot == q) (s.tile c).markers with
  | none => s
  | some (m, rest) =>
    let s := s.modTile c fun T => { T with markers := rest }
    let x := (s.tile c).str q
    if (x.st == 1 || x.st == 2) && x.desc.receive && x.credit == .accepted && m.lgen == some x.lgen &&
       x.desc.leaderTile == m.leader && x.desc.leaderSlot == m.lslot then s.onTile c fun T => streamError T q 3
    else s

/-! ### Requests to another device (R161, R200, R320) -/

/-- A bag as LOOKUP_REQ carries it; the sentinel goes as the all-ones index. -/
def bagBytes (wsum : Bool) (bag : List (Option Nat × Nat)) : List Byte :=
  natLe 4 bag.length ++ bag.flatMap (fun x => natLe 8 (x.1.getD (2 ^ 64 - 1))) ++ (if wsum then bag.flatMap fun x => natLe 4 x.2 else [])
/-- Records cut into runs of consecutive record numbers: a GATHER_REQ names only its first (R320). -/
def recRuns : List (Nat × Nat) → List (List (Nat × Nat))
  | [] => []
  | x :: r =>
    match recRuns r with
    | (y :: l) :: t => if y.1 == x.1 + 1 then (x :: y :: l) :: t else [x] :: (y :: l) :: t
    | t => [x] :: t
/-- Send a request of a REMOTE stream on its context; a long bag takes several packets with CONT. -/
def State.remoteSend (s : State) (c : Nat) (r : StreamReq) (recs : List (Nat × Nat)) (bag : List (Option Nat × Nat)) : State :=
  let d := r.desc
  let ctx := d.ctx % 2 ^ 20
  let step := (s.tile c).jobStep.toNat
  let j := (s.jobOfTile c).getD 0
  let pkts : List TxPkt :=
    if Config.remoteIsLookup d then
      let w := d.pool % 4 == 2
      let cs := if bag == [] then [[]] else chunks (8172 / (if w then 12 else 8)) bag
      cs.zipIdx.map fun (l, i) =>
        { op := 0x11, first := i == 0, last := i + 1 == cs.length,
          pay := sparseHdr 1 j d.table step (recs.headD (0, 0)).1 1 0 (d.pool % 8 + (if i == 0 then 0 else 8)) ++ bagBytes w l }
    else (recRuns recs).map fun l =>
      { op := 0x11, pay := sparseHdr 3 j d.recsz step (l.headD (0, 0)).1 l.length 0 0 ++ l.flatMap fun x => natLe 8 x.2 }
  (pkts.foldl (fun s p => s.postVia (some j) ctx p) s).modCtx ctx fun C => { C with asks := C.asks ++ [(c, r.id)] }

/-- Request r of the tile still waits for record n. -/
def StreamReq.wants (r : StreamReq) (n : Nat) : Bool := r.resp.isNone && r.kind.recs.contains n && !r.part.any fun x => x.1 == n
/-- Answer records to the requests of a context that wait for them, in order from record `seq` (R320). -/
def State.remoteAnswer (s : State) (c seq : Nat) (recs : List (List Byte)) : State :=
  recs.zipIdx.foldl (fun (s : State) (x : List Byte × Nat) =>
    let n := seq + x.2
    let req (a : Nat × Nat) : Option StreamReq := (s.tile a.1).reqs.find? fun r => r.id == a.2
    match ((s.ctx c).asks.find? fun a => (req a).any fun r => r.wants n).bind fun a => (req a).map fun r => (a, r) with
    | none => s
    | some (a, r) =>
      let part := r.part ++ [(n, fitRec (SDesc.recsz r.desc) x.1)]
      if part.length < r.kind.recs.length then
        s.modTile a.1 fun T => { T with reqs := replaceFirst (fun (q : StreamReq) => q.id == r.id) (fun q => { q with part := part }) T.reqs }
      else
        (s.modCtx c fun C => { C with asks := C.asks.erase a }).answer a.1 r (srcPort (s.ctxPort c % 2))
          (r.kind.recs.map fun k => ((part.find? fun y => y.1 == k).map (·.2)).getD [])) s

/-- Bags of a LOOKUP_REQ: n entries each, with weights for WSUM. -/
def parseBags (wsum : Bool) : Nat → List Byte → List (List (Option Nat × Nat))
  | 0, _ => []
  | k + 1, l =>
    let n := fldLe l 0 4
    let ix := elems 8 n (slice l 4 (8 * n))
    let ws := if wsum then elems 4 n (slice l (4 + 8 * n) (4 * n)) else List.replicate n 0
    (List.zip (ix.map fun i => if i == 2 ^ 64 - 1 then none else some i) ws) ::
      parseBags wsum k (l.drop (4 + 8 * n + (if wsum then 4 * n else 0)))

/-- Answer pooled bags: LOOKUP_RESP packets that hold whole vectors (R200, R320); none where a base die they need has stopped (R279,
R282). -/
def State.answerBags (s : State) (c j t step seq pool : Nat) (bags : List (List (Option Nat × Nat))) : State :=
  if !bags.all (s.bagServed t) then s else
  let s := bags.foldl (fun (s : State) bag => s.forwarded t bag) s
  let (s, vs) := bags.foldl (fun (acc : State × List (List Byte)) bag =>
    let (s, v) := acc.1.pooled t pool bag
    (s, acc.2 ++ [v])) (s, [])
  let per := 8176 / max 1 ((vs.head?.map List.length).getD 1)
  ((chunks per vs).zipIdx).foldl (fun (s : State) (x : List (List Byte) × Nat) =>
    s.postVia (some j) c { op := 0x11, pay := sparseHdr 2 j t step (seq + x.2 * per) x.1.length 0 0 ++ x.1.flatten }) s

/-- LOOKUP_REQ from another device (R200, R320): whole bags are answered; a message's last bag waits for its continuation. -/
def State.lookupReq (s : State) (c : Nat) (last : Bool) (l : List Byte) : State :=
  let j := fldLe l 1 1 % 16
  let t := fldLe l 2 2
  let step := fldLe l 4 4
  let seq := fldLe l 8 4
  let fl := fldLe l 0x0F 1
  let bags := parseBags (fl % 4 == 2) (fldLe l 0x0C 2) (l.drop 16)
  let held := (s.ctx c).bag
  -- the bag held back is completed by CONT, or ends here
  let (s, bags, seq) := match held with
    | some (n, ht, hp, es) =>
      if fl.testBit 3 && ht == t then (s, (es ++ bags.headD []) :: bags.tail, n)
      else (s.answerBags c j ht step n hp [es], bags, seq)
    | none => (s, bags, seq)
  let s := s.modCtx c fun C => { C with bag := none }
  if last then s.answerBags c j t step seq (fl % 8) bags
  else
    (s.answerBags c j t step seq (fl % 8) bags.dropLast).modCtx c fun C =>
      { C with bag := bags.getLast?.map fun b => (seq + bags.length - 1, t, fl % 8, b) }

end Sys2Proof.Machine
end

