-- ==== Sys2Proof/Machine/TileNet.lean ====
section
/-! DEFINITION. What the mesh brings back to a tile, and messages between tiles: GLD and GST answers, mailboxes, refusals and
resends (R81, R85, R87, R103-R106, R467, R493). -/

namespace Sys2Proof.Machine

def Tile.op (T : Tile) (tag : Nat) : Option TileOp := T.ops.find? fun (o : TileOp) => o.tag == tag
def Tile.modOp (T : Tile) (tag : Nat) (f : TileOp → TileOp) : Tile :=
  { T with ops := replaceFirst (fun (o : TileOp) => o.tag == tag) f T.ops }
def Tile.endOp (T : Tile) (tag : Nat) : Tile := 
  { T with ops := sendsGo T.nextTag (T.ops.filter fun (o : TileOp) => o.tag != tag), nextTag := T.nextTag + 1 }
/-- The operation's packet is on its way to its target. -/
def TileOp.going (o : TileOp) : Bool := o.ans.isNone && !o.lost && !o.held
/-- Its answer is on its way back. -/
def TileOp.answered (o : TileOp) : Bool := o.ans.isSome && !o.lost && !o.held
/-- A unit answers an operation. -/
def Tile.answerOp (T : Tile) (tag : Nat) (unit : Option Nat) (a : OpAns) : Tile :=
  { T.modOp tag fun o => { o with ans := some a, sent := unit.map fun u => (u, T.nextTag) } with nextTag := T.nextTag + 1 }
/-- What one unit answers on the response channel arrives in the order in which it was sent (R28). -/
def Tile.answerTurn (T : Tile) (sent : Option (Nat × Nat)) : Bool :=
  match sent with
  | none => true
  | some (u, n) =>
    let before (x : Option (Nat × Nat)) : Bool := x.any fun y => y.1 == u && y.2 < n
    !((T.ops.any fun o => o.answered && before o.sent) || (T.reqs.any fun r => r.resp.isSome && !r.lost && before r.sent) ||
      T.acks.any fun a => a.src == u && a.no < n)
/-- STREAM_ACK: the first acknowledgement for slot q whose turn has come reaches the stream (R28, R168, R184, R495). -/
def ackOp (T : Tile) (q : Nat) : Tile :=
  match pick (fun (a : AckMsg) => a.slot == q && T.answerTurn (some (a.src, a.no))) T.acks with
  | none => T
  | some (a, rest) => ackIn { T with acks := rest } a

/-- The outcome a target keeps of one of this tile's last 128 operations that it served (R493). -/
def Tile.keptAns (T : Tile) (unit tag : Nat) : Option OpAns := ((kget T.kept unit []).find? fun x => x.1 == tag).map (·.2)
def Tile.keep (T : Tile) (unit tag : Nat) (a : OpAns) : Tile :=
  { T with kept := kput T.kept unit (((tag, a) :: kget T.kept unit []).take 128) }

/-! ### Ways through the mesh (R28, R30, R31) -/

/-- The router at which a packet whose other end lies in row y meets stack st, at attachment column j of its eight (R30). -/
def attachSite (st y j : Nat) : Nat × Nat :=
  let b := 18 * (st / 8)
  (32 * (st / 4 % 2) + 8 * (st % 4) + j, if y ≤ b + 8 then b else b + 17)
/-- The attachment column of a device address, and of a row named by its index and table (R30). -/
def attachOf (a : Nat) : Nat := bits a 6 3 ^^^ bits a 9 3
def attachRow (i t : Nat) : Nat := (i ^^^ (i >>> 3) ^^^ (i >>> 6) ^^^ t) % 8
/-- The row in which a port die counts (R30). -/
def portRow (p : Nat) : Nat := if p == 0 then 0 else 35
/-- The unit that a packet between a source at site (x, y) and device address a goes to, and the router at which it leaves the
mesh there; none where the access is answered at its own entry point (R35). A packet for a port die keeps to its own column, and one
between the port dies crosses in column 31 or 32 (R31): x is that column for them. -/
def State.meshEnd (s : State) (x y a : Nat) : Option (Nat × (Nat × Nat)) :=
  match s.place a with
  | .hbm st _ => some (srcDie st, attachSite st y (attachOf a))
  | .trip st => some (srcDie st, attachSite st y (attachOf a))
  | .tile c _ => some (c, (c % 64, c / 64))
  | .die d _ => some (srcDie d, attachSite d y (attachOf a))
  | .port p _ => some (srcPort p, (x, portRow p))
  | .mgmt _ => some (srcMgmt, (x, 0))
  | .twin => some (srcPort 0, (x, 0))
  | .entry => none
/-- The same for a tile; the unit keeps the outcome of its operations (R493). -/
def State.meshDest (s : State) (c a : Nat) : Option (Nat × (Nat × Nat)) := s.meshEnd (c % 64) (c / 64) a
def State.unitAt (s : State) (a : Nat) : Option Nat := (s.meshEnd 0 0 a).map (·.1)
/-- Where a row-named request of a source in row y goes (R30, R191): the base die and its attachment point for row i of table t. -/
def State.rowDest (s : State) (die y t i : Nat) : Nat × (Nat × Nat) :=
  (srcDie die, attachSite die y (attachRow (min i (s.tab t).rows) t))
/-- Where an operation's packet goes: a message goes to its tile. -/
def State.opDest (s : State) (c : Nat) (o : TileOp) : Option (Nat × (Nat × Nat)) :=
  match o.kind with
  | .send w _ => some (bfld w 0 12, (bfld w 0 6, bfld w 6 6))
  | _ => s.meshDest c o.addr
/-- Where a stream request goes: a lookup to the base die that pools it, a REMOTE request to its context's port die. -/
def State.reqDest (s : State) (c : Nat) (r : StreamReq) : Option (Nat × (Nat × Nat)) :=
  match r.kind with
  | .block n b => s.meshDest c (listAddr r.desc n % 2 ^ 48 + 256 * b)
  | .gather l => s.meshDest c (l.headD (0, 0)).2
  | .lookup _ bag =>
    let T := s.tab r.desc.table
    some (s.rowDest (s.poolDie T bag) (c / 64) r.desc.table (((bag.headD (none, 0)).1).getD T.rows))
  | .remote _ _ =>
    let p := s.ctxPort (r.desc.ctx % 2 ^ 20) % 2
    some (srcPort p, (c % 64, portRow p))
/-- Where a PUSH record goes: to its staging die's attachment point for its row (R30, R204). -/
def State.pushDest (s : State) (r : PushRec) : Nat × (Nat × Nat) := 
  if r.home == 0 then s.rowDest r.die (r.tile / 64) r.table (s.pushRow r)
  else (srcDie r.die, attachSite r.die (r.tile / 64) (attachRow r.index r.table))
/-- Where a record or a marker of a segment goes: to the collective engine of its port die. -/
def segDest (g : Seg) : Nat × (Nat × Nat) := (srcPort g.port, (g.tile % 64, portRow g.port))
/-- Packets of tile c that are on their way on the request channel: their numbers and where they go. -/
def State.onTheWay (s : State) (c : Nat) : List (Nat × Option (Nat × (Nat × Nat))) :=
  let T := s.tile c
  ((T.ops.filter TileOp.going).map fun o => (o.no, s.opDest c o)) ++
  ((T.reqs.filter fun r => r.resp.isNone && !r.lost && r.fwd.isNone &&
      !(s.ctx (r.desc.ctx % 2 ^ 20)).asks.contains (c, r.id)).map fun r => (r.id, s.reqDest c r)) ++
  (T.outs.map fun w => (w.id, s.meshDest c w.addr)) ++
  ((s.pushFly.filter fun r => r.tile == c).map fun r => (r.no, some (s.pushDest r))) ++
  ((s.segFly.filter fun r => r.seg.tile == c).map fun r => (r.no, some (segDest r.seg))) ++
  ((s.endFly.filter fun m => m.seg.tile == c).map fun m => (m.no, some (segDest m.seg)))
/-- Packet n of tile c is the next to arrive where it goes: packets from one source to one destination arrive in the order in which
they were sent (R28). -/
def State.packetTurn (s : State) (c n : Nat) (dest : Option (Nat × (Nat × Nat))) : Bool :=
  dest.isNone || !(s.onTheWay c).any fun x => x.1 < n && x.2 == dest
/-- The target has not served operation o of tile c. -/
def State.unserved (s : State) (c : Nat) (o : TileOp) : Bool :=
  o.ans.isNone && ((s.opDest c o).bind fun u => (s.tile c).keptAns u.1 o.tag).isNone
/-- An operation of a tile may be served: no earlier access of its task to its granule is unserved (R39), and its packet is next (R28). -/
def State.opTurn (s : State) (c : Nat) (o : TileOp) : Bool :=
  s.packetTurn c o.no (s.opDest c o) &&
  !((s.tile c).ops.any fun x => x.tag < o.tag && !x.isSend && x.slot == o.slot && x.task == o.task && x.addr / 64 == o.addr / 64 && s.unserved c x)

/-- Granules [a, a + n) and [b, b + m) touch in common. -/
def sameGran (a n b m : Nat) : Bool := overlaps (a / 64) ((a + n + 63) / 64 - a / 64) (b / 64) ((b + m + 63) / 64 - b / 64)
/-- What a stream request reads, as (address, bytes). -/
def StreamReq.reads (r : StreamReq) : List (Nat × Nat) :=
  match r.kind with
  | .block n b => [(listAddr r.desc n % 2 ^ 48 + 256 * b, 256)]
  | .gather l => l.map fun x => (x.2, r.desc.recsz)
  | _ => []
/-- An access of tile c's stream engine, packet n, may be served: no earlier one to a granule of it is unserved (R39). -/
def State.streamTurn (s : State) (c n : Nat) (l : List (Nat × Nat)) : Bool :=
  let T := s.tile c
  let meets (x : List (Nat × Nat)) : Bool := x.any fun a => l.any fun b => sameGran a.1 a.2 b.1 b.2
  !((T.reqs.any fun r => r.id < n && r.resp.isNone && !r.lost && meets r.reads) ||
    T.outs.any fun w => w.id < n && meets [(w.addr, w.data.length)])

/-- The values met from a to b, without a. -/
def toward (a b : Nat) : List Nat :=
  if a ≤ b then (List.range (b - a)).map (a + 1 + ·) else (List.range (a - b)).map fun i => a - 1 - i
/-- The routers a packet passes, each with the port at which it receives it: first along its row, then along the column (R28).
Ports as R464 codes them; `p` is the port at which the packet enters the mesh. -/
def meshHops (a b : Nat × Nat) (p : Nat) : List ((Nat × Nat) × Nat) :=
  (a, p) :: (toward a.1 b.1).map (fun x => ((x, a.2), if a.1 ≤ b.1 then 3 else 2)) ++
    (toward a.2 b.2).map (fun y => ((b.1, y), if a.2 ≤ b.2 then 0 else 1))
/-- The port through which a unit's packets enter the mesh: tile, stack or port die attachment. -/
def entryPort (unit : Nat) : Nat := if unit < 2304 then 4 else if 0xFF00 ≤ unit && unit < 0xFF10 then 5 else 6
/-- The way of a request of tile c, or of its answer back: the routers with their ports, and the virtual channel (R27, R464). -/
def tileWay (c : Nat) (dest : Option (Nat × (Nat × Nat))) (back : Bool) : List ((Nat × Nat) × Nat) × Nat :=
  match dest with
  | none => ([], 3)
  | some (u, e) => if back then (meshHops e (c % 64, c / 64) (entryPort u), 1) else (meshHops (c % 64, c / 64) e 4, 3)
/-- The way of a packet between another unit and a device address (R30, R31). A base die leaves through the attachment that a source
in the destination's row would use; the row of a stack as destination is taken for a source in its own first row (log entry 108). -/
def State.unitWay (s : State) (src a : Nat) (answer : Bool) : List ((Nat × Nat) × Nat) × Nat :=
  let p := if src == srcPort 1 then 1 else 0
  let y0 := if 0xFF00 ≤ src && src < 0xFF10 then 18 * ((src - 0xFF00) / 8) else portRow p
  let colOf (e : Nat × (Nat × Nat)) : Nat × Nat :=
    match s.place a with
    | .port _ _ | .mgmt _ | .twin => (if p == 0 then 31 else 32, e.2.2)
    | _ => e.2
  match s.meshEnd 0 y0 a with
  | none => ([], 3)
  | some e =>
    let at' : Nat × Nat :=
      if 0xFF00 ≤ src && src < 0xFF10 then attachSite (src - 0xFF00) e.2.2 (attachOf a) else ((colOf e).1, y0)
    -- a base die's packet for a port die keeps to its own column
    let goal : Nat × Nat := match s.place a with
      | .port _ _ | .mgmt _ | .twin => (at'.1, e.2.2)
      | _ => e.2
    if answer then (meshHops goal at' (entryPort e.1), 1) else (meshHops at' goal (entryPort src), 3)
/-- The natural home that forwards a lookup, and where it goes: to the current stack of the first row that is away (R224). It leaves through
the attachment that a source in the destination's row would use; that row is the stack's own first one (R30, log entry 108). -/
def State.fwdEnds (s : State) (r : StreamReq) : Option ((Nat × (Nat × Nat)) × (Nat × (Nat × Nat))) :=
  match r.kind with
  | .lookup _ bag =>
    let t := r.desc.table
    bag.findSome? fun x => x.1.bind fun i => (s.away t i).map fun m =>
      let d := s.natural (s.tab t) i
      let to' := s.rowDest m.stack (18 * (m.stack / 8)) t i
      (s.rowDest d to'.2.2 t i, to')
  | _ => none
/-- A lookup that a natural home has forwarded is on its way. -/
def StreamReq.forward (r : StreamReq) : Bool := r.fwd.isSome && r.resp.isNone && !r.fwdLost
/-- A forwarded lookup is the next to arrive of those that its natural home sent to the same place (R28). -/
def State.fwdTurn (s : State) (r : StreamReq) : Bool :=
  (s.fwdEnds r).isNone ||
    !s.tiles.any fun x => x.2.reqs.any fun q => q.forward && q.fwdNo < r.fwdNo && s.fwdEnds q == s.fwdEnds r
/-- The way of chunks to tile c: by multicast from port die 0 to the rectangle in the first round, by unicast in a repair (R116, R185). -/
def Loader.way (L : Loader) (c : Nat) : List ((Nat × Nat) × Nat) × Nat :=
  let (x, y) := (c % 64, c / 64)
  if L.round != 0 then (meshHops (x, 0) (x, y) 6, 3)
  else
    let x0 := (L.tiles.map (· % 64)).foldl min 63
    let y0 := (L.tiles.map (· / 64)).foldl min 35
    (meshHops (x0, 0) (x0, y0) 6 ++ (meshHops (x0, y0) (x, y) 6).tail, 2)
/-- Units whose packets `PktRef.unitOp` names. -/
def isUnit (src : Nat) : Bool := (0xFF00 ≤ src && src < 0xFF10) || src == srcPort 0 || src == srcPort 1 || src == srcMgmt
/-- A router may receive this packet at this port and virtual channel: it lies on the packet's way. -/
def State.meshAt (s : State) (site port vc : Nat) (p : PktRef) : Bool :=
  let here : (Nat × Nat) × Nat := ((site % 64, site / 64), port)
  let on (w : List ((Nat × Nat) × Nat) × Nat) : Bool := w.2 == vc && w.1.contains here
  match p with
  | .tileOp t tag =>
    let c := tileCode t
    match (s.tile c).op tag with
    | some o => (o.going || o.answered) && on (tileWay c (s.opDest c o) o.answered)
    | none => false
  | .streamReq t id =>
    let c := tileCode t
    match (s.tile c).reqs.find? fun (r : StreamReq) => r.id == id with
    | some r =>
      if r.fwd.isSome && r.resp.isNone then
        r.forward && (s.fwdEnds r).any fun w => on (meshHops w.1.2 w.2.2 5, 3)
      else !r.lost && on (tileWay c (s.reqDest c r) r.resp.isSome)
    | none => false
  | .unitOp src a answer =>
    isUnit src.toNat && !s.unitLost.contains (src.toNat, a.toNat, answer) && on (s.unitWay src.toNat a.toNat answer)
  | .chunk n => s.loader.any fun L => L.phase == 0 && L.toSend.any fun x => x.2.contains n && on (L.way x.1)
  | .mcast t id => vc == 2 && site == tileCode t && (s.tile (tileCode t)).mcIn.any fun m => m.id == id

/-- GLD_RESPONSE: the data are written and the token raised, unless the load was cancelled (R81, R85, R95). -/
def gldResponseOp (T : Tile) (tag : Nat) : Tile :=
  match T.op tag with
  | some o =>
    match o.kind, o.ans with
    | .gld rd size sg, some (.loaded bs) =>
      if !T.answerTurn o.sent then T
      else
        let T := T.endOp tag
        if o.cancelled then T else (T.modSlot o.slot fun K => loadInto K rd size sg bs).incToken o.sig 1
    | _, _ => T
  | none => T
/-- GST_ACK. -/
def gstAckOp (T : Tile) (tag : Nat) : Tile :=
  match T.op tag with
  | some o => if o.isGst && o.ans == some .stored && T.answerTurn o.sent then (T.endOp tag).incToken o.sig 1 else T
  | none => T
/-- SEND_ACCEPTED: the next message to that mailbox may leave. A message that had left when its task was killed completes (R81). -/
def sendAcceptedOp (T : Tile) (tag : Nat) : Tile :=
  match T.op tag with
  | some o =>
    if o.isSend && o.ans == some .accepted && T.answerTurn o.sent then (T.endOp tag).incToken o.sig 1 else T
  | none => T
/-- SEND_REFUSED: counted; the message waits its 64 cycles, or is dropped if its task was killed. -/
def sendRefusedOp (T : Tile) (tag : Nat) : Tile :=
  match T.op tag with
  | some o =>
    if o.isSend && o.ans == some .refused && !o.held && T.answerTurn o.sent then
      let T := { T with sendRetry := T.sendRetry + 1 }
      if o.cancelled then T.endOp tag else T.modOp tag fun o => { o with held := true }
    else T
  | none => T
/-- MESSAGE_RESEND: a refused message leaves again, as a new packet. -/
def messageResendOp (T : Tile) (tag : Nat) : Tile :=
  match T.op tag with
  | some o =>
    if o.isSend && o.held && o.ans == some .refused then
      { T.modOp tag fun o => { o with held := false, ans := none, tag := T.nextTag, no := T.nextTag } with nextTag := T.nextTag + 1 }
    else T
  | none => T

/-- A mailbox takes a message if it holds fewer than four (R103, R104). -/
def mailboxIn (T : Tile) (m src : Nat) (bs : List Byte) : Option Tile :=
  let l := kget T.mboxes m []
  if l.length ≥ 4 then none
  else
    let T' : Tile := { T with mboxes := kput T.mboxes m (l ++ [{ src := src, bytes := bs }]) }
    some (T'.incToken (kget T.mboxTok m 0).toNat 1)
/-- MESSAGE_ARRIVAL: a SEND packet of tile c reaches its mailbox; a repeated tag is answered as before. -/
def State.messageArrival (s : State) (c tag : Nat) : State :=
  match (s.tile c).op tag with
  | none => s
  | some o =>
    match o.kind with
    | .send w bs =>
      let dst := bfld w 0 12
      if !o.going || !s.packetTurn c o.no (s.opDest c o) then s
      else
        match (s.tile c).keptAns dst tag with
        | some a => s.modTile c fun T => T.answerOp tag (some dst) a
        | none =>
          let (s, a) := match mailboxIn (s.tile dst) (bfld w 12 4) c bs with
            | some D => (s.setTile dst D, OpAns.accepted)
            | none => (s, OpAns.refused)
          s.modTile c fun T => (T.keep dst tag a).answerOp tag (some dst) a
    | _ => s

/-- Change the response of an outstanding stream request. -/
def Tile.modReq (T : Tile) (id : Nat) (f : StreamReq → StreamReq) : Tile :=
  { T with reqs := replaceFirst (fun (r : StreamReq) => r.id == id) f T.reqs }
/-- SOURCE of the mesh of the compute die on which a site lies (R462). -/
def srcMesh (site : Nat) : Nat := 0xFF10 + 2 * (site / 64 / 18) + site % 64 / 32
/-- MESH_PACKET_RECEIVE with a bad CRC (R467): a packet that passes this router is discarded at the port and virtual channel at which
the router receives it. A chunk is lost for every tile that it reaches through this router. -/
def State.meshBad (s : State) (site port vc : Nat) (p : PktRef) : State :=
  if !s.meshAt site port vc p then s else
  let s := s.event (srcMesh site) 0x0302 (natLe 2 site ++ natLe 1 port ++ natLe 1 vc)
  match p with
  | .tileOp t tag => s.modTile (tileCode t) fun T => T.modOp tag fun o => if o.held then o else { o with ans := none, lost := true }
  | .streamReq t id => s.modTile (tileCode t) fun T => T.modReq id fun r =>
      if r.forward then { r with fwdLost := true } else { r with resp := none, lost := true }
  | .unitOp src a answer => { s with unitLost := s.unitLost ++ [(src.toNat, a.toNat, answer)] }
  | .chunk n => { s with loader := s.loader.map fun L => { L with toSend := L.toSend.map fun x =>
      (x.1, if (L.way x.1).1.elem ((site % 64, site / 64), port) then x.2.filter (· != n) else x.2) } }
  | .mcast t id => s.modTile (tileCode t) fun T => { T with mcIn := T.mcIn.filter fun m => m.id != id }
/-- OPERATION_RESEND (R493): the same packet, with the same tag. What another rule recovers is not sent again. -/
def State.opResend (s : State) (p : PktRef) : State :=
  match p with
  | .tileOp t tag => s.modTile (tileCode t) fun T =>
    { T.modOp tag fun o => if o.lost then { o with lost := false, no := T.nextTag } else o with nextTag := T.nextTag + 1 }
  | .streamReq t id => { s.modTile (tileCode t) fun T => T.modReq id fun r =>
      if r.fwdLost then { r with fwdLost := false, fwdNo := s.fwdNext } else r with fwdNext := s.fwdNext + 1 }
  | .unitOp src a answer => { s with unitLost := s.unitLost.erase (src.toNat, a.toNat, answer) }
  | .chunk _ => s
  | .mcast _ _ => s

end Sys2Proof.Machine
end

