-- ==== Sys2Proof/Machine/Arrivals.lean ====
section
/-! DEFINITION. What a tile's stream engine sends, as it arrives in the base dies and the collective engines: lookups, PUSH records,
segment records and their markers (R191-R208, R224-R226, R241, R242). Each arrives in its turn (R28). -/

namespace Sys2Proof.Machine

/-- LOOKUP_REQUEST: serve one lookup request of a tile, or forward it to where its rows are (R197, R224, R226). -/
def State.lookupOp (s : State) (c id : Nat) : State :=
  match (s.tile c).reqs.find? fun r => r.id == id with
  | none => s
  | some r =>
    if r.resp.isSome || r.lost || r.fwdLost then s
    else
      match r.kind with
      | .lookup _ bag =>
        let d := r.desc
        let T := s.tab d.table
        let turn := if r.fwd.isSome then s.fwdTurn r else s.packetTurn c id (s.reqDest c r)
        if !s.bagServed d.table bag || !turn then s
        else if r.fwd.isNone && s.tabOpen T && bag.any fun x => x.1.any fun i => (s.away d.table i).isSome then
          -- the natural homes forward it, tagged with DV
          let s' := (s.forwarded d.table bag).modTile c fun T =>
            T.modReq id fun q => { q with fwd := some (s.reg .emDv), fwdNo := s.fwdNext }
          { s' with fwdNext := s.fwdNext + 1 }
        else
          let s := if r.fwd.any (· != s.reg .emDv) then s.resent d.table bag else s
          let (s, v) := s.pooled d.table d.pool bag
          s.answer c r (srcDie (s.poolDie T bag)) [fitRec d.recsz v]
      | _ => s

/-- PUSH_RECORD: record i on its way arrives at a base die that runs (R204). Accepted or discarded, it is acknowledged (R168). -/
def State.pushRecord (s : State) (i : Nat) : State :=
  match s.pushFly[i]? with
  | none => s
  | some r =>
    if !s.dieServes r.die || !s.packetTurn r.tile r.no (some (s.pushDest r)) then s
    else ({ s with pushFly := s.pushFly.eraseIdx i }.modTile r.tile fun T => ackLeaves T (srcDie r.die) r.slot r.gen).pushAt r

/-- SEGMENT_RECORD: record i reaches its engine. -/
def State.segmentRecord (s : State) (i : Nat) : State :=
  match s.segFly[i]? with
  | none => s
  | some r =>
    if !s.packetTurn r.seg.tile r.no (some (segDest r.seg)) then s
    else { s with segFly := s.segFly.eraseIdx i }.segTake r.seg r.bytes
/-- END_MARKER: marker i reaches its engine, after the segment's records, which left before it (R28, R241, R242). -/
def State.endMarker (s : State) (i : Nat) : State :=
  match s.endFly[i]? with
  | none => s
  | some m =>
    let g := m.seg
    if !s.packetTurn g.tile m.no (some (segDest g)) then s
    else
      let s := { s with endFly := s.endFly.eraseIdx i }
      let s := if m.cancelled then s else s.modTile g.tile fun T => ackLeaves T (srcPort g.port) g.slot g.gen
      if s.segLate g then s.setFld .jStatus 6 1 1 g.job
      else
        let s := s.segOpen g
        let B := s.bucket g.job g.bucket
        let x := (B.segs.find? (Seg.same g)).getD g
        if !B.isOpen || x.rogue then s
        else
          let short := !x.bad && !x.poison && !x.cut && !m.cancelled && x.bytes.length < x.nelem * B.gsz
          let s := if short then
              ((s.event (srcPort g.port) 0x0501 (natLe 1 g.job ++ natLe 1 g.bucket ++ natLe 2 g.tile ++ natLe 4 g.elem)).setFld
                .coStatus 10 1 1 g.port).segNv g.job g.bucket
            else if m.cancelled then s.segNv g.job g.bucket
            else s
          let s := (s.count .coSegs 1 g.port).modBucket g.job g.bucket fun B =>
            { B with ended := B.ended + 1, hdr := B.hdr ||| foldFlags (m.flags &&& B.mask),
                     segs := replaceFirst (Seg.same g) (fun x => { x with done := true, bad := x.bad || short, poison := x.poison || m.cancelled }) B.segs }
          if (s.bucket g.job g.bucket).ended == B.nseg then s.bucketLocal g.job g.bucket else s


end Sys2Proof.Machine
end

