-- ==== Sys2Proof/Machine/Pace.lean ====
section
/-! DEFINITION. Round-trip times, the retransmission timeout and the paced rate of a context (R305, R308), and a context's state at
start (R301, R302, R308, R381). Rates are FP32 numbers of bit/s. -/

namespace Sys2Proof.Machine

/-- A natural number as FP32, and the integer part of an FP32 number. -/
def f32Nat (n : Nat) : Nat := (Fmt.fp32.encode .rne false (.fin false n 0)).1
def f32Floor (v : Nat) : Nat :=
  match Fmt.fp32.decode v with
  | .fin false m (.ofNat e) => m * 2 ^ e
  | .fin false m (.negSucc e) => m / 2 ^ (e + 1)
  | _ => 0
def f32Add (a b : Nat) : Nat := (Fmt.fp32.add (Fmt.fp32.decode a) (Fmt.fp32.decode b)).1
def f32Sub (a b : Nat) : Nat := (Fmt.fp32.sub (Fmt.fp32.decode a) (Fmt.fp32.decode b)).1
def f32Mul (a b : Nat) : Nat := (Fmt.fp32.mul (Fmt.fp32.decode a) (Fmt.fp32.decode b)).1
def f32Div (a b : Nat) : Nat := (Fmt.fp32.div (Fmt.fp32.decode a) (Fmt.fp32.decode b)).1
def f32Abs (a : Nat) : Nat := a % 2 ^ 31
def f32Gt (a b : Nat) : Bool := fltX (Fmt.fp32.decode b) (Fmt.fp32.decode a)

/-- CC_CFG in ns and bit/s, with RETRY_MAX. -/
def State.ccTarget (s : State) : Nat := s.fld .faCc 0 16 * 1000
def State.ccAi (s : State) : Nat := s.fld .faCc 16 16 * 100000000
def State.ccRtoMin (s : State) : Nat := s.fld .faCc 32 16 * 1000
def State.ccRetry (s : State) : Nat := let n := s.fld .faCc 48 8; if n == 0 then 16 else n
/-- MAC rate of the port, in bit/s: the standard rate of its kind while the link is down. -/
def State.lineRate (s : State) (p : Nat) : Nat :=
  match s.port .poLink 1 2 p with
  | 1 => 400000000000
  | 3 => 1024000000000
  | 2 => 800000000000
  | _ => if 16 ≤ p then 400000000000 else 800000000000
/-- RTO from SRTT and RTTVAR (R305). -/
def State.rtoOf (s : State) (C : Ctx) : Nat :=
  max (f32Floor (f32Add (f32Mul (f32Nat 2) C.srtt) (f32Mul (f32Nat 4) C.rttvar))) s.ccRtoMin
/-- One sample of the round-trip time (R308). -/
def State.rttSample (s : State) (C : Ctx) (echo : Nat) : Ctx :=
  let rtt := f32Nat ((s.uptime % 2 ^ 32 + 2 ^ 32 - echo) % 2 ^ 32)
  let var := f32Add C.rttvar (f32Div (f32Sub (f32Abs (f32Sub rtt C.srtt)) C.rttvar) (f32Nat 4))
  { C with rttvar := var, srtt := f32Add C.srtt (f32Div (f32Sub rtt C.srtt) (f32Nat 8)) }
/-- RATE_UPDATE (R308). -/
def State.rateUpdate (s : State) (c : Nat) : State :=
  let C := s.ctx c
  let f := f32Div (f32Nat C.marked) (f32Nat (max C.acked 1))
  let alpha := f32Add C.alpha (f32Div (f32Sub f C.alpha) (f32Nat 16))
  let target := f32Nat s.ccTarget
  let one := f32Nat 1
  let r :=
    if C.marked > 0 then f32Mul C.rate (f32Sub one (f32Div alpha (f32Nat 2)))
    else if f32Gt C.srtt target then
      f32Mul C.rate (f32Sub one (f32Div (f32Mul (f32Div one (f32Nat 4)) (f32Sub C.srtt target)) C.srtt))
    else f32Add C.rate (f32Nat s.ccAi)
  -- a context of diagnostic mode has no record: its floor is 0
  let low := f32Nat (if c < 2 ^ 20 then s.ctxFld c 0x2C 4 * 100000000 else 0)
  let line := f32Nat (s.lineRate (if c < 2 ^ 20 then s.ctxPort c else 16 + (c - 2 ^ 20)))
  let r := if f32Gt low r then low else r
  let r := if f32Gt r line then line else r
  s.modCtx c fun C => { C with alpha := alpha, rate := r, marked := 0, acked := 0 }

/-- A context as a start leaves it: its initial grant, line rate, SRTT at the target (R306, R308). -/
def State.ctxInit (s : State) (c nextMsn : Nat) (window : BitVec 256) : State :=
  let C : Ctx := { grant := s.ctxFld c 0x28 4, grantSent := s.ctxFld c 0x28 4, rate := f32Nat (s.lineRate (s.ctxPort c)), srtt := f32Nat s.ccTarget, nextMsn := nextMsn, window := window }
  s.modCtx c fun _ => { C with rto := s.rtoOf C }
/-- SYNC or SYNC_ACK of context c: INCARNATION and GRANT (R302). -/
def State.syncPay (s : State) (c : Nat) : List Byte := natLe 4 (s.reg .flogInc) ++ natLe 4 (s.ctxFld c 0x28 4) ++ natLe 8 0

end Sys2Proof.Machine
end

