-- ==== Sys2Proof/Machine/Crypto.lean ====
section
/-! DEFINITION. Digests and checks over bytes: SHAKE256 (R2), the CRC-32C of R299, the Ethernet FCS and the Internet
checksum (R294, R295), as their standards define them (log entry 119). -/

namespace Sys2Proof.Machine

abbrev Lane := BitVec 64

/-- The five lanes of one y of the permutation's state, x = 0 to 4. -/
structure Plane where
  (x0 x1 x2 x3 x4 : Lane)
  deriving DecidableEq, Repr

def Plane.both (f : Lane → Lane → Lane) (p q : Plane) : Plane :=
  ⟨f p.x0 q.x0, f p.x1 q.x1, f p.x2 q.x2, f p.x3 q.x3, f p.x4 q.x4⟩
/-- The plane seen from the next x. -/
def Plane.next (p : Plane) : Plane := ⟨p.x1, p.x2, p.x3, p.x4, p.x0⟩
def Plane.lanes (p : Plane) : List Lane := [p.x0, p.x1, p.x2, p.x3, p.x4]

/-- Five lanes at a time, as planes. -/
def planesOf : List Lane → List Plane
  | a :: b :: c :: d :: e :: r => ⟨a, b, c, d, e⟩ :: planesOf r
  | _ => []

/-- The walk of the permutation over lanes 1 to 24, (x, y) to (y, 2x + 3y), as (lane moved to, lane moved from, rotation): the
t-th move rotates by the t-th triangular number. -/
def laneWalk : Nat → Nat → Nat → Nat → List (Nat × Nat × Nat)
  | 0, _, _, _ => []
  | n + 1, t, x, y => (y + 5 * ((2 * x + 3 * y) % 5), x + 5 * y, t * (t + 1) / 2 % 64) :: laneWalk n (t + 1) y ((2 * x + 3 * y) % 5)
/-- By lane: the lane it takes, and the rotation; lane 0 stays. -/
def laneMoves : List (Nat × Nat) :=
  (List.range 25).map fun i => (((laneWalk 24 1 1 0).find? fun w => w.1 == i).map (·.2)).getD (0, 0)

/-- The 8-bit shift register of the round constants, of x^8 + x^6 + x^5 + x^4 + 1, after n more steps. -/
def rcStep : Nat → Nat → Nat
  | 0, r => r
  | n + 1, r => rcStep n (if 128 ≤ r then (2 * r % 256) ^^^ 0x71 else 2 * r)
/-- The constant of round k: bit 2^j - 1 is the register's low bit at step 7k + j. -/
def roundConst (k : Nat) : Lane :=
  BitVec.ofNat 64 (((List.range 7).map fun j => rcStep (7 * k + j) 1 % 2 * 2 ^ (2 ^ j - 1)).sum)

/-- Round k of the permutation under SHAKE256. -/
def shakeRound (st : List Plane) (k : Nat) : List Plane :=
  let par := st.foldl (Plane.both (· ^^^ ·)) ⟨0, 0, 0, 0, 0⟩
  let mix := par.next.next.next.next.both (fun l r => l ^^^ r.rotateLeft 1) par.next
  let flat := (st.map (mix.both (· ^^^ ·))).flatMap Plane.lanes
  let moved := planesOf (laneMoves.map fun m => (flat.getD m.1 0).rotateLeft m.2)
  match moved.map fun p => p.both (· ^^^ ·) (p.next.both (fun n nn => (n ^^^ -1) &&& nn) p.next.next) with
  | p :: r => { p with x0 := p.x0 ^^^ roundConst k } :: r
  | [] => []

def shakeMix (st : List Plane) : List Plane := (List.range 24).foldl shakeRound st

/-- The message with SHAKE's suffix 1111, the padding's first bit and its last bit: a whole number of 136 B blocks. -/
def shakePad (m : List Byte) : List Byte :=
  let short := 136 - 1 - m.length % 136
  let tail : List Byte := 0x1F :: List.replicate short 0
  m ++ tail.dropLast ++ [tail.getLastD 0 ||| 0x80]

/-- Take in n blocks of 136 B. -/
def shakeIn : Nat → List Byte → List Plane → List Plane
  | 0, _, st => st
  | n + 1, m, st =>
    let words := (List.range 25).map fun i => if i < 17 then BitVec.ofNat 64 (fldLe m (8 * i) 8) else 0
    shakeIn n (m.drop 136) (shakeMix (List.zipWith (Plane.both (· ^^^ ·)) st (planesOf words)))

/-- At most n bytes of output, k blocks from here. -/
def shakeOut : Nat → Nat → List Plane → List Byte
  | 0, _, _ => []
  | k + 1, n, st =>
    ((st.flatMap Plane.lanes).flatMap fun l => natLe 8 l.toNat).take (min n 136) ++ shakeOut k (n - 136) (shakeMix st)

/-- SHAKE256 of a message, n bytes of output (R2). -/
def shake256 (m : List Byte) (n : Nat) : List Byte :=
  let p := shakePad m
  shakeOut (cdiv n 136) n (shakeIn (p.length / 136) p (List.replicate 5 ⟨0, 0, 0, 0, 0⟩))

/-- A reflected CRC-32 over bytes with the given reflected polynomial, initial value and final XOR all ones. -/
def crc32 (poly : BitVec 32) (l : List Byte) : BitVec 32 :=
  let bit (c : BitVec 32) (_ : Nat) : BitVec 32 := if c.getLsbD 0 then (c >>> 1) ^^^ poly else c >>> 1
  let byte (c : BitVec 32) (b : Byte) : BitVec 32 := (List.range 8).foldl bit (c ^^^ b.setWidth 32)
  ~~~ (l.foldl byte 0xFFFFFFFF#32)
/-- CRC-32C of R299 (reflected form of 0x1EDC6F41). -/
def crc32c (l : List Byte) : BitVec 32 := crc32 0x82F63B78#32 l
/-- The FCS of an Ethernet frame. -/
def fcs (l : List Byte) : BitVec 32 := crc32 0xEDB88320#32 l

/-- Ones' complement sum of 16-bit big-endian words. -/
def inetSum : List Byte → Nat
  | [] => 0
  | [a] => a.toNat * 256
  | a :: b :: r => a.toNat * 256 + b.toNat + inetSum r
def foldSum (n : Nat) : Nat :=
  let a := n % 65536 + n / 65536
  let b := a % 65536 + a / 65536
  b % 65536 + b / 65536
/-- The Internet checksum field over bytes whose checksum field is zero. -/
def inetChecksum (l : List Byte) : Nat := 65535 - foldSum (inetSum l)

end Sys2Proof.Machine
end

