-- ==== Sys2Proof/Machine/Cloche.lean ====
section
/-! DEFINITION. The Cloche's journal in HBM: its addresses, its anchor, entries, release, the MSN table (R376-R381). -/

namespace Sys2Proof.Machine

/-- Bytes of the journal and of its entry ring. -/
def State.jBytes (s : State) : Nat := s.fld .clCfg 0 10 * 2 ^ 20
def jStart : Nat := 0x80000
def State.jRing (s : State) : Nat := s.jBytes - jStart
/-- The device address of journal offset o (R376). -/
def State.jAddr (s : State) (o : Nat) : Nat :=
  let page := o / 4096
  (if page % 2 == 0 then s.fld .clBase0 0 48 else s.fld .clBase1 0 48) + page / 2 * 4096 + o % 4096
/-- A journal lies in HBM: R383 gives any cause but NO_JOURNAL. -/
def State.jHere (s : State) : Bool := s.fld .clStatus 0 3 != 3 && s.fld .clCfg 0 10 != 0
/-- Write journal bytes. -/
def State.jPut (s : State) (o : Nat) (data : List Byte) : State :=
  (pagePieces o data.length).foldl (fun s (b, n) =>
    s.hbmWrite (.portDie 0) (slice data (b - o) n) (s.jAddr b) (pieces (s.jAddr b) n)) s
/-- Journal bytes as they stand. -/
def State.jGet (s : State) (o n : Nat) : List Byte := (pagePieces o n).flatMap fun (b, k) => s.hbmNow (s.jAddr b) k
/-- Read journal bytes. The flag: some granule was uncorrectable. -/
def State.jRead (s : State) (o n : Nat) : State × List Byte × Bool :=
  (pagePieces o n).foldl (fun (acc : State × List Byte × Bool) (b, k) =>
    let (s, d, bad) := acc.1.hbmRead (.portDie 0) (pieces (s.jAddr b) k)
    (s, acc.2.1 ++ d, acc.2.2 || bad)) (s, [], false)

/-- Bring the anchor's counters up to date (log entry 27); without a journal nothing is written. -/
def State.jAnchor (s : State) : State :=
  if !s.jHere then s
  else
    let s := s.jPut 0 (natLe 4 0x434C4F43 ++ natLe 2 1)
    let s := s.jPut 8 (natLe 8 (s.reg .clFlushCount) ++ natLe 8 (s.reg .clOldest) ++ natLe 8 (s.reg .clWrite) ++ natLe 8 s.nextJsn)
    s.jPut 0x2C (natLe 4 (s.fld .clCfg 0 10))

/-- Bytes of an entry of n item bytes (R378). -/
def entSize (n : Nat) : Nat := 64 * cdiv (32 + n) 64
/-- Free space of the entry ring (R379). -/
def State.jFree (s : State) : Nat :=
  s.jRing - (if s.jRing == 0 then 0 else (s.reg .clWrite + s.jRing - s.reg .clOldest) % s.jRing)
/-- An entry header without CHECK, and its CHECK (R378). -/
def jHead (typ flags queue len jsn ctx msn : Nat) : List Byte :=
  natLe 1 typ ++ natLe 1 flags ++ natLe 2 queue ++ natLe 4 len ++ natLe 8 jsn ++ natLe 4 ctx ++ natLe 4 msn
/-- The whole of an entry's bytes. -/
def JEnt.bytes (e : JEnt) (partner : Bool) (item : List Byte) : List Byte :=
  let h := jHead (if e.pad then 0 else 1) partner.toNat e.queue e.len e.jsn e.ctx e.msn
  let check := (crc32c (h ++ (if e.pad then [] else item))).toNat
  slice (h ++ natLe 4 e.ord ++ natLe 4 check ++ item) 0 (if e.pad then 32 else e.size)

/-- Append a PAD to the ring's end when an entry of n bytes does not fit before it (R378). -/
def State.jPad (s : State) (n : Nat) : State :=
  let w := s.reg .clWrite
  if w + n ≤ s.jBytes then s
  else
    let e : JEnt := { off := w, size := s.jBytes - w, queue := 0, ctx := 0, msn := 0, jsn := s.nextJsn, len := s.jBytes - w - 32, ord := 0,
                      pad := true, complete := true, released := true }
    let s := s.jPut w (e.bytes false [])
    { s.setReg .clWrite jStart with journal := s.journal ++ [e], nextJsn := s.nextJsn + 1 }
/-- An entry for an item starts: every granule but the first is written (R379). Its JSN names it. -/
def State.jBegin (s : State) (queue ctx msn ord : Nat) (partner : Bool) (item : List Byte) : State × Nat :=
  let n := entSize item.length
  let s := s.jPad n
  let w := s.reg .clWrite
  let e : JEnt := { off := w, size := n, queue := queue, ctx := ctx, msn := msn, jsn := s.nextJsn, len := item.length, ord := ord,
                    partner := partner }
  let s := s.jPut (w + 64) ((e.bytes partner item).drop 64)
  let s := { s.setReg .clWrite (if w + n == s.jBytes then jStart else w + n) with journal := s.journal ++ [e], nextJsn := s.nextJsn + 1 }
  (s.jAnchor, e.jsn)
/-- The first granule is written: the entry is complete. -/
def State.jComplete (s : State) (jsn : Nat) (partner : Bool) (item : List Byte) : State :=
  match s.journal.find? fun e => e.jsn == jsn && !e.pad with
  | none => s
  | some e =>
    let s := (s.jPut e.off ((e.bytes partner item).take 64)).count .clJournalled 1
    { s with journal := replaceFirst (fun (x : JEnt) => x.jsn == jsn) (fun x => { x with complete := true }) s.journal }
/-- ORD becomes known (R379). -/
def State.jOrd (s : State) (jsn ord : Nat) : State :=
  match s.journal.find? fun e => e.jsn == jsn with
  | none => s
  | some e => { s.jPut (e.off + 0x18) (natLe 4 ord) with
                journal := replaceFirst (fun (x : JEnt) => x.jsn == jsn) (fun x => { x with ord := ord }) s.journal }
/-- OLDEST passes released entries (R380). -/
def State.jAdvance (s : State) : State :=
  let rest := s.journal.dropWhile (·.released)
  let s := { s with journal := rest }
  (s.setReg .clOldest (match rest with
    | e :: _ => e.off
    | [] => s.reg .clWrite)).jAnchor
/-- Drop an entry whose item will not be delivered here, or whose copy HEAD has passed. -/
def State.jRelease (s : State) (p : JEnt → Bool) : State :=
  let n := (s.journal.filter fun e => p e && !e.released && !e.pad).length
  if n == 0 then s
  else ({ s with journal := s.journal.map fun e => if p e then { e with released := true } else e }.count .clReleased n).jAdvance
/-- HEAD of a queue has moved: entries whose delivered copy it has passed are released (R380). -/
def State.jHeadMoved (s : State) (q : Nat) : State :=
  let h := s.q .quHead 0 32 q
  s.jRelease fun e => e.queue == q && match e.tailAt with
    | some t => (h + 2 ^ 32 - t) % 2 ^ 32 < 2 ^ 31
    | none => false

/-- The commit record of job j goes to COMMIT(j) (R257, R377). -/
def State.jCommit (s : State) (j : Nat) (rec' : List Byte) : State :=
  if s.jHere then s.jPut (0x400 + 64 * j) rec' else s

/-- NEXT_MSN and the outcome window once the item of an MSN counts as accepted: NEXT_MSN is at least one more (R314, R385). -/
def msnReach (n : Nat) (w : BitVec 256) (msn : Nat) : Nat × BitVec 256 :=
  let d := (msn + 1 + 2 ^ 32 - n) % 2 ^ 32
  let (n, w) := if d < 2 ^ 31 then ((msn + 1) % 2 ^ 32, w >>> d) else (n, w)
  let k := (msn + 2 ^ 32 + 256 - n) % 2 ^ 32
  (n, if k < 256 then w ||| (1#256 <<< k) else w)
/-- NEXT_MSN and outcome window of a context: kept apart for a takeover context that is CLOSED here (R314, R360). -/
def State.msnOf (s : State) (c : Nat) : Nat × BitVec 256 :=
  match s.takeMsn.find? fun x => x.1 == c with
  | some x => x.2
  | none => ((s.ctx c).nextMsn, (s.ctx c).window)
/-- Write a context's MSN entry before an answer leaves (R381). -/
def State.jMsn (s : State) (c : Nat) : State :=
  match s.msnTab.find? fun x => x.2 == c with
  | some (e, _) =>
    let (n, w) := s.msnOf c
    if s.jHere then
      s.jPut (0x1000 + 64 * e) (natLe 4 (c + 2 ^ 31) ++ natLe 4 n ++ natLe 32 w.toNat ++ List.replicate 24 0)
    else s
  | none => s

end Sys2Proof.Machine
end

