-- ==== Sys2Proof/Machine/Digest.lean ====
section
/-! DEFINITION. The digests of twin operation: block, table, area and device digests (R363-R366). -/

namespace Sys2Proof.Machine

/-- A block digest: SHAKE256-128 over the block id and the records (R363). -/
def blockDigest (step table stack kind n : Nat) (recs : List Byte) : BitVec 128 :=
  BitVec.ofNat 128 (leNat (shake256 (natLe 4 step ++ natLe 2 table ++ natLe 1 stack ++ natLe 1 kind ++ natLe 8 n ++ recs) 16))
def xorAll (l : List (BitVec 128)) : BitVec 128 := l.foldl (· ^^^ ·) 0
/-- The record of a row: its index and its slot (R363). -/
def State.rowRec (s : State) (T : Tab) (i : Nat) : List Byte := natLe 8 i ++ s.hbmNow (s.current T i).2 T.slotSize
/-- Rows of table t on stack d that are hashed, in increasing index order: those job j's sweep has written, or for a baseline every
row (R363, R366). -/
def State.hashRows (s : State) (base : Bool) (j t d : Nat) : List Nat :=
  if base then (List.range ((s.tab t).rows + 1)).filter fun i => (s.current (s.tab t) i).1 == d
  else sortNat (((s.job j).wrote.filter fun (x : Touched) => x.table == t && x.die == d).map fun x => x.row)
/-- The blocks of those rows: the rows of each, and its digest. -/
def State.hashBlocks (s : State) (base : Bool) (j t d : Nat) : List (List Nat × BitVec 128) :=
  let T := s.tab t
  (chunks (1048576 / (8 + T.slotSize)) (s.hashRows base j t d)).zipIdx.map fun (l, n) =>
    (l, blockDigest (if base then 0 else s.step j) t d (if base then 2 else 0) n (l.flatMap (s.rowRec T)))
/-- XOR of all of them. -/
def State.tabHash (s : State) (base : Bool) (j t : Nat) : BitVec 128 :=
  xorAll ((List.range 16).flatMap fun d => (s.hashBlocks base j t d).map (·.2))
/-- TD(t) with the rows that job j's sweep has written (R363). -/
def State.tdNew (s : State) (j t : Nat) : BitVec 128 := kget s.td t 0 ^^^ s.tabHash false j t
/-- The digest of block b of area k (R364). -/
def State.areaBlock (s : State) (k step b : Nat) : BitVec 128 :=
  blockDigest step k (b % 16) 1 b (s.hbmNow (s.fld .twAreaAddr 0 48 k + b * 2 ^ 20) (2 ^ 20))
/-- AD(k) as last hashed. -/
def State.adOf (s : State) (k : Nat) : BitVec 128 := xorAll (kget s.ad k [])
/-- The areas of a job. -/
def State.areasOf (s : State) (j : Nat) : List Nat :=
  (List.range 16).filter fun k => s.reg .twAreaLen k != 0 && s.fld .twAreaAddr 48 4 k == j
/-- Hash the areas of job j anew: base die b mod 16 reads and hashes block b. -/
def State.hashAreas (s : State) (j : Nat) : State :=
  (s.areasOf j).foldl (fun s k =>
    let s := (List.range (s.reg .twAreaLen k)).foldl (fun (s : State) b =>
      s.readAll (.baseDie (Fin.ofNat 16 b)) (s.fld .twAreaAddr 0 48 k + b * 2 ^ 20) (2 ^ 20)) s
    { s with ad := kput s.ad k ((List.range (s.reg .twAreaLen k)).map (s.areaBlock k (s.step j))) }) s
/-- The device digest (R365). -/
def State.ddOf (s : State) (j : Nat) : List Byte :=
  shake256 (natLe 4 (s.step j) ++ natLe 2 j ++
    (s.tablesOf j).flatMap (fun t => [0] ++ natLe 2 t ++ natLe 16 (s.tdNew j t).toNat) ++
    (s.areasOf j).flatMap (fun k => [1] ++ natLe 2 k ++ natLe 16 (s.adOf k).toNat)) 32
/-- The table digests of the step take effect at the commit. -/
def State.tdCommit (s : State) (j : Nat) : State :=
  (distinct ((s.job j).wrote.map fun (x : Touched) => x.table)).foldl (fun s t => { s with td := kputD s.td t (s.tdNew j t) 0 }) s
/-- Every open table. -/
def State.openTables (s : State) : List Nat := (List.range 65536).filter fun t => s.tabOpen (s.tab t)
/-- Each row's base die reads its slot: base dies, addresses and lengths. -/
def State.readRows (s : State) (l : List (Nat × Nat × Nat)) : State :=
  l.foldl (fun s x => s.reads (.baseDie (Fin.ofNat 16 x.1)) [x.2]) s
/-- The slots of every row of table t, the default row's included, where they are. -/
def State.tableSlots (s : State) (t : Nat) : List (Nat × Nat × Nat) :=
  let T := s.tab t
  (List.range (T.rows + 1)).map fun i => ((s.current T i).1, (s.current T i).2, T.slotSize)
/-- Every open table is read and hashed whole: TD(t) is the XOR of its blocks of kind 2 (R366). -/
def State.hashTables (s : State) : State :=
  s.openTables.foldl (fun (s : State) t =>
    let s := s.readRows (s.tableSlots t)
    { s with td := kputD s.td t (s.tabHash true 0 t) 0 }) s
/-- Jobs that take part in twin operation: every open one. -/
def State.twinJobs (s : State) : List Nat := (List.range 16).filter fun j => s.phase j != 0

end Sys2Proof.Machine
end

