-- ==== Sys2Proof/Machine/Guard.lean ====
section
/-! DEFINITION. Guard entries, and the completion of commands with their result records (R234, R235, R316, R317). -/

namespace Sys2Proof.Machine

/-- STATE, GEN, ADDR and LEN of guard entry g, which port die 0 holds. -/
def State.guardSt (s : State) (g : Nat) : Nat := s.fld .guCtl 24 2 g
def State.setGuardSt (s : State) (g v : Nat) : State := s.setFld .guCtl 24 2 v g
def State.guardGen (s : State) (g : Nat) : Nat := s.fld .guCtl 32 32 g

/-- GUARD_ARM (R316). -/
def State.guardArm (s : State) (g : Nat) : State :=
  if s.guardSt g == 0 then s.setGuardSt g 1 else s.setFld .guCtl 30 1 1 g
/-- A generation completes in FREE or OPEN: GEN + 1, READY. -/
def State.guardReady (s : State) (g : Nat) : State := (s.addFld .guCtl 32 32 1 g).setGuardSt g 2
/-- The fields every command has (R232). -/
def Cmd.op (c : Cmd) : Nat := fldLe c.bytes 0 1
def Cmd.job (c : Cmd) : Nat := fldLe c.bytes 1 1 % 16
def Cmd.result (c : Cmd) : Nat := fldLe c.bytes 8 6

/-- The entries whose ADDR is a command's RESULT. -/
def State.guardsAt (s : State) (a : Nat) : List Nat :=
  if a == 0 then []
  else ((s.regs.filter fun (x : Nat × BitVec 64) => RegKind.guAddr.at 0 ≤ x.1 && x.1 < RegKind.guAddr.at 4096 && x.2.toNat == a &&
      (x.1 - RegKind.guAddr.at 0) % 16 == 0).map fun x => (x.1 - RegKind.guAddr.at 0) / 16)

/-- The entries whose ADDR is the buffer of a report, which may lie at address 0 (R456). -/
def State.guardsBuf (s : State) (a : Nat) : List Nat := if a == 0 then (List.range 4096).filter fun g => s.reg .guAddr g == 0 else s.guardsAt a

/-- The entries that a held-back completion concerns: the one written, or those of the command's result. -/
def State.defersAt (s : State) (d : Deferred) : List Nat := match d.cmd with
  | some c => s.guardsAt c.result
  | none => [d.guard]
/-- A completion waits at entry g. -/
def State.waitsAt (s : State) (g : Nat) : Bool := s.deferred.any fun d => (s.defersAt d).contains g
/-- Entry g takes a completion at once: it is FREE or OPEN, and none that came earlier waits there (R316). -/
def State.guardTakes (s : State) (g : Nat) : Bool := s.guardSt g ≤ 1 && !s.waitsAt g
/-- DEFERRED of the entries shows whether a completion waits there. -/
def State.showDeferred (s : State) (l : List Nat) : State := l.foldl (fun s g => s.setFld .guCtl 29 1 (s.waitsAt g).toNat g) s
/-- Hold a completion back until every entry it concerns is released (R317). -/
def State.defer (s : State) (d : Deferred) : State :=
  let s := { s with deferred := s.deferred ++ [d] }
  s.showDeferred (s.defersAt d)
/-- GUARD_COMPLETE. -/
def State.guardComplete (s : State) (g : Nat) : State :=
  if s.guardTakes g then s.guardReady g else s.defer { guard := g, cmd := none }

/-- The result record (R235). -/
def State.resultRec (s : State) (c : Cmd) (status detail : Nat) : List Byte :=
  slice c.bytes 4 4 ++ natLe 2 status ++ natLe 1 c.op ++ [0] ++ natLe 4 (s.step c.job) ++ natLe 4 detail
/-- Write the record, with what follows it, complete the guards, and forget the command. -/
def State.writeResult (s : State) (c : Cmd) (status detail : Nat) (more : List Byte) : State :=
  let s := if c.result == 0 then s else s.memWrite .mgmt c.result (s.resultRec c status detail ++ more)
  let s := (s.guardsAt c.result).foldl (fun s g => if s.guardSt g ≤ 1 then s.guardReady g else s) s
  { s with running := s.running.filter fun x => x.id != c.id }
/-- A command completes, or its completion is deferred by an entry that is READY or HELD, or at which one waits (R316, R317). -/
def State.completeCmd (s : State) (c : Cmd) (status : Nat) (detail : Nat := 0) (more : List Byte := []) : State :=
  if (s.guardsAt c.result).all s.guardTakes then s.writeResult c status detail more
  else s.defer { guard := 0, cmd := some c, status := status, detail := detail, more := more }

/-- Place of the first completion that can apply now: every entry it concerns is FREE or OPEN, and no earlier one waits at any of them. -/
def State.nextDeferred (s : State) : List Deferred → List Nat → Nat → Option (Deferred × Nat)
  | [], _, _ => none
  | d :: r, before, i =>
    let gs := s.defersAt d
    if gs.all fun g => s.guardSt g ≤ 1 && !before.contains g then some (d, i) else s.nextDeferred r (before ++ gs) (i + 1)
/-- Completions apply as far as they can, in the order they came. -/
def State.guardNext (s : State) : Nat → State
  | 0 => s
  | f + 1 =>
    match s.nextDeferred s.deferred [] 0 with
    | none => s
    | some (d, i) =>
      let gs := s.defersAt d
      let s := { s with deferred := s.deferred.eraseIdx i }
      let s := match d.cmd with
        | none => s.guardReady d.guard
        | some c => s.writeResult c d.status d.detail d.more
      (s.showDeferred gs).guardNext f
/-- RELEASE: FREE, then the completion that waits for the entry applies (R316, R317). -/
def State.guardRelease (s : State) (g : Nat) : State :=
  if s.guardSt g ≤ 1 then s
  else
    let s := s.setGuardSt g 0
    (s.guardNext s.deferred.length).showDeferred [g]

/-- A guarded READ of [a, a + n) (R316): STATUS, GEN, and whether data are returned. -/
def State.guardRead (s : State) (g a n : Nat) : State × Nat × Nat × Bool :=
  let base := s.fld .guAddr 0 48 g
  let len := s.fld .guCtl 0 24 g
  if !(base ≤ a && a + n ≤ base + len) then (s, 2, s.guardGen g, false)
  else if s.guardSt g ≥ 2 then (s.setGuardSt g 3, 0, s.guardGen g, true)
  else (s, 1, s.guardGen g, false)

end Sys2Proof.Machine
end

