-- ==== Sys2Proof/Machine/Resolve.lean ====
section
/-! DEFINITION. Resolving a difference between the devices of a pair, and the divergence that follows where one stays (R366-R369). -/

namespace Sys2Proof.Machine

/-- Copies brought over are written (R368, R373). -/
def State.copyIn (s : State) (l : List (Addr × List Byte)) : State :=
  l.foldl (fun (s : State) (x : Addr × List Byte) => s.twinPut x.2 x.1.toNat) s

/-- A MEM_UE event since the last commit lies on a granule of the n bytes at a (R368). -/
def State.ueOn (s : State) (a n : Nat) : Bool :=
  (List.range (cdiv (a % 64 + n) 64)).any fun k => (s.phys (a / 64 * 64 + 64 * k)).any fun p => s.ueSince.contains (p / 64)
/-- Whether the update recomputed from the retained slot and g gives the slot as it stands; none: the row is not retained (R368). -/
def State.recomputed (s : State) (j t i : Nat) : Option Bool :=
  let T := s.tab t
  (((s.job j).wrote.find? fun (x : Touched) => x.table == t && x.row == i).bind fun x => x.slot.map fun l => (l, x.g)).map fun (l, g) =>
    (T.updated ((T.consts (s.step j)).run fNone).1 (BitVec.ofNat 64 (s.reg .jKey j)) (s.step j) i l g).1 ==
      s.hbmNow (s.current T i).2 T.slotSize
/-- SHAKE256-128 of a row's index and slot (R367). -/
def rowDigest (rec' : List Byte) : BitVec 128 := BitVec.ofNat 128 (leNat (shake256 rec' 16))

/-! ### Narrowing (R367) -/

/-- Tables whose digests differ. -/
def State.diffTabs (s : State) (base : Bool) (j : Nat) (rep : Repair) : List Nat :=
  (s.tablesOf j).filter fun t => rep.tds.any fun x => x.1.toNat == t && x.2 != (if base then kget s.td t 0 else s.tdNew j t)
/-- Rows of the blocks of table t whose digests differ. -/
def State.diffBlocks (s : State) (base : Bool) (j : Nat) (rep : Repair) (t : Nat) : List Nat :=
  (List.range 16).flatMap fun d => (s.hashBlocks base j t d).zipIdx.flatMap fun (x, n) =>
    if rep.blocks.any fun b => b.1.toNat == t && b.2.1.val == d && b.2.2.1 == n && b.2.2.2 != x.2 then x.1 else []
/-- Rows of those blocks whose digests differ, with what the partner has. -/
def State.diffRows (s : State) (base : Bool) (j : Nat) (rep : Repair) (t : Nat) : List PeerRow :=
  (s.diffBlocks base j rep t).filterMap fun i => rep.rows.find? fun r =>
    r.table.toNat == t && r.index == i && rowDigest (natLe 8 i ++ r.slot) != rowDigest (s.rowRec (s.tab t) i)
/-- Blocks of the job's areas whose digests differ. -/
def State.diffAreas (s : State) (j : Nat) (rep : Repair) : List PeerBlock :=
  rep.areas.filter fun b => (s.areasOf j).contains b.area.val && ((kget s.ad b.area.val [])[b.block]?).any (· != b.digest)
/-- What this device sends of itself while the difference is narrowed. -/
def State.narrowing (s : State) (base : Bool) (j : Nat) (rep : Repair) : List TwMsg :=
  let step := s.step j
  let tabs := s.diffTabs base j rep
  [TwMsg.digests j step ((s.tablesOf j).map fun t => (t, if base then kget s.td t 0 else s.tdNew j t)) ((s.areasOf j).map fun k => (k, s.adOf k)),
   TwMsg.blocks j step (tabs.flatMap fun t => (List.range 16).flatMap fun d => (s.hashBlocks base j t d).zipIdx.map fun (x, n) => (t, d, n, x.2)),
   TwMsg.rows j step (tabs.flatMap fun t => (s.diffBlocks base j rep t).map fun i => (t, i, rowDigest (s.rowRec (s.tab t) i)))]

/-! ### Resolution (R368, R369) -/

/-- What becomes of a row or block that differs: this device copies, the partner does, or none: it stays unresolved. `redo` holds both
recomputations. -/
def State.copies (s : State) (j : Nat) (ownUe peerUe : Bool) (redo : Option (Bool × Bool)) : Option Bool :=
  if ownUe != peerUe then some ownUe
  else if s.twinMode == 2 then (if (s.job j).repaired then none else some s.roleB)
  else
    match redo with
    | some (own, peer) => if own == peer then none else some peer
    | none => none
/-- A MEM_UE event since the last commit lies on a row's slot, its retained copy or its staging (R368). -/
def State.rowUe (s : State) (j : Nat) (r : PeerRow) : Bool :=
  let T := s.tab r.table.toNat
  let mine (t i : Nat) : Bool := t == r.table.toNat && i == r.index
  s.ueOn (s.current T r.index).2 T.slotSize ||
    ((s.job j).wrote.any fun x => mine x.table x.row && x.slot.any fun l => s.ueOn x.at' (l.length + 4 * x.g.length)) ||
    (s.job j).stagedAt.any fun x => mine x.1 x.2.1 && s.ueOn x.2.2.1 x.2.2.2
def State.rowCopies (s : State) (base : Bool) (j : Nat) (r : PeerRow) : Option Bool :=
  s.copies j (s.rowUe j r) r.ue
    (if base then none else (s.recomputed j r.table.toNat r.index).bind fun own => r.agrees.map fun peer => (own, peer))
def State.areaCopies (s : State) (j : Nat) (b : PeerBlock) : Option Bool :=
  s.copies j (s.ueOn (s.fld .twAreaAddr 0 48 b.area.val + b.block * 2 ^ 20) (2 ^ 20)) b.ue none

/-- A difference stays (R369): both devices are DIVERGED, a COMMIT ends so, the job is STALLED. `first` names the kind, the table or area
and the index where the devices first differ. -/
def State.diverge (s : State) (j unresolved : Nat) (first : Nat × Nat × Nat) : State :=
  let c := (s.job j).commit
  let s := { s.setFld .twState 0 3 5 with baseline := none, peerBaseline := [], rejoining := false }
  let s := s.event srcMgmt 0x0905 (natLe 1 j ++ natLe 1 first.1 ++ natLe 2 first.2.1 ++ natLe 4 (s.step j) ++ natLe 8 first.2.2)
  let s := (s.setPhase j 6).modJob j fun J => { J with commit := none, diverged := true }
  match c with
  | some c => s.completeCmd c 8 (min unresolved (2 ^ 32 - 1))
  | none => s
/-- The partner's REPAIR READs of rows and blocks are answered (R346, R368). -/
def State.answerCopies (s : State) (rows : List PeerRow) (areas : List PeerBlock) : State :=
  let ps := rows.map (fun r => ((s.current (s.tab r.table.toNat) r.index).2, (s.tab r.table.toNat).slotSize)) ++
    areas.map fun b => (s.fld .twAreaAddr 0 48 b.area.val + b.block * 2 ^ 20, 2 ^ 20)
  let s := ps.foldl (fun (s : State) x => s.reads (.remote Config.partnerNode 0) [x]) s
  s.tell (ps.map fun x => TwMsg.repairData x.1 (s.hbmNow x.1 x.2))
/-- The copies of one round are read over REPAIR, written and hashed anew; each row or block adds 1 to REPAIRED. -/
def State.takeCopies (s : State) (base : Bool) (j : Nat) (rows : List PeerRow) (areas : List PeerBlock) : State :=
  let at' (r : PeerRow) : Nat := (s.current (s.tab r.table.toNat) r.index).2
  let aat (b : PeerBlock) : Nat := s.fld .twAreaAddr 0 48 b.area.val + b.block * 2 ^ 20
  let s := s.tell (rows.map (fun r => TwMsg.repairRead (at' r) (s.tab r.table.toNat).slotSize) ++ areas.map fun b => TwMsg.repairRead (aat b) (2 ^ 20))
  let put (s : State) (d a : Nat) (l : List Byte) : State := s.hbmWrite (.baseDie (Fin.ofNat 16 d)) l a (pieces a l.length)
  let s := rows.foldl (fun (s : State) r => put s (s.current (s.tab r.table.toNat) r.index).1 (at' r) r.slot) s
  let s := areas.foldl (fun (s : State) b =>
    let s := put s b.block (aat b) b.bytes
    { s with ad := kmod s.ad b.area.val [] fun l => l.set b.block (s.areaBlock b.area.val (s.step j) b.block) }) s
  let s := if base then s.hashTables else s
  let n := rows.length + areas.length
  if n == 0 then s
  else (s.count .twRepaired n).event srcMgmt 0x0904 (natLe 1 j ++ natLe 1 0 ++ natLe 2 0 ++ natLe 4 (s.step j) ++ natLe 8 n)
/-- The digests of job j differ: narrowed and resolved in one round, then both digests are exchanged again. -/
def State.resolveDiff (s : State) (base : Bool) (j : Nat) (rep : Repair) : State :=
  let tabs := s.diffTabs base j rep
  let rows := tabs.flatMap (s.diffRows base j rep)
  let areas := s.diffAreas j rep
  let blind := tabs.any fun t => s.diffBlocks base j rep t == []
  let s := s.tell (s.narrowing base j rep)
  -- the retained copies are read for the recomputation
  let s := ((s.job j).wrote.filter fun x => x.slot.isSome && rows.any fun r => r.table.toNat == x.table && r.index == x.row).foldl
    (fun (s : State) x => s.reads (.baseDie (Fin.ofNat 16 x.die)) [(x.at', (x.slot.map List.length).getD 0 + 4 * x.g.length)]) s
  let lost := rows.filter fun r => (s.rowCopies base j r).isNone
  let stuck := lost != [] || (areas.any fun b => (s.areaCopies j b).isNone) || blind
  if stuck || (s.job j).repaired then
    s.diverge j lost.length (match tabs, areas with
      | t :: _, _ => (0, t, ((rows.find? fun r => r.table.toNat == t).map (·.index)).getD 0)
      | [], b :: _ => (1, b.area.val, b.block)
      | [], [] => (0, 0, 0))
  else
    -- what the partner copies it reads here
    let s := s.answerCopies (rows.filter fun r => s.rowCopies base j r == some false) (areas.filter fun b => s.areaCopies j b == some false)
    let s := s.takeCopies base j (rows.filter fun r => s.rowCopies base j r == some true) (areas.filter fun b => s.areaCopies j b == some true)
    let d := s.ddOf j
    let s := s.modJob j fun J => { J with repaired := true }
    (if base then { s with baseline := s.baseline.map fun m => kput m j d, peerBaseline := kdel s.peerBaseline j }
      else s.modJob j fun J => { J with dd := some d, peerDd := none }).tell [TwMsg.digest j (s.step j) base d]

end Sys2Proof.Machine
end

