-- ==== Sys2Proof/Machine/Jobs.lean ====
section
/-! DEFINITION. Jobs: loss scaling, the vote and the step's fate, the update sweep's completion, and the commit
(R72-R75, R225, R230, R236, R250-R257, R361, R365, R369, R370, R373). -/

namespace Sys2Proof.Machine

/-! ### Loss scale (R73, R74, R77) -/

/-- MIN and MAX in use. -/
def State.lossLims (s : State) (j : Nat) : Int × Int :=
  if s.fld .jStatus 5 1 j == 1 then (0, 32) else (sext (s.fld .jLossLimits 0 8 j) 8, sext (s.fld .jLossLimits 8 8 j) 8)
def State.lossExp (s : State) (j : Nat) : Int := sext (s.fld .jLossScale 0 8 j) 8
/-- LOSS_SCALE_SET: SET_EXP, clamped, is pending (R74). -/
def State.lossSet (s : State) (j : Nat) : State :=
  let (lo, hi) := s.lossLims j
  let e := min (max (sext (s.fld .jLossScale 8 8 j) 8) lo) hi
  (s.setFld .jLossScale 17 1 1 j).modJob j fun J => { J with pend := some (toField e 8) }
/-- The update of R73. DESIGN CHOICE: with LOSS_DEFAULTED, N is 2,000 like every other default of R77, whichever field broke the range,
while LOSS_CLEAN.N still shows the image's value (log entry 120). -/
def State.lossUpdate (s : State) (j : Nat) (skip : Bool) : State :=
  let (lo, hi) := s.lossLims j
  let e := s.lossExp j
  if skip then
    let s := if e == lo then s.setFld .jLossScale 18 1 1 j else s.setFld .jLossScale 0 8 (toField (e - 1) 8) j
    s.setFld .jLossClean 0 16 0 j
  else
    let n := s.fld .jLossClean 16 16 j
    let n := if s.fld .jStatus 5 1 j == 1 || n == 0 then 2000 else n
    let c := s.fld .jLossClean 0 16 j + 1
    if c == n then (s.setFld .jLossScale 0 8 (toField (min (e + 1) hi) 8) j).setFld .jLossClean 0 16 0 j
    else s.setFld .jLossClean 0 16 c j

/-- ARRIVE: ARRIVED + 1, saturating (R239). -/
def State.arrive (s : State) (j : Nat) : State := s.satFld .jArrive 16 16 1 j

/-! ### The vote (R250-R254, R361) -/

/-- PHASE of every base die's embedding engine (R229). -/
def State.embPhase (s : State) (p : Nat) : State := (List.range 16).foldl (fun s d => s.setFld .emStatus 0 4 p d) s
/-- Members whose vote is missing. -/
def State.votesMissing (s : State) (j : Nat) : Nat :=
  ((s.members (s.jobGroup j)).filter fun n => !(s.job j).votes.any (·.1 == n)).length
def State.pairedMirror (s : State) : Bool := s.twin == 2 && s.twinMode == 1
/-- VOTE.MISSING: from STEP_START until the fate is known, the members whose vote is not here, this device among them (log entry 121). -/
def State.countVotes (s : State) (j : Nat) : State :=
  s.setFld .jVote 16 8 (if s.phase j == 2 || s.phase j == 3 then min (s.votesMissing j) 255 else 0) j
/-- The fate, once every vote is here; not while the partner still has the step before to commit (R251, R373). -/
def State.decide' (s : State) (j : Nat) : State :=
  let J := s.job j
  let s := s.countVotes j
  if s.phase j != 3 || !J.cast then s
  else
    if s.votesMissing j != 0 || (J.peerBehind && s.pairedMirror) || s.twin == 4 then s
    else (s.setFld .jStatus 4 1 (J.votes.any (·.2)).toNat j).setPhase j 4
/-- This device has abandoned the step under way: it goes no further here (R362). -/
def State.givenUp (s : State) (j : Nat) : Bool := (s.job j).abandoned.contains (s.step j)
/-- Everything a vote waits for (R251). -/
def State.voteReady (s : State) (j : Nat) : Bool :=
  let J := s.job j
  s.phase j == 3 && J.level1 && !J.cast && s.twin != 4 && !s.givenUp j && (J.buckets.all fun x => !x.2.isOpen || x.2.w.isSome) && s.l2Ready j
/-- This device finishes the step under way for the pair alone (R362). -/
def State.aloneNow (s : State) (j : Nat) : Bool := (s.job j).alone.contains (s.step j)
/-- Cast the vote and send it. -/
def State.castVote (s : State) (j : Nat) : State :=
  let J := s.job j
  let skip := J.evOf || J.evNv
  let s := s.modJob j fun J => { J with cast := true, votes := (s.selfNode, skip) :: J.votes.filter (·.1 != s.selfNode) }
  let s := s.postGroup j (s.jobGroup j) 0x10 (collHdr 4 j 0 (s.step j) 0 0 0 (if skip then 16 else 0))
  s.decide' j
/-- VOTE_CAST. In PAIRED MIRROR the partner's evidence joins this device's (R361), unless it votes alone (R362). -/
def State.voteCast (s : State) (j : Nat) : State :=
  if !s.voteReady j then s
  else
    let s := s.evid j (s.l2Evid j)
    if s.pairedMirror && !s.aloneNow j then
      let J := s.job j
      let s := if J.evSent then s
        else (s.modJob j fun J => { J with evSent := true }).tell [TwMsg.evidence j (s.step j) J.evOf J.evNv]
      match (s.job j).partnerEv with
      | some (st, o, n) => if st == s.step j then (s.evid j { ovf := o, inv := n }).castVote j else s
      | none => s
    else s.castVote j
/-- VOTE_TIMEOUT (R254); a FENCED device's SWEEP waits (R351). -/
def State.voteTimeout (s : State) (j : Nat) : State :=
  let miss := s.votesMissing j
  if s.phase j != 3 || !(s.job j).cast || miss == 0 || s.twin == 4 then s
  else
    let c := (s.job j).sweep
    let s := (s.setPhase j 6).modJob j fun J => { J with sweep := none }
    let s := s.event srcMgmt 0x0503 (natLe 1 j ++ natLe 1 miss ++ natLe 2 0 ++ natLe 4 (s.step j))
    match c with
    | some c => s.completeCmd c 7 miss
    | none => s

/-! ### The sweep ends (R215, R221) -/

/-- What SHADOW_DELTA sends of a row's slot. -/
def State.deltaOf (s : State) (x : Touched) : TwMsg := TwMsg.delta x.table x.row x.addr (s.hbmNow x.addr (s.tab x.table).slotSize)
/-- The rows a sweep has written, per table and stack, in index order (R363, R370). -/
def byIndex (l : List Touched) : List Touched :=
  (sortNat (l.map fun (x : Touched) => x.table)).flatMap fun t =>
    let l := l.filter fun (x : Touched) => x.table == t
    (List.range 16).flatMap fun d =>
      let l := l.filter fun (x : Touched) => x.die == d
      (sortNat (l.map fun (x : Touched) => x.row)).filterMap fun i => l.find? fun (x : Touched) => x.row == i
/-- SWEEP_UPDATE; a FENCED device's SWEEP waits (R351). -/
def State.sweepUpdate (s : State) (j : Nat) : State :=
  match (s.job j).sweep with
  | none => s
  | some c =>
    if s.phase j != 4 || !s.l2Done j || s.twin == 4 || s.givenUp j then s
    else
      let s := s.sweepRows j (s.fld .jStatus 4 1 j == 1)
      let s := s.embPhase 0
      -- SHADOW: the rows written go to the shadow (R370)
      let s := if s.twin == 2 && s.twinMode == 2 then
          let l := byIndex (s.job j).wrote
          let s := s.readRows (l.map fun x => (x.die, x.addr, (s.tab x.table).slotSize))
          s.tell (l.map s.deltaOf)
        else s
      let s := s.modJob j fun J => { J with sweep := none }
      s.completeCmd c 0

/-! ### Commit (R256, R257) -/

/-- Where the commit record of a step goes. -/
def State.commitAt (s : State) (j : Nat) : Nat := s.reg .jCommitBase j + 64 * (s.step j % 256)
/-- The directory version after the commit: its switch raises DV when rows move or FORWARD entries are freed (R224). -/
def State.dvNext (s : State) : Nat :=
  (s.reg .emDv + (if s.migDir.any fun (x : Nat × MigEnt) => (x.2.st == 1 && x.2.copy.isSome) || x.2.st == 4 then 1 else 0)) % 2 ^ 32
def State.commitRec (s : State) (j : Nat) (skip : Bool) (dd : Option (List Byte)) : List Byte :=
  natLe 4 (s.step j) ++ natLe 1 j ++
    natLe 1 (skip.toNat + 2 * dd.isSome.toNat + 4 * s.fld .jStatus 6 1 j) ++ natLe 1 (s.fld .jLossScale 0 8 j) ++ [0] ++
    natLe 2 (s.fld .jLossClean 0 16 j) ++ natLe 2 0 ++ natLe 4 s.dvNext ++ natLe 8 s.uptime ++ natLe 8 0 ++
    (dd.getD (List.replicate 32 0))
/-- Write it, also into the journal. -/
def State.putCommit (s : State) (j : Nat) (rec' : List Byte) : State :=
  (s.memWrite .mgmt (s.commitAt j) rec').jCommit j rec'

/-- Add the counts of a step to the table statistics (R230). -/
def State.tableStats (s : State) (j : Nat) : State :=
  (List.range 16).foldl (fun s d =>
    let E := s.emb d
    let tabs := sortNat ((E.defHits.map (·.1) ++ E.defGrads.map (·.1)).filter fun t => (s.tab t).job == j)
    let s := tabs.foldl (fun s t =>
      let a := s.reg .emDir d + 0x400000 + (t * 16 + d) * 16
      let (s, old) := s.memRead (.baseDie (Fin.ofNat 16 d)) a 16
      s.memWrite (.baseDie (Fin.ofNat 16 d)) a
        (natLe 8 (fldLe old 0 8 + kget E.defHits t 0) ++ natLe 8 (fldLe old 8 8 + kget E.defGrads t 0))) s
    s.modEmb d fun e => { e with defHits := e.defHits.filter fun x => !tabs.contains x.1,
                                 defGrads := e.defGrads.filter fun x => !tabs.contains x.1 }) s

/-- HEADs of the protected queues, for a commit notice (R370). -/
def State.protHeads (s : State) : List (Nat × Nat) :=
  ((s.regs.filter fun (x : Nat × BitVec 64) => (match regAt x.1 with
      | some (.quCfg, _, _) => true
      | _ => false))).filterMap fun x =>
    match regAt x.1 with
    | some (_, i, k) =>
      let q := i * 8192 + k
      if s.q .quStatus 0 1 q == 1 && s.fld .prCfg 14 1 0 (s.q .quCfg 2 6 q) == 1 then some (q, s.q .quHead 0 32 q) else none
    | none => none

/-- This device is the shadow of a pair (R370). -/
def State.isShadow (s : State) : Bool := s.twin == 2 && s.twinMode == 2 && s.roleB
/-- The entries in which directory b differs from a. -/
def dirDiff (a b : KMap MigEnt) : List (Nat × Option MigEnt) :=
  (a.filter fun (x : Nat × MigEnt) => !b.any fun y => y.1 == x.1).map (fun (x : Nat × MigEnt) => (x.1, none)) ++
    (b.filter fun (x : Nat × MigEnt) => !a.contains x).map fun (x : Nat × MigEnt) => (x.1, some x.2)
/-- Base die d moves a row from one slot to another. -/
def State.rowMove (s : State) (d : Nat) (T : Tab) (a b : Nat) : State :=
  if a == b then s
  else
    let who : Master := .baseDie (Fin.ofNat 16 d)
    let (s, bytes, _) := s.hbmRead who (pieces a T.stride)
    s.hbmWrite who bytes b (pieces b T.stride)
/-- Entries of the migration directory that the partner has changed (R370, R374). A shadow moves the rows too. -/
def State.dirApply (s : State) (moves : Bool) (l : List (Nat × Option MigEnt)) : State :=
  l.foldl (fun (s : State) (x : Nat × Option MigEnt) =>
    let old := (s.migDir.find? fun (y : Nat × MigEnt) => y.1 == x.1).map (·.2)
    let slots := match old with
      | some m => if m.st == 4 then s.migSlots.filter (fun (y : Nat × Nat) => y.1 != m.slot) else s.migSlots
      | none => s.migSlots
    match x.2 with
    | none =>
      let s := match old with
        | some m => if moves && m.st != 4 then s.rowMove (s.natural (s.tab m.table) m.index) (s.tab m.table) m.addr ((s.tab m.table).addr m.index) else s
        | none => s
      { s with migDir := kdel s.migDir x.1, migSlots := slots }
    | some m =>
      let T := s.tab m.table
      let s := if moves && m.st != 4 then s.rowMove m.stack T (s.current T m.index).2 m.addr else s
      let own := m.st == 4 || m.addr == T.addr m.index || slots.any fun y => y.1 == m.addr
      { s with migDir := kput s.migDir x.1 m, migSlots := if own then slots else slots ++ [(m.addr, T.stride)] }) s
/-- Steps 5 and 6 of R256: the step is committed, the job is IDLE, the command completes. -/
def State.commitDone (s : State) (j : Nat) : State :=
  let J := s.job j
  let skip := s.fld .jStatus 4 1 j == 1
  let st := s.step j
  let s := s.tdCommit j
  let s := if s.pairedMirror then
      s.tell [TwMsg.notice j st (s.fld .jLossScale 0 8 j) (s.fld .jLossClean 0 16 j) s.dvNext s.protHeads [] (J.dd.getD (List.replicate 32 0))]
    else s
  let s := s.setReg .jStep ((st + 1) % 2 ^ 32) j
  -- a shadow hashes its areas after applying them, for the next commit (R370)
  let s := if s.isShadow then s.hashAreas j else s
  -- a shadow's directory and rows change by what the active sends (R370)
  let s := (if s.isShadow then (s.dirApply true J.notice).modJob j fun J => { J with wrote := [], notice := [] } else s.migCommit).tableStats j
  let s := s.dropBuckets j
  let s := { s.modJob j (fun J => { J with commit := none, comparing := false, dd := none, peerDd := none, retOld := J.retNow,
                                           wroteOld := J.wrote, wrote := [],
                                           retNow := [], alone := J.alone.filter (· != st), abandoned := J.abandoned.filter (· != st),
                                           repaired := false, diverged := false, cast := false, level1 := false,
                                           peerBehind := s.pairedMirror && J.peerCommitted != some st }) with ueSince := [], scrubs := true }
  let s := ((s.setFld .jStatus 4 1 0 j).setPhase j 1).countVotes j
  match J.commit with
  | some c => s.completeCmd c (if skip then 6 else 0)
  | none => s

/-- The comparison of step 4 (R365-R369): without a partner, or when this device commits alone, there is none. -/
def State.commitCompare (s : State) (j : Nat) : State :=
  let J := s.job j
  let skip := s.fld .jStatus 4 1 j == 1
  match J.dd with
  | none => s.commitDone j
  | some dd =>
    if s.twin == 2 && !s.aloneNow j then
      match J.peerDd with
      | some (st, d, rep) =>
        if st != s.step j then s
        else if d == dd then (s.putCommit j (s.commitRec j skip (some dd))).commitDone j
        else s.resolveDiff false j rep
      | none => s
    else if s.twin == 3 || s.aloneNow j then (s.putCommit j (s.commitRec j skip (some dd))).commitDone j
    else s

/-- The port dies read the areas of a job to send them. -/
def State.readAreas (s : State) (j : Nat) : State :=
  (s.areasOf j).foldl (fun (s : State) k => s.readAll (.portDie 0) (s.fld .twAreaAddr 0 48 k) (s.reg .twAreaLen k * 2 ^ 20)) s
/-- The areas of a job with their bytes, as WRITEs of DELTA carry them (R370, R373). -/
def State.areaMsgs (s : State) (j : Nat) : List TwMsg :=
  (s.areasOf j).map fun k => TwMsg.area (s.fld .twAreaAddr 0 48 k) (s.hbmNow (s.fld .twAreaAddr 0 48 k) (s.reg .twAreaLen k * 2 ^ 20))
/-- Go on with a COMMIT that has started (R256); a FENCED device's waits (R351). -/
def State.commitStep (s : State) (j : Nat) : State :=
  let J := s.job j
  if J.commit.isNone || s.twin == 4 || s.givenUp j then s
  else if J.comparing then s.commitCompare j
  else if J.buckets.any fun x => x.2.isOpen && !x.2.complete then s
  else
    let skip := s.fld .jStatus 4 1 j == 1
    let s := s.lossUpdate j skip
    let s := if skip then s.count .jSkipped 1 j else s
    let s := s.putCommit j (s.commitRec j skip none)
    let dd := if s.twin == 0 then none else some (s.ddOf j)
    let s := s.modJob j fun J => { J with comparing := true, dd := dd }
    let s := match dd with
      | some d =>
        if s.twin == 2 && !s.aloneNow j then
          let shadow := s.twinMode == 2
          let s := if shadow then s.readAreas j else s
          let areas := if shadow then s.areaMsgs j else []
          let note := if shadow then [TwMsg.notice j (s.step j) (s.fld .jLossScale 0 8 j) (s.fld .jLossClean 0 16 j) s.dvNext s.protHeads (dirDiff s.migDir s.migCommit.migDir) d] else []
          s.tell (areas ++ note ++ [TwMsg.digest j (s.step j) false d])
        else s
      | none => s
    s.commitCompare j

/-- A VUPD writes bytes at offset `off` of its tile's memory (R148). -/
def EngOp.updates (o : EngOp) (off n : Nat) : Bool :=
  let cnt := o.word.f 0 14 + 1
  let hits (x : Opnd) (len : Nat) : Bool := match x with
    | .reg a => overlaps (rfBase + a) len off n
    | .oc a => off < rfBase && (List.range n).any fun i => (off + i + rfBase - a) % rfBase < len
    | .scal _ => false
  o.word.row == .vupd && (hits o.d (4 * cnt) || hits o.z (2 * cnt))
/-- A write of n bytes at a is in flight, or pending as a VUPD of a tile (R70). -/
def State.writePending (s : State) (a n : Nat) : Bool :=
  (match s.place a with
   | .tile c off => ((s.tile c).vq ++ (s.tile c).vrun).any fun o => o.updates off n
   | _ => false) ||
  s.tiles.any fun (x : Nat × Tile) =>
    (x.2.ops.any fun o => match o.kind with
      | .gst d => o.ans.isNone && overlaps o.addr d.length a n
      | _ => false) || x.2.outs.any fun (w : StreamWr) => overlaps w.addr w.data.length a n
/-- MASTER_SCRUB, once a step has been committed: a dense working copy that differs from its master's RNE conversion is rewritten; a pair
with a write in flight or pending is skipped (R70), one that State does not show, as `inFlight` says, too. DESIGN CHOICE: the event's SOURCE is the management engine (log entry 113). -/
def State.masterScrub (s : State) (master working : Nat) (inFlight : Bool) : State :=
  if inFlight || !s.scrubs || s.writePending master 4 || s.writePending working 2 then s
  else
    let (s, m) := s.memRead .mgmt master 4
    let (s, w) := s.memRead .mgmt working 2
    let want := natLe 2 (bf16Rne (leNat m)).1
    if w == want then s
    else (s.memWrite .mgmt working want).event srcMgmt 0x0205 (natLe 8 master ++ natLe 8 working)

end Sys2Proof.Machine
end

