-- ==== Sys2Proof/Machine/Collective.lean ====
section
/-! DEFINITION. COLLECTIVE commands on memory, and the COLLECTIVE and SPARSE_EXCHANGE segments a device receives, with those
that wait for their operation (R243-R246, R251, R258-R260, R318-R321). -/

namespace Sys2Proof.Machine

/-! ### COLLECTIVE commands (R259, R260) -/

def Coll.op (x : Coll) : Nat := fldLe x.cmd.bytes 0x10 1
def Coll.fmt (x : Coll) : Nat := fldLe x.cmd.bytes 0x12 1
def Coll.port (x : Coll) : Nat := fldLe x.cmd.bytes 0x13 1 % 2
def Coll.tensor (x : Coll) : Nat := fldLe x.cmd.bytes 0x14 3
def Coll.src (x : Coll) : Nat := fldLe x.cmd.bytes 0x18 8
def Coll.dst (x : Coll) : Nat := fldLe x.cmd.bytes 0x20 8
def Coll.countsAt (x : Coll) : Nat := fldLe x.cmd.bytes 0x28 8
def Coll.count (x : Coll) : Nat := fldLe x.cmd.bytes 0x30 4
def Coll.dstMax (x : Coll) : Nat := fldLe x.cmd.bytes 0x34 4
def Coll.rcounts (x : Coll) : Nat := fldLe x.cmd.bytes 0x38 8
/-- Element size of OP 0 and 1; source and result formats of OP 2 and 3. -/
def Coll.esz (x : Coll) : Nat := 2 ^ (x.fmt % 4)
def Coll.sbf (x : Coll) : Bool := x.fmt.testBit 0
def Coll.rbf (x : Coll) : Bool := x.fmt.testBit 1
def Coll.ssz (x : Coll) : Nat := if x.sbf then 2 else 4
def Coll.rsz (x : Coll) : Nat := if x.rbf then 2 else 4
def Coll.opid (x : Coll) : Nat := 0x8000 + x.seq % 0x8000
def Coll.who (x : Coll) : Master := .portDie (Fin.ofNat 2 x.port)

def State.modColl (s : State) (id : Nat) (f : Coll → Coll) : State :=
  { s with colls := replaceFirst (fun (x : Coll) => x.cmd.id == id) f s.colls }
def State.endColl (s : State) (x : Coll) (status detail : Nat) : State :=
  { s with colls := s.colls.filter fun (y : Coll) => y.cmd.id != x.cmd.id }.completeCmd x.cmd status detail

/-- Send bytes to a member as DATA packets. -/
def State.sendData (s : State) (x : Coll) (node : Nat) (bytes : List Byte) : State :=
  (chunks 8176 bytes).zipIdx.foldl (fun (s : State) (c : List Byte × Nat) =>
    let pay := collHdr 6 x.job x.opid (s.step x.job) (c.2 * 8176) c.1.length 0 0 ++ c.1
    s.postData x.job node x.port pay) s
def State.sendCount (s : State) (x : Coll) (node n : Nat) : State :=
  s.postNode x.job node 0x10 (collHdr 5 x.job x.opid (s.step x.job) 0 1 0 0 ++ natLe 4 n)

/-- The n elements that a collective engine reads at a: NaN where an uncorrectable granule holds part of one (R274). -/
def State.readElems (s : State) (m : Master) (fmt : Fmt) (w a n : Nat) : State × List Byte :=
  let (s, l) := (s.runs a (n * w)).foldl (fun (acc : State × List (Byte × Bool)) (x : Nat × Nat) =>
    match acc.1.place x.1 with
    | .hbm _ _ => let (s, l) := acc.1.readMarked m (pieces x.1 x.2); (s, acc.2 ++ l)
    | _ => let (s, l) := acc.1.memRead m x.1 x.2; (s, acc.2 ++ l.map fun b => (b, false))) (s, [])
  (s, (markedElems fmt.nan w n l).flatMap (natLe w))
/-- The command starts: what every member must know leaves at once. -/
def State.collStart (s : State) (c : Cmd) : State :=
  let g := fldLe c.bytes 0x11 1
  let j := c.job
  let x : Coll := { cmd := c, job := j, group := g, seq := kget (s.job j).collSeq g 0 }
  let s := s.modJob j fun J => { J with collSeq := kput J.collSeq g ((x.seq + 1) % 0x8000) }
  let P := s.groupSize g
  let me := s.groupRank g
  let others := (List.range P).filter (· != me)
  let node (k : Nat) : Nat := s.fld .member 0 16 g k
  if x.op ≤ 1 then
    let (s, sendN) := if x.op == 0 then (s, List.replicate P x.count)
      else let (s, l) := s.memRead x.who x.countsAt (4 * P); (s, elems 4 P l)
    let total := if x.op == 0 then x.count else sendN.sum
    let (s, bytes) := s.memRead x.who x.src (total * x.esz)
    let part (k : Nat) : List Byte :=
      if x.op == 0 then bytes else slice bytes ((sendN.take k).sum * x.esz) (sendN.getD k 0 * x.esz)
    let s := others.foldl (fun s k => (s.sendCount x (node k) (sendN.getD k 0)).sendData x (node k) (part k)) s
    { s with colls := s.colls ++ [{ x with own := part me, counts := [(me, sendN.getD me 0)], data := [(me, 0, part me)] }] }
  else
    let sf : Fmt := if x.sbf then .bf16 else .fp32
    let (s, bytes) := s.readElems x.who sf x.ssz x.src x.count
    let (s, shards) := if x.op == 3 && x.countsAt != 0 then
        let (s, l) := s.memRead x.who x.countsAt (4 * P); (s, elems 4 P l)
      else (s, evenShards x.count P)
    let (e, nv) := expReport ((elems x.ssz x.count bytes).map sf.decode)
    let r : CollReport := { rank := me, e := e, flags := if nv then 8 else 0 }
    let s := others.foldl (fun s k =>
      (s.sendCount x (node k) x.count).postNode j (node k) 0x10 (collHdr 1 j x.opid (s.step j) 0 0 e r.flags)) s
    { s with colls := s.colls ++ [{ x with own := bytes, shards := shards, counts := [(me, x.count)], reports := [r] }] }

/-- This device's sum of element e: its one contribution (R260). -/
def State.collOwn (s : State) (x : Coll) (e : Nat) : Win :=
  let sf : Fmt := if x.sbf then .bf16 else .fp32
  ({} : Win).add (x.w.getD (-128)) (s.groupSize x.group) (sf.decode (fldLe x.own (e * x.ssz) x.ssz))
    (srField (BitVec.ofNat 64 (s.reg .jKey x.job)) x.tensor (s.step x.job) e (srW true s.selfNode))

/-- Gather the bytes received from a rank, in order. -/
def Coll.bytesOf (x : Coll) (k n : Nat) : List Byte :=
  (x.data.filter fun d => d.1 == k).foldl (fun (l : List Byte) d => l.take d.2.1 ++ d.2.2 ++ l.drop (d.2.1 + d.2.2.length)) (List.replicate n 0)

/-- OP 0 and 1: complete once every count and every byte is here. -/
def State.moveStep (s : State) (x : Coll) : State :=
  let P := s.groupSize x.group
  let cnt (k : Nat) : Nat := ((x.counts.find? fun c => c.1 == k).map (·.2)).getD 0
  let have' (k : Nat) : Nat := ((x.data.filter fun d => d.1 == k).map fun d => d.2.2.length).sum
  if !((List.range P).all fun k => x.counts.any (fun c => c.1 == k) && have' k ≥ cnt k * x.esz) then s
  else
    let total := ((List.range P).map cnt).sum
    let all := (List.range P).flatMap fun k => slice (x.bytesOf k (cnt k * x.esz)) 0 (cnt k * x.esz)
    let out := all.take (x.dstMax * x.esz)
    let s := if out == [] then s else s.memWrite x.who x.dst out
    let s := if x.rcounts == 0 then s else s.memWrite x.who x.rcounts ((List.range P).flatMap fun k => natLe 4 (cnt k))
    if total > x.dstMax then s.endColl x 9 total else s.endColl x 0 0

/-- OP 2 and 3 after the handshake: reduce the own shard, then write once every result is here. -/
def State.reduceStep (s : State) (x : Coll) (W : Int) : State :=
  let g := x.group
  let P := s.groupSize g
  let me := s.groupRank g
  let others := (List.range P).filter (· != me)
  let first := shardFirst x.shards me
  let n := x.shards.getD me 0
  let (s, x) :=
    if x.shardSent || !(others.all fun k => runsFull x.runs k first n) then (s, x)
    else
      let EXP := if x.fmt.testBit 7 then sext (s.job x.job).exp 8 else 0
      let key := BitVec.ofNat 64 (s.reg .jKey x.job)
      let outs := (List.range n).map fun i =>
        let a := mergeRuns (s.collOwn x) x.runs others (first + i)
        let (_, v, f) := readOut a W EXP x.rbf (srField key x.tensor (s.step x.job) (first + i) 0)
        (v, f.or a.flags)
      let fl := x.flags ||| (orAll (outs.map (·.2))).bits
      let x := { x with shardSent := true, flags := fl, results := { rank := me, first := first, vals := outs.map fun o => some (o.1 : Int) } :: x.results }
      let s := if x.op == 2 then s.sendRuns 3 x.job g 65536 x.opid (s.step x.job) x.port W fl first x.rsz (outs.map fun o => (natLe x.rsz o.1, 0)) else s
      (s.modColl x.cmd.id fun _ => x, x)
  if !x.shardSent then s
  else if x.op == 3 then
    let bytes := (List.range n).flatMap fun i => natLe x.rsz (((runsAt x.results me (first + i)).getD none).getD 0).toNat
    (if n == 0 then s else s.memWrite x.who x.dst bytes).endColl x 0 x.flags
  else if (List.range P).all fun k => runsFull x.results k (shardFirst x.shards k) (x.shards.getD k 0) then
    let bytes := (List.range x.count).flatMap fun e =>
      natLe x.rsz (((List.range P).findSome? fun k => (runsAt x.results k e).map fun v => (v.getD 0).toNat).getD 0)
    (if x.count == 0 then s else s.memWrite x.who x.dst bytes).endColl x 0 x.flags
  else s

/-- Go on with a COLLECTIVE command. -/
def State.collStep (s : State) (id : Nat) : State :=
  match s.colls.find? fun (x : Coll) => x.cmd.id == id with
  | none => s
  | some x =>
    let P := s.groupSize x.group
    if x.op ≤ 1 then s.moveStep x
    else if x.counts.length < P then s
    else if x.counts.any fun c => c.2 != x.count then s.endColl x 5 0x30
    else
      match x.w with
      | some W => s.reduceStep x W
      | none =>
        if x.reports.length < P then s
        else
          let W := windowExp ((x.reports.map (·.e)).foldl max (-128)) P
          let fl := (x.reports.map (·.flags)).foldl (· ||| ·) x.flags ||| (if W.2 then 1 else 0)
          let x := { x with w := some W.1, flags := fl }
          let s := s.modColl id fun _ => x
          let others := (List.range P).filter (· != s.groupRank x.group)
          let s := others.foldl (fun s k =>
            s.sendRuns 2 x.job x.group (s.fld .member 0 16 x.group k) x.opid (s.step x.job) x.port W.1 0 (shardFirst x.shards k) 8
              ((List.range (x.shards.getD k 0)).map fun i => (s.collOwn x (shardFirst x.shards k + i)).wire)) s
          s.reduceStep x W.1

/-! ### Segments received (R318-R321) -/

/-- A COLLECTIVE header. -/
structure CHdr where
  kind : Nat
  job : Nat
  opid : Nat
  step : Nat
  elem : Nat
  count : Nat
  w : Int
  flags : Nat
def cHdr (l : List Byte) : CHdr :=
  { kind := fldLe l 0 1, job := fldLe l 1 1 % 16, opid := fldLe l 2 2, step := fldLe l 4 4, elem := fldLe l 8 4,
    count := fldLe l 0x0C 2, w := sext (fldLe l 0x0E 1) 8, flags := fldLe l 0x0F 1 }

/-- The values of a run: partials, or results of a given size. DESIGN CHOICE: R66 adds A directly when the windows are equal, which its
last sentence makes so; a PARTIAL whose header gives another W than the receiver's is added the same way, its W not looked at (log entry
120). -/
def runOf (h : CHdr) (rank sz : Nat) (l : List Byte) : CollRun :=
  let d := l.drop 16
  { rank := rank, first := h.elem, flags := h.flags % 16,
    vals := if h.kind == 2 then (elems 8 h.count d).map partialOf else (elems sz h.count d).map (fun (v : Nat) => some (Int.ofNat v)) }
/-- Whether a run brings an element a second time. -/
def runAgain (runs : List CollRun) (r : CollRun) : Bool := runs.any fun x => x.rank == r.rank && overlaps x.first x.vals.length r.first r.vals.length

/-- When a segment of job j and step st is handled: 0 discard, 1 now, 2 wait until its step starts. -/
def State.segTime (s : State) (j st : Nat) : Nat :=
  let p := s.phase j
  if p == 0 || p == 6 then 0
  else if st == s.step j then (if p == 1 then 2 else 1)
  else if stepBefore (s.step j) st then 2 else 0

/-- A bucket's segment (R243, R246, R258). -/
def State.bucketSeg (s : State) (src : Nat) (h : CHdr) (l : List Byte) : State :=
  let j := h.job
  let b := h.opid
  let B := s.bucket j b
  if !B.isOpen then s
  else
    let bad := (s.rogue (srcPort B.port) src 1 (0x100000 + s.bucketRank B * 256 + b)).count .coRogue 1 B.port |>.evid j fNV
    match s.rankOf B.group src with
    | none => bad
    | some k =>
      match h.kind with
      | 1 =>
        if B.reports.any (·.rank == k) then bad
        else
          let s := s.evid j (Flags.ofBits h.flags).ev
          (s.modBucket j b fun B => { B with reports := B.reports ++ [{ rank := k, e := h.w, flags := h.flags % 16 }] }).bucketShake j b
      | 2 =>
        let r := runOf h k 8 l
        if runAgain B.parts r then bad
        else ((s.count .coIn l.length B.port).modBucket j b fun B => { B with parts := B.parts ++ [r] }).bucketReduce j b
      | 3 =>
        let r := runOf h k B.rsz l
        if runAgain B.results r then s
        else (s.count .coIn l.length B.port).modBucket j b fun B => { B with results := B.results ++ [r] }
      | 7 => s.modBucket j b fun B =>
          { B with shardSums := if B.shardSums.any (·.1 == k) then B.shardSums else B.shardSums ++ [(k, fldLe l 16 4)] }
      | _ => s

/-- A contribution to a COLLECTIVE command from no member, or a member's second one, is discarded with NV (R62, R260). -/
def State.cmdRogue (s : State) (src : Nat) (x : Coll) : State :=
  ((s.rogue (srcPort x.port) src 1 x.tensor).count .coRogue 1 x.port).modColl x.cmd.id fun x => { x with flags := x.flags ||| 8 }
/-- A COLLECTIVE command's segment. -/
def State.cmdSeg (s : State) (src : Nat) (h : CHdr) (l : List Byte) (x : Coll) : State :=
  match s.rankOf x.group src with
  | none => if h.kind == 1 || h.kind == 2 then s.cmdRogue src x else s
  | some k =>
    let id := x.cmd.id
    if (h.kind == 1 && x.reports.any (·.rank == k)) || (h.kind == 2 && runAgain x.runs (runOf h k 8 l)) then s.cmdRogue src x
    else
    let s := if h.kind == 2 || h.kind == 3 || h.kind == 6 then s.count .coIn l.length x.port else s
    let s := s.modColl id fun x =>
      match h.kind with
      | 1 => { x with reports := x.reports ++ [{ rank := k, e := h.w, flags := h.flags % 16 }] }
      | 2 => { x with runs := x.runs ++ [runOf h k 8 l] }
      | 3 => { x with results := x.results ++ [runOf h k x.rsz l], flags := x.flags ||| h.flags % 16 }
      | 5 => if x.counts.any (·.1 == k) then x else { x with counts := x.counts ++ [(k, fldLe l 16 4)] }
      | 6 => { x with data := x.data ++ [(k, h.elem, slice (l.drop 16) 0 h.count)] }
      | _ => x
    s.collStep id

/-- A COLLECTIVE segment from a node: the state after it, or none while it waits (R318, R319). LIVE is handled apart (R362). -/
def State.collTake (s : State) (src : Nat) (l : List Byte) : Option State :=
  let h := cHdr l
  if h.kind == 4 then
    match s.segTime h.job h.step with
    | 2 => none
    | 1 =>
      let J := s.job h.job
      if (s.rankOf (s.jobGroup h.job) src).isNone || J.votes.any (·.1 == src) then some s
      else some ((s.modJob h.job fun J => { J with votes := J.votes ++ [(src, h.flags.testBit 4)] }).decide' h.job)
    | _ => some s
  else if h.opid < 0x8000 then
    match s.segTime h.job h.step with
    | 2 => none
    | 1 => some (s.bucketSeg src h l)
    | _ => some s
  else
    let mine (x : Coll) : Bool := x.job == h.job && x.opid == h.opid
    match s.colls.find? fun (x : Coll) => mine x && (s.rankOf x.group src).isSome with
    | some x => some (s.cmdSeg src h l x)
    | none =>
      let later := s.phase h.job != 0 && (List.range 64).any fun g =>
        s.groupOk g && (s.rankOf g src).isSome && (h.opid - 0x8000 + 0x8000 - kget (s.job h.job).collSeq g 0) % 0x8000 < 0x4000
      if later then none else some ((s.colls.find? mine).elim s fun x => s.cmdSeg src h l x)

/-- An L1 segment (R320, R321). DESIGN CHOICE: WINDOW_ROGUE_SOURCE for a level-2 contribution names base die (table mod 16) as its SOURCE,
since R62 names no unit (log entry 113). -/
def State.l1Take (s : State) (src : Nat) (l : List Byte) : Option State :=
  let kind := fldLe l 0 1
  let j := fldLe l 1 1 % 16
  let t := fldLe l 2 2
  let st := fldLe l 4 4
  let n := fldLe l 0x0C 2
  let d := l.drop 16
  match s.segTime j st with
  | 2 => none
  | 1 =>
    let unit := srcDie (t % 16)
    if (s.rankOf (s.jobGroup j) src).isNone then some ((s.rogue unit src 1 (0x030000 + t)).evid j fNV)
    else
      match kind with
      | 5 =>
        let reps := (List.range n).map fun i =>
          ({ src := src, table := fldLe d (4 * i) 2, e := sext (fldLe d (4 * i + 2) 1) 8, flags := fldLe d (4 * i + 3) 1 } : L2Report)
        some (s.modJob j fun J => { J with reports := J.reports ++ reps.filter fun r => !J.reports.any fun q => q.src == src && q.table == r.table })
      | 6 =>
        let dim := (s.tab t).dim
        let rows := (List.range n).map fun i =>
          ({ src := src, table := t, row := fldLe d (i * (8 + 2 * dim)) 8, vals := elems 2 dim (slice d (i * (8 + 2 * dim) + 8) (2 * dim)) } : L2Row)
        some (rows.foldl (fun s r => s.l2Add j 1 r) (s.modJob j fun J => { J with rowsIn := kmod J.rowsIn src 0 (· + n) }))
      | _ => some (s.modJob j fun J => { J with ends := if J.ends.any (·.1 == src) then J.ends else J.ends ++ [(src, fldLe d 0 8)] })
  | _ => some s

/-- A segment of either kind. -/
def State.segIn (s : State) (c : Nat) (op : Nat) (l : List Byte) : Option State :=
  if op == 0x10 then s.collTake (s.ctxPeer c) l else s.l1Take (s.ctxPeer c) l
/-- Take a segment, or leave it in the ingress buffer until its operation starts (R318). -/
def State.segKeep (s : State) (c op : Nat) (l : List Byte) : State :=
  match s.segIn c op l with
  | some s => s
  | none => { s with segWait := s.segWait ++ [(c, natLe 1 op ++ l)] }
/-- Try the segments that wait. -/
def State.segRetry (s : State) : State :=
  s.segWait.foldl (fun (s : State) (x : Nat × List Byte) => s.segKeep x.1 (fldLe x.2 0 1) (x.2.drop 1)) { s with segWait := [] }

end Sys2Proof.Machine
end

