-- ==== Sys2Proof/Machine/Loader.lean ====
section
/-! DEFINITION. Loading program images: the tiles' side and the loader's (R112-R119). -/

namespace Sys2Proof.Machine

/-! ### The descriptor (R112, R113) -/

/-- Segments in use: DEST, LENGTH, SOURCE. -/
def imgSegs (d : List Byte) : List (Nat × Nat × Nat) :=
  (List.range (min (fldLe d 6 2) 16)).map fun i => (fldLe d (0x100 + 16 * i) 4, fldLe d (0x104 + 16 * i) 4, fldLe d (0x108 + 16 * i) 4)
/-- A destination lies wholly in the operand cache, the register file or the instruction store. -/
def destIn (a n : Nat) : Bool :=
  a + n ≤ rfBase || (rfBase ≤ a && a + n ≤ rfBase + rfSize) || (isBase ≤ a && a + n ≤ 0x130000)
/-- The chunks a segment's source covers. -/
def segChunks (x : Nat × Nat × Nat) : List Nat := (List.range (x.2.1 / 4096)).map fun i => x.2.2 / 4096 + i
/-- The checks of R113. The bytes of SEGMENT entries that are not in use, and the reserved word of each entry, are listed, so they
need not be zero (log entry 110). -/
def imgOk (d : List Byte) (n : Nat) : Bool :=
  let k := fldLe d 6 2
  let segs := imgSegs d
  let cover := segs.flatMap segChunks
  fldLe d 0 4 == 0x54494C50 && fldLe d 4 2 == n && 2 ≤ n && n ≤ 305 && 1 ≤ k && k ≤ 16 &&
  ((List.range 8).all fun i => bits (fldLe d (0x10 + 2 * i) 2) 13 2 == 0) && ((slice d 0xA0 16).all fun b => b.toNat < 64) &&
  (slice d 8 8).all (· == 0) && (slice d 0x9E 2).all (· == 0) && (slice d 0xB0 0x50).all (· == 0) &&
  (slice d 0x200 0xE00).all (· == 0) &&
  (segs.all fun x => x.1 % 4096 == 0 && x.2.1 % 4096 == 0 && x.2.2 % 4096 == 0 && x.1 != 0 && x.2.1 != 0 && x.2.2 != 0 && destIn x.1 x.2.1) &&
  cover.length + 1 == n && (List.range (n - 1)).all fun c => cover.contains (c + 1)
/-- Where chunk c goes. -/
def imgPlace (d : List Byte) (c : Nat) : Option Nat :=
  ((imgSegs d).find? fun x => (segChunks x).contains c).map fun x => x.1 + c * 4096 - x.2.2
/-- Whether a chunk in `held` that a later segment places over chunk c's destination is here already: it stays (R113). -/
def imgCovered (d : List Byte) (held : List Nat) (c : Nat) : Bool :=
  let segs := imgSegs d
  match segs.findIdx? fun x => (segChunks x).contains c with
  | none => false
  | some i =>
    let a := (imgPlace d c).getD 0
    (segs.drop (i + 1)).any fun x => x.1 ≤ a && a < x.1 + x.2.1 && held.contains ((a - x.1 + x.2.2) / 4096)

/-! ### The tile's side (R114, R115, R117, R118) -/

/-- Kill every slot that is not IDLE (R114). -/
def killAll (T : Tile) : Tile × List TileOut :=
  (List.range 8).foldl (fun (x : Tile × List TileOut) k =>
    let (T, o) := killSlot x.1 k
    (T, x.2 ++ o)) (T, [])
/-- A chunk of load `id` arrives at the tile. A later chunk is written as it arrives, whatever else the descriptor holds, if its
segment places it in one of the tile's memories. -/
def chunkIn (T : Tile) (id c : Nat) (bytes : List Byte) : Tile × List TileOut :=
  if c == 0 then
    if T.loadId.toNat != id || T.imgState != 1 then
      let (T, o) := killAll T
      ({ T with mboxes := [], imgState := 1, loadId := BitVec.ofNat 16 id, chunks := [0], chunk0 := bytes, imgRound := 0, sealed := none }, o)
    else ({ T with chunk0 := bytes }, [])
  else if T.imgState != 1 || T.loadId.toNat != id then (T, [])
  else
    let T := match imgPlace T.chunk0 c with
      | some a => if destIn a 4096 && !imgCovered T.chunk0 T.chunks c then { T with mem := mputs T.mem a bytes } else T
      | none => T
    ({ T with chunks := insertNat c T.chunks }, [])
/-- Chunks of 0 to n − 1 that the tile lacks. -/
def missing (T : Tile) (id n : Nat) : List Nat :=
  let have' := T.loadId.toNat == id && (T.imgState == 1 || T.imgState == 2)
  (List.range n).filter fun c => !(have' && T.chunks.contains c)
/-- A seal message arrives. The descriptor is looked at only once every chunk is there: chunks that are missing are reason 2 even where
chunk 0 is bad as well (DESIGN CHOICE, log entry 111). -/
def sealIn (T : Tile) (id n round : Nat) (digest : List Byte) : Tile :=
  let T := if round > 0 then { T with imgRound := round } else T
  match missing T id n with
  | [] => { T with sealed := some { loadId := BitVec.ofNat 16 id, n := n, digest := digest } }
  | l => { T with reply := some { loadId := BitVec.ofNat 16 id, reason := 2, resend := l } }
/-- The image as the tile reads it back. -/
def readBack (T : Tile) (n : Nat) : List Byte :=
  slice T.chunk0 0 4096 ++ (List.range (n - 1)).flatMap fun c => mgets T.mem ((imgPlace T.chunk0 (c + 1)).getD 0) 4096
/-- IMAGE_HASH_DONE: hashing has ended (R115); a sealed image finds zeros in both weight buffers (R135). -/
def hashDone (T : Tile) : Tile :=
  match T.sealed with
  | none => T
  | some m =>
    let T := { T with sealed := none }
    if T.loadId != m.loadId || !(T.imgState == 1 || T.imgState == 2) then T
    else
      let reason := if !imgOk T.chunk0 m.n then 4 else if shake256 (readBack T m.n) 32 != m.digest then 3 else 0
      let reply : ImgReply := { loadId := m.loadId, reason := reason, resend := if reason == 0 then [] else List.range m.n }
      if reason != 0 then { T with reply := some reply }
      else
        let toks := (List.range 63).foldl (fun t i => kputD t (i + 1) (BitVec.ofNat 16 (fldLe T.chunk0 (0x20 + 2 * i) 2)) 0) []
        let mb := (List.range 16).foldl (fun t i => kputD t i (BitVec.ofNat 6 (fldLe T.chunk0 (0xA0 + i) 1)) 0) []
        { T with imgState := 2, reply := some reply, tokens := toks, mboxTok := mb, fpFlags := 0, wb0 := {}, wb1 := {} }
/-- START reaches the tile (R117). -/
def startIn (c : Nat) (T : Tile) : Tile :=
  if T.imgState != 2 then T
  else
    { T with imgState := 3,
             nextTask := T.nextTask + 8,
             slots := (List.range 8).foldl (fun m k =>
               let v := fldLe T.chunk0 (0x10 + 2 * k) 2
               let x : Slot := if v.testBit 15 then
                   (({ st := .live, pc := BitVec.ofNat 13 v, code := (T.slot k).code, task := T.nextTask + k } : Slot).setS 1 (BitVec.ofNat 32 c)).setS 2 (BitVec.ofNat 32 k)
                 else {}
               kputD m k x {}) [] }
/-- ABANDON reaches the tile (R118). A tile that got no chunk 0 still runs tasks: they are killed as R114 kills them, with their loads,
unsent messages and streams (DESIGN CHOICE, log entry 49). -/
def abandonIn (T : Tile) : Tile × List TileOut :=
  let (T, o) := killAll T
  ({ T with imgState := 4, slots := T.slots.filterMap fun (k, x) =>
      let y := { x with st := SlotSt.idle }
      if y == {} then none else some (k, y) }, o)

/-! ### The loader's side (R116, R118, R119) -/

/-- The next LOAD begins, if none runs. -/
def State.loadNext (s : State) : State :=
  match s.loader, s.loads with
  | none, c :: rest =>
    let at' := fldLe c.bytes 0x10 8
    let (s, head) := s.memRead .mgmt at' 4096
    let n := fldLe head 4 2
    let n := if 2 ≤ n && n ≤ 305 then n else 1
    let (s, body) := s.memRead .mgmt (at' + 4096) ((n - 1) * 4096)
    let tiles := rectOf (fldLe c.bytes 0x18 4)
    let image := head ++ body
    { s with loads := rest,
             loader := some { cmd := c, tiles := tiles, loadId := fldLe c.bytes 0x1C 2, nchunks := n, image := image, digest := shake256 image 32,
                              toSend := tiles.map fun t => (t, List.range n), seals := tiles, waiting := tiles } }
  | _, _ => s
/-- The load ends: the command completes and the next one begins. -/
def State.loadEnd (s : State) (L : Loader) : State :=
  let s := { s with loader := none }
  (if L.phase == 2 then s.completeCmd L.cmd 1 L.nfail L.failed else s.completeCmd L.cmd 0).loadNext
/-- One failure entry (R118). -/
def failEntry (t : Nat) (reason : Nat) (resend : List Nat) : List Byte := natLe 8 (t + reason * 4096 + resend.length * 65536)
/-- Every reply of the round is here, or its time has passed (R116). -/
def State.roundEnd (s : State) (L : Loader) : State :=
  let why (t : Nat) : Nat × List Nat := kget L.replies t (1, List.range L.nchunks)
  let failed := L.tiles.filter fun t => (why t).1 != 0
  if failed == [] then { s with loader := some { L with phase := 1, seals := L.tiles, waiting := [] } }
  else if L.round < 3 then
    { s with loader := some { L with round := L.round + 1, seals := failed, waiting := failed, replies := L.replies.filter (fun x => x.2.1 == 0),
                                     toSend := failed.map fun t => (t, (why t).2) } }
  else
    let list := natLe 8 failed.length ++ (sortNat' failed).flatMap fun t => failEntry t (why t).1 (why t).2
    { s with loader := some { L with phase := 2, seals := L.tiles, waiting := [], nfail := failed.length, failed := list } }
where
  /-- Tiles in increasing (y << 6) | x. -/
  sortNat' (l : List Nat) : List Nat := l.foldl (fun o x => insertNat x o) []

/-- CHUNK: chunk c reaches tile t; those before it in the round were lost (R467). -/
def State.chunkOp (s : State) (t c : Nat) : State :=
  match s.loader with
  | none => s
  | some L =>
    let l := kget L.toSend t []
    if L.phase != 0 || !l.contains c then s
    else
      let s := { s with loader := some { L with toSend := kput L.toSend t (l.dropWhile (· != c)).tail } }
      s.onTile t fun T => chunkIn T L.loadId c (slice L.image (4096 * c) 4096)
/-- SEAL: the seal message reaches tile t. -/
def State.sealOp (s : State) (t : Nat) : State :=
  match s.loader with
  | none => s
  | some L =>
    if L.phase != 0 || !L.seals.contains t then s
    else
      let s := { s with loader := some { L with seals := L.seals.erase t, toSend := kdel L.toSend t } }
      s.modTile t fun T => sealIn T L.loadId L.nchunks L.round L.digest
/-- LOADER_REPLY: tile t's reply reaches the loader. -/
def State.loaderReply (s : State) (t : Nat) : State :=
  match (s.tile t).reply with
  | none => s
  | some r =>
    let s := s.modTile t fun T => { T with reply := none }
    match s.loader with
    | none => s
    | some L =>
      if L.phase != 0 || r.loadId.toNat != L.loadId || !L.waiting.contains t then s
      else
        let L := { L with replies := kput L.replies t (r.reason, r.resend), waiting := L.waiting.erase t }
        if L.waiting == [] then s.roundEnd L else { s with loader := some L }
/-- LOADER_ROUND_TIMEOUT: 100 µs after the last seal. -/
def State.roundTimeout (s : State) : State :=
  match s.loader with
  | none => s
  | some L => if L.phase != 0 then s else s.roundEnd { L with waiting := [], seals := [] }
/-- START or ABANDON reaches tile t; the command completes when it has reached every tile (log entry 28). -/
def State.finalOp (s : State) (t phase : Nat) : State :=
  match s.loader with
  | none => s
  | some L =>
    if L.phase != phase || !L.seals.contains t then s
    else
      let s := if phase == 1 then s.modTile t (startIn t) else s.onTile t abandonIn
      let L := { L with seals := L.seals.erase t }
      if L.seals == [] then s.loadEnd L else { s with loader := some L }

end Sys2Proof.Machine
end

