-- ==== Sys2Proof/Machine/Commands.lean ====
section
/-! DEFINITION. The command processor: taking commands off COMMAND queues, their checks, and the start of each
(R231-R239, R255, R259, R326, R351, R364, R366, R373). -/

namespace Sys2Proof.Machine

/-! ### Taking a command (R232-R234, R326) -/

/-- Bytes of a queue's ring from byte counter `at'`. -/
def State.ringRead (s : State) (q at' n : Nat) : State × List Byte :=
  let size := 2 ^ s.q .quCfg 48 5 q
  let base := s.q .quRing 0 48 q
  let o := at' % size
  let k := min n (size - o)
  let (s, a) := s.memRead .mgmt (base + o) k
  let (s, b) := s.memRead .mgmt base (n - k)
  (s, a ++ b)
/-- HEAD of a queue takes a value, and the journal follows (R326, R380). -/
def State.headTo (s : State) (q v : Nat) : State := (s.setQ .quHead 0 32 q (v % 2 ^ 32)).jHeadMoved q
/-- Footprint of an item of n bytes (R324). -/
def footprint (n : Nat) : Nat := 64 * cdiv (16 + n) 64
/-- Where the front item of a COMMAND queue starts: HEAD has moved 64 bytes for each of its commands that has started. -/
def State.itemAtHead (s : State) (q : Nat) : Nat := (s.q .quHead 0 32 q + 2 ^ 32 - 64 * (kget s.cmdPos q (0, 0, 0)).1) % 2 ^ 32
/-- LENGTH and MSN of the front item: kept from its first command on, since HEAD frees its slot header then. -/
def State.itemHead (s : State) (q : Nat) : State × Nat × Nat :=
  match s.cmdPos.find? fun x => x.1 == q with
  | some (_, _, len, msn) => (s, len, msn)
  | none =>
    let (s, h) := s.ringRead q (s.itemAtHead q) 16
    (s, fldLe h 0 4, fldLe h 4 4)
/-- The command at the front of a queue. An item that holds none is passed over, trailing bytes are reported (R326). -/
def State.cmdFront (s : State) (q : Nat) : State × Option (List Byte) :=
  let head := s.itemAtHead q
  if s.q .quStatus 0 1 q == 0 || s.q .quCfg 0 2 q != 2 || head == s.q .quTail 0 32 q then (s, none)
  else
    let (s, len, msn) := s.itemHead q
    if len < 64 then
      let s := s.event srcMgmt 0x0504 (natLe 2 q ++ natLe 2 0 ++ natLe 4 msn)
      (s.headTo q (head + footprint len), none)
    else
      let (s, c) := s.ringRead q (head + 16 + 64 * (kget s.cmdPos q (0, 0, 0)).1) 64
      (s, some c)
/-- The front command starts: HEAD moves on 64 bytes, and past its item with the item's last command (log entry 29). -/
def State.cmdPass (s : State) (q : Nat) : State :=
  let head := s.itemAtHead q
  let (s, len, msn) := s.itemHead q
  let k := (kget s.cmdPos q (0, 0, 0)).1 + 1
  if 64 * (k + 1) ≤ len then { s with cmdPos := kput s.cmdPos q (k, len, msn) }.headTo q (head + 64 * k)
  else
    let s := if len % 64 == 0 then s else s.event srcMgmt 0x0504 (natLe 2 q ++ natLe 2 0 ++ natLe 4 msn)
    { s with cmdPos := kdel s.cmdPos q }.headTo q (head + footprint len)

/-- A rectangle coded as JOB(j).RECT is well formed (R263). -/
def rectOk (v : Nat) : Bool := v >>> 24 == 0 && bits v 0 6 ≤ bits v 12 6 && bits v 6 6 ≤ bits v 18 6 && bits v 18 6 ≤ 35

/-- The offset of the first byte that makes a command BAD_COMMAND (R232, R235). -/
def State.badByte (s : State) (c : List Byte) : Option Nat :=
  let op := fldLe c 0 1
  let j := fldLe c 1 1
  let from' := match op with
    | 2 => 0x1E
    | 3 => 0x18
    | 5 => 0x40
    | _ => 0x10
  let zero := [2, 3, 0x0E, 0x0F] ++ (List.range (0x40 - from')).map (from' + ·)
  ([(0, 1 ≤ op && op ≤ 6), (1, j < 16 && s.phase (j % 16) != 0)] ++ (zero.map fun (o : Nat) => ((o, fldLe c o 1 == 0) : Nat × Bool)) ++
    (if op == 5 then [(0x12, bits (fldLe c 0x12 1) 2 5 == 0), (0x13, fldLe c 0x13 1 < 2), (0x17, fldLe c 0x17 1 == 0)] else [])).find?
      (fun (x : Nat × Bool) => !x.2) |>.map (fun (x : Nat × Bool) => x.1)
/-- The offset of the first argument out of range (BAD_ARG). -/
def State.badArg (s : State) (c : List Byte) : Option Nat :=
  let addr (o : Nat) : Bool := fldLe c o 8 >>> 48 == 0
  let args : List (Nat × Bool) := match fldLe c 0 1 with
    | 2 => [(0x10, addr 0x10 && fldLe c 0x10 8 % 4096 == 0), (0x18, rectOk (fldLe c 0x18 4))]
    | 3 => [(0x10, fldLe c 0x10 4 == 0 || rectOk (fldLe c 0x10 4))]
    | 5 =>
      let op := fldLe c 0x10 1
      [(0x10, op ≤ 3), (0x11, fldLe c 0x11 1 < 64 && s.groupOk (fldLe c 0x11 1)), (0x18, addr 0x18), (0x20, addr 0x20),
       (0x28, addr 0x28 && (op == 1 || op == 3 || fldLe c 0x28 8 == 0)), (0x38, addr 0x38 && (op ≤ 1 || fldLe c 0x38 8 == 0))]
    | _ => []
  (([(8, fldLe c 8 8 % 16 == 0)] ++ args).find? fun (x : Nat × Bool) => !x.2).map (fun (x : Nat × Bool) => x.1)
/-- STATUS and DETAIL of a command that is turned away, in the order of the codes (R233, R235, R236, R351, R366). -/
def State.cmdBad (s : State) (q : Nat) (c : List Byte) : Option (Nat × Nat) :=
  let op := fldLe c 0 1
  let j := fldLe c 1 1 % 16
  let step := op == 1 || op == 3 || op == 4
  match s.badByte c with
  | some o => some (2, o)
  | none =>
    if s.q .quCfg 8 4 q != j || (step && s.fld .jCfg 0 14 j != q) then some (3, q)
    else
      let want := if op == 1 then 1 else if op == 3 then 2 else 4
      let absorb := op == 4 && (s.job j).absorb
      if step && !absorb && (s.phase j != want || s.twin == 4 || (op == 1 && s.twin != 0 && s.fld .twState 5 1 == 0)) then some (4, s.phase j)
      else (s.badArg c).map fun o => (5, o)

/-- Whether a command of this opcode must wait for those before it (R234), for a catch-up or a rejoin (R373, R374), or for
its arrivals (R239). -/
def State.cmdWaits (s : State) (q : Nat) (c : List Byte) : Bool :=
  let op := fldLe c 0 1
  let j := fldLe c 1 1 % 16
  let step := op == 1 || op == 3 || op == 4
  ((step || op == 6) && s.running.any fun x => x.queue == q) ||
  (step && s.givenUp j && s.twin != 4) || (op == 1 && s.rejoining) ||
  (op == 3 && (s.cmdBad q c).isNone && fldLe c 0x14 4 > s.fld .jArrive 16 16 j && !(s.job j).arrExpired)

/-- Take the front command of queue q when its opcode is wanted: turned away, or ready to start. An unallocated opcode is
turned away by any row. -/
def State.takeCmd (s : State) (q : Nat) (want : List Byte → Bool) : State × Option Cmd :=
  match s.cmdFront q with
  | (s, none) => (s, none)
  | (s, some b) =>
    let op := fldLe b 0 1
    let known := 1 ≤ op && op ≤ 6
    if (known && !want b) || s.cmdWaits q b then (s, none)
    else
      let c : Cmd := { id := s.nextCmd, queue := q, bytes := b }
      let bad := s.cmdBad q b
      let s := { s.cmdPass q with nextCmd := s.nextCmd + 1 }
      let s := { s with running := s.running ++ [c] }
      match bad with
      | some (st, d) => (s.completeCmd c st d, none)
      | none => (s, some c)
def wantOp (n : Nat) (b : List Byte) : Bool := fldLe b 0 1 == n

/-! ### STEP_START (R237) -/

/-- Entries staged for steps before the one that starts are gone (R207). -/
def State.stagePurge (s : State) (j : Nat) : State :=
  { s with stage := s.stage.filter fun e => !(e.job == j && stepBefore e.step (s.step j)) }
/-- Everything that belongs to one step starts afresh. -/
def State.jobFresh (s : State) (j : Nat) : State :=
  let live := (List.range 256).filterMap fun e =>
    let n := s.fld .twPeer 0 16 e
    if n == 0 then none else some (n, s.fld .twPeer 16 2 e)
  s.modJob j fun J =>
    { J with exp := s.fld .jLossScale 0 8 j, buckets := [], level1 := false, closedStep := none, arrExpired := false, comparing := false,
             cast := false, votes := [], evOf := false, evNv := false, evSent := false,
             partnerEv := J.partnerEv.filter (fun x => x.1 == s.step j), reports := [], rows := [], rowsIn := [], stagedAt := [], ends := [],
             fullDies := J.fullDies.filter (fun x => !stepBefore x.2 (s.step j)),
             poisonTabs := J.poisonTabs.filter (fun x => !stepBefore x.1 (s.step j)), wrote := [],
             absorb := false, repaired := false, dd := none, live := live.foldl (fun m x => kput m x.1 x.2) [] }
/-- The pending override applies (R74). -/
def State.lossApply (s : State) (j : Nat) : State :=
  match (s.job j).pend with
  | none => s
  | some e =>
    (((s.setFld .jLossScale 0 8 e j).setFld .jLossScale 17 1 0 j).setFld .jLossClean 0 16 0 j).modJob j fun J => { J with pend := none }
/-- The multicast of step 3 leaves for every tile of the rectangle. -/
def State.keySend (s : State) (j : Nat) : State :=
  let m : KeyMsg := { key := BitVec.ofNat 64 (s.reg .jKey j), step := BitVec.ofNat 32 (s.step j), ports := s.portBits j, token := s.fld .jCfg 20 6 j }
  (rectOf (s.reg .jRect j)).foldl (fun s t => s.modTile t fun T => { T with keyIn := T.keyIn ++ [m] }) s
/-- Step 4: the directory is read, migrations and pins begin, caches fill (R189, R201, R225, R227). -/
def State.stepTables (s : State) : State :=
  (List.range 16).foldl (fun s d => s.hotFill d) s.readDirectory.migBegin
/-- The actions of R237, and the areas of a twin job (R364). -/
def State.beginStep (s : State) (j : Nat) : State :=
  let s := (s.lossApply j).jobFresh j
  let s := (s.setFld .jArrive 16 16 0 j).readBuckets j
  let s := ((s.keySend j).stagePurge j).stepTables
  let s := if s.twin == 0 then s else s.hashAreas j
  let s := ((s.setFld .jStatus 4 1 0 j).setPhase j 2).countVotes j
  (s.embPhase 1).segRetry
/-- STEP_START. -/
def State.stepStart (s : State) (q : Nat) : State :=
  match s.takeCmd q (wantOp 1) with
  | (s, none) => s
  | (s, some c) => (s.beginStep c.job).completeCmd c 0

/-! ### SWEEP, COMMIT, FENCE, LOAD, COLLECTIVE -/

/-- SWEEP: level 1 runs on every staging die; the command completes after the vote (R212, R221, R251). -/
def State.sweepCmd (s : State) (q : Nat) : State :=
  match s.takeCmd q (wantOp 3) with
  | (s, none) => s
  | (s, some c) =>
    let j := c.job
    let rect := fldLe c.bytes 0x10 4
    let s := (s.setPhase j 3).modJob j fun J => { J with sweep := some c, arrExpired := false }
    if !s.stageServes j then (s.modJob j fun J => { J with closedStep := some (s.step j) }).embPhase 2
    else ((s.embPhase 2).level1 j (if rect == 0 then s.reg .jRect j else rect)).embPhase 3
/-- ARRIVALS_TIMEOUT: the SWEEP that waits on queue q starts anyway, with NV (R255). -/
def State.arrivalsTimeout (s : State) (q : Nat) : State :=
  match s.cmdFront q with
  | (s, none) => s
  | (s, some b) =>
    let j := fldLe b 1 1 % 16
    let need := fldLe b 0x14 4
    let got := s.fld .jArrive 16 16 j
    if !wantOp 3 b || (s.cmdBad q b).isSome || (s.running.any fun x => x.queue == q) || need ≤ got || (s.job j).arrExpired then s
    else
      let s := (s.evid j fNV).modJob j fun J => { J with arrExpired := true }
      s.event srcMgmt 0x0505 (natLe 1 j ++ natLe 1 0 ++ natLe 2 (min (need - got) 65535) ++ natLe 4 (s.step j))
/-- COMMIT: a COMMIT under way goes on; otherwise the front command starts. The first one after a catch-up is absorbed (R373). -/
def State.commitCmd (s : State) (q : Nat) : State :=
  match (List.range 16).find? fun j => match (s.job j).commit with
    | some c => c.queue == q
    | none => false with
  | some j => s.commitStep j
  | none =>
    match s.takeCmd q (wantOp 4) with
    | (s, none) => s
    | (s, some c) =>
      let j := c.job
      if (s.job j).absorb then (s.modJob j fun J => { J with absorb := false }).completeCmd c 0 1
      else ((s.setPhase j 5).modJob j fun J => { J with commit := some c }).commitStep j
/-- FENCE. -/
def State.fenceCmd (s : State) (q : Nat) : State :=
  match s.takeCmd q (wantOp 6) with
  | (s, none) => s
  | (s, some c) => s.completeCmd c 0
/-- LOAD joins the loader's line (R119). -/
def State.loadCmd (s : State) (q : Nat) : State :=
  match s.takeCmd q (wantOp 2) with
  | (s, none) => s
  | (s, some c) => { s with loads := s.loads ++ [c] }.loadNext
/-- A COLLECTIVE of operation `op`; an unallocated OP is turned away by any of them. -/
def State.collCmd (s : State) (q op : Nat) : State :=
  match s.takeCmd q fun b => wantOp 5 b && (fldLe b 0x10 1 == op || fldLe b 0x10 1 > 3) with
  | (s, none) => s
  | (s, some c) => ((s.collStart c).collStep c.id).segRetry

/-- JOB_KEY_MULTICAST: what STEP_START sent reaches a tile (R153, R237). -/
def State.keyArrive (s : State) (t : Nat) : State :=
  match (s.tile t).keyIn with
  | [] => s
  | m :: rest => s.modTile t fun T =>
      ({ T with keyIn := rest, jobKey := m.key, jobStep := m.step, jobPorts := m.ports } : Tile).incToken m.token 1

end Sys2Proof.Machine
end

