-- ==== Sys2Proof/Machine/Queue.lean ====
section
/-! DEFINITION. Queues and their promises: judging an item, accepting it, delivering it, HEAD, and egress (R324-R336, R342,
R313-R315, R357, R379, R389). -/

namespace Sys2Proof.Machine

/-! ### Queues and classes -/

def State.qKind (s : State) (q : Nat) : Nat := s.q .quCfg 0 2 q
def State.qClass (s : State) (q : Nat) : Nat := s.q .quCfg 2 6 q
def State.qRetry (s : State) (q : Nat) : Nat := s.q .quCfg 32 16 q
def State.qOpen (s : State) (q : Nat) : Bool := q < 16384 && s.q .quStatus 0 1 q == 1
def State.qSize (s : State) (q : Nat) : Nat := 2 ^ s.q .quCfg 48 5 q
def State.qDie (_ : State) (q : Nat) : Nat := q / 8192
def State.clsRate (s : State) (k : Nat) : Nat := s.fld .prCfg 0 14 0 k
def State.clsBurst (s : State) (k : Nat) : Nat := s.fld .prCfg 16 17 0 k * 1024
def State.qRate (s : State) (q : Nat) : Nat := s.clsRate (s.qClass q)
def State.qPromised (s : State) (q : Nat) : Bool := s.qRate q != 0
def State.qProtect (s : State) (q : Nat) : Bool := s.fld .prCfg 14 1 0 (s.qClass q) == 1
/-- Footprints reserved by items that are not delivered. -/
def State.qReserved (s : State) (q : Nat) : Nat :=
  ((s.items.filter fun (i : Item) => i.queue == q).map fun i => footprint i.len).sum
/-- ROOM that is not reserved (R324, R330). -/
def State.qRoom (s : State) (q : Nat) : Int :=
  (s.qSize q : Int) - ((s.q .quTail 0 32 q + 2 ^ 32 - s.q .quHead 0 32 q) % 2 ^ 32 : Nat) - (s.qReserved q : Nat)
/-- An item's charge (R329). -/
def charge (n : Nat) : Nat := n + 144 * cdiv n 8176
/-- Items wait for the partner: PAIRED, DIVERGED, or SOLO while a rejoin runs (R331, R357, R374). -/
def State.mirrors (s : State) : Bool := s.twin == 2 || s.twin == 5 || (s.twin == 3 && s.rejoining)
/-- A queue whose items are paired (R356). -/
def State.qPaired (s : State) (q : Nat) : Bool := s.twin != 0 && s.qProtect q
def State.modItem (s : State) (id : Nat) (f : Item → Item) : State :=
  { s with items := replaceFirst (fun (i : Item) => i.id == id) f s.items }
def State.itemAt (s : State) (p : Item → Bool) : Option Item := s.items.find? p

/-! ### Judging (R330) -/

/-- FLOOR_DIV, MESH_PCT and the promised SRAM in bytes; a value outside its range is read as its default (R344). -/
def State.qmDiv (s : State) : Nat := let d := s.fld .qmCfg 0 4 0; if d == 4 || d == 5 || d == 6 || d == 8 then d else 6
def State.qmPct (s : State) : Nat := let p := s.fld .qmCfg 4 6 0; if 1 ≤ p && p ≤ 50 then p else 10
def State.qmSram (s : State) (_ : Nat) : Nat := (let m := s.fld .qmCfg 10 6 0; if m ≤ 56 then m else 32) * 2 ^ 20

/-- Bytes of COLLECTIVE segments that wait for their operation in the ingress buffer of a port die (R318). -/
def State.segBytes (s : State) (p : Nat) : Nat :=
  ((s.ctxs.filter fun (x : Nat × Ctx) => s.ctxPort x.1 % 2 == p).map fun x =>
      ((x.2.held.filter fun (k : RxPkt) => k.op == 0x10).map fun (k : RxPkt) => k.pay.length).sum).sum +
    ((s.segWait.filter fun (x : Nat × List Byte) => s.ctxPort x.1 % 2 == p).map fun x => x.2.length).sum
/-- The ingress buffer outside the promised reservation holds n more bytes (R328, R334). -/
def State.unpromisedRoom (s : State) (p n : Nat) : Bool :=
  ((s.items.filter fun (i : Item) => s.qDie i.queue == p && !s.qPromised i.queue).map (·.len)).sum + s.segBytes p + n ≤
    Config.ingressSram - s.qmSram p
/-- REASON and RETRY_AFTER of an item of n bytes, charged for m; REASON 0: it conforms. -/
def State.judge (s : State) (q n m : Nat) : Nat × Nat :=
  let k := s.qClass q
  let C := charge m
  let F := footprint n
  let egress := s.qKind q == 3
  let tok := s.q .quTokens 0 64 q
  if !s.qOpen q then (2, 0)
  else if n == 0 then (5, 0)
  else if s.twin == 4 && s.qProtect q then (1, s.qRetry q)
  else if s.qPromised q && s.void then (4, 0)
  else if s.qPromised q && C > s.clsBurst k then (6, 0)
  else if (!egress && F > s.qSize q) || (s.qProtect q && entSize n > s.jRing) then (6, 0)
  else if s.qPromised q && tok < 80 * C then (1, max 1 (cdiv (cdiv (80 * C - tok) (s.qRate q)) 1000))
  else if !egress && s.qRoom q < F then (1, s.qRetry q)
  else if !s.qPromised q && !s.unpromisedRoom (s.qDie q) n then (1, s.qRetry q)
  else if s.qProtect q && s.jFree < entSize n then (1, s.qRetry q)
  else (0, 0)

/-! ### Answers and the outcome window (R314, R315) -/

/-- ACCEPT or REFUSE leaves on the context. -/
def State.answerItem (s : State) (c q msn reason retry : Nat) : State :=
  s.post c { op := if reason == 0 then 5 else 6, pay := natLe 2 q ++ natLe 1 reason ++ [0] ++ natLe 4 msn ++ natLe 4 retry ++ natLe 4 0 }
/-- NEXT_MSN takes the next number; the item just judged has bit 255. -/
def Ctx.msnNext (C : Ctx) : Ctx := { C with nextMsn := (C.nextMsn + 1) % 2 ^ 32, window := C.window >>> 1 }
/-- Set the outcome bit of an MSN inside the window. -/
def Ctx.msnAccept (C : Ctx) (msn : Nat) : Ctx :=
  let k := (msn + 2 ^ 32 + 256 - C.nextMsn) % 2 ^ 32
  if k < 256 then { C with window := C.window ||| (1#256 <<< k) } else C
/-- Refuse a judged item: counted, the MSN entry written, then answered. -/
def State.refuseItem (s : State) (c q msn reason retry : Nat) : State :=
  let s := if q < 16384 then s.setQ .quRefused 0 64 q (s.q .quRefused 0 64 q + 1) else s
  (s.jMsn c).answerItem c q msn reason retry
/-- An item that will not be accepted: its ROOM is given back, its journal entry released, the partner told (R331, R357). -/
def State.dropItem (s : State) (i : Item) : State :=
  let s := { s with items := s.items.filter fun (x : Item) => x.id != i.id }.giveCredit i.ctx i.units
  let s := match i.journal with
    | some j => s.jRelease fun e => e.jsn == j
    | none => s
  if i.origin == 0 && i.twinAck then s.tell [TwMsg.drop i.queue i.ctx i.msn] else s
/-- The packet of an item that waited at EXP has been processed. -/
def State.rxResolve (s : State) (id : Nat) : State :=
  match s.ctxs.find? fun (x : Nat × Ctx) => match x.2.rx with
      | some r => r.item == some id
      | none => false with
  | some (c, _) => s.modCtx c fun C => { C with rx := C.rx.map fun r => { r with item := none } }
  | none => s
/-- A conforming item is refused after all. -/
def State.refuseConforming (s : State) (i : Item) (reason retry : Nat) : State :=
  ((s.dropItem i).refuseItem i.ctx i.queue i.msn reason retry).rxResolve i.id

/-! ### SEND packets (R313, R314) -/

/-- Every byte of a conforming item is here: it is journalled and mirrored where its class asks (R357, R379). -/
def State.itemWhole (s : State) (id : Nat) : State :=
  match s.itemAt (·.id == id) with
  | none => s
  | some i =>
    let s := s.modItem id fun i => { i with complete := true }
    if !s.qProtect i.queue then s
    else
      let (s, jsn) := s.jBegin i.queue i.ctx i.msn (if s.twin == 0 then 0 else 2 ^ 32 - 1) false i.bytes
      let s := s.modItem id fun i => { i with journal := some jsn }
      if s.mirrors then (s.tell [TwMsg.item i.queue i.ctx i.msn 0 i.bytes]).count .twItems 1 else s
/-- The item a context is receiving breaks R313: what follows of it is discarded. -/
def State.rxBreak (s : State) (c : Nat) : State :=
  match (s.ctx c).rx with
  | none => s
  | some r =>
    let s := s.modCtx c fun C => { C with rx := some { r with item := none, whole := false } }
    match r.item.bind fun id => s.itemAt (·.id == id) with
    | some i => (s.dropItem i).refuseItem c i.queue i.msn 5 0
    | none => s
/-- The first packet of an item: treated by its MSN (R314). none: it waits for restored items of its queue (R389). -/
def State.sendFirst (s : State) (c : Nat) (first last : Bool) (q msn off len : Nat) (data : List Byte) : Option State :=
  let C := s.ctx c
  let d := (C.nextMsn + 2 ^ 32 - msn) % 2 ^ 32
  let skip (again : Bool) (s : State) : State :=
    if last then s
    else s.modCtx c fun C => { C with rx := some { queue := q, msn := msn, len := len, got := 0, item := none, again := again } }
  if d == 0 then
    if q < 16384 && s.items.any (fun (i : Item) => i.queue == q && i.origin == 2) then none
    else
      let bad := !first || off != 0 || data.length > len || data == [] || last != (data.length == len) || len > 16777216
      let m := if s.qKind q == 3 then fldLe data 0x10 4 else len
      let (why, retry) := if q ≥ 16384 then (7, 0)
        else
          let (w, t) := s.judge q len m
          if w != 2 && bad then (5, 0) else (w, t)
      let s := s.modCtx c Ctx.msnNext
      if why != 0 then some (skip false (s.refuseItem c q msn why retry))
      else
        let id := s.nextItem
        let i : Item := { id := id, queue := q, ctx := c, msn := msn, len := len, bytes := data }
        let s := { s with items := s.items ++ [i], nextItem := id + 1 }
        let s := if s.qPromised q then s.setQ .quTokens 0 64 q (s.q .quTokens 0 64 q - 80 * charge m) else s
        let s := s.modCtx c fun C =>
          { C with rx := some { queue := q, msn := msn, len := len, got := data.length, item := some id, whole := last } }
        some (if last then s.itemWhole id else s)
  else if d ≤ 256 then
    if C.window.toNat.testBit (256 - d) then some (if last then s.answerItem c q msn 0 0 else skip true s)
    else some (skip false (s.answerItem c q msn 1 0))
  else if d < 2 ^ 31 then some (skip false (s.answerItem c q msn 8 0))
  else some (skip false (s.answerItem c q msn 3 0))
/-- One SEND packet in PSN order. -/
def State.sendPkt (s : State) (c : Nat) (first last : Bool) (pay : List Byte) : Option State :=
  let q := fldLe pay 0 2
  let msn := fldLe pay 4 4
  let off := fldLe pay 8 4
  let len := fldLe pay 12 4
  let data := pay.drop 16
  match (s.ctx c).rx with
  | none => s.sendFirst c first last q msn off len data
  | some r =>
    if first then ((s.rxBreak c).modCtx c fun C => { C with rx := none }).sendFirst c first last q msn off len data
    else
      match r.item with
      | none =>
        if !last then some s
        else
          let s := s.modCtx c fun C => { C with rx := none }
          some (if r.again then s.answerItem c r.queue r.msn 0 0 else s)
      | some id =>
        let n := off + data.length
        let ok := q == r.queue && msn == r.msn && len == r.len && off == r.got && data != [] && n ≤ len && last == (n == len)
        if !ok then
          let s := s.rxBreak c
          some (if last then s.modCtx c fun C => { C with rx := none } else s)
        else
          let s := s.modItem id fun i => { i with bytes := i.bytes ++ data }
          let s := s.modCtx c fun C => { C with rx := some { r with got := n, whole := last } }
          some (if last then s.itemWhole id else s)

/-! ### Acceptance (R331, R357-R359) -/

/-- The next ORD of a paired queue, at the device that orders it. -/
def State.takeOrd (s : State) (q : Nat) : State × Nat :=
  let o := kget s.ordNext q 0
  ({ s with ordNext := kput s.ordNext q ((o + 1) % 2 ^ 32) }, o)
/-- This device orders paired queues: role A unless it is JOINING, or SOLO (R358, R359, R374). -/
def State.orders (s : State) : Bool := (!s.roleB && s.twin != 1) || s.twin == 3
/-- ORD of an item is known. -/
def State.itemOrd (s : State) (i : Item) (o : Nat) : State :=
  let s := s.modItem i.id fun x => { x with ord := some o }
  match i.journal with
  | some j => s.jOrd j o
  | none => s
/-- The item is accepted now: its bound starts, and an EGRESS item becomes a transfer. -/
def State.itemStart (s : State) (i : Item) : State :=
  let k := s.qClass i.queue
  let bound := s.fld .prBound (if s.qKind i.queue == 3 then 32 else 0) 32 0 k
  let dl := if s.qPromised i.queue then some (s.uptime + bound) else none
  let s := { s with acceptNo := s.acceptNo + 1 }
  if s.qKind i.queue == 3 then
    { s.giveCredit i.ctx i.units with
             items := s.items.filter (fun (x : Item) => x.id != i.id),
             egress := s.egress ++ [{ id := i.id, queue := i.queue, ctx := i.ctx, msn := i.msn, desc := i.bytes, deadline := dl }] }
  else s.modItem i.id fun x => { x with accepted := true, acceptNo := s.acceptNo, acceptAt := s.uptime, deadline := dl }
/-- Everything acceptance waits for (R331). -/
def State.acceptable (s : State) (i : Item) : Bool :=
  i.origin == 0 && i.complete && !i.accepted &&
    (!s.qProtect i.queue || (i.journalled && (!s.mirrors || i.twinAck) && s.twin != 4))
/-- ITEM_ACCEPT: the ACCEPT leaves. -/
def State.itemAccept (s : State) (c msn : Nat) : State :=
  match s.itemAt fun i => i.ctx == c && i.msn == msn && s.acceptable i with
  | none => s
  | some i =>
    let s := if s.qPaired i.queue && s.orders && i.ord.isNone then
        let (s, o) := s.takeOrd i.queue
        let s := s.itemOrd i o
        if s.mirrors then s.tell [TwMsg.order i.queue i.ctx i.msn o] else s
      else s
    let s := (s.itemAt (·.id == i.id)).elim s fun i => s.itemStart i
    let s := s.setQ .quAccepted 0 64 i.queue (s.q .quAccepted 0 64 i.queue + 1)
    let s := (s.modCtx c fun C => C.msnAccept msn).jMsn c
    (s.answerItem c i.queue msn 0 0).rxResolve i.id
/-- A context that this device holds for its partner, while it is CLOSED here (R360). -/
def State.isTake (s : State) (c : Nat) : Bool := s.fld .twTake 0 20 ≤ c && c < s.fld .twTake 0 20 + s.fld .twTake 20 21
/-- The outcome bit of an item of a takeover context, in its MSN entry too (R360, R381). -/
def State.takeBit (s : State) (c msn : Nat) (on' : Bool) : State :=
  match s.takeMsn.find? fun x => x.1 == c with
  | none =>
    -- the context is open by now: its own window takes the outcome
    if !s.isTake c || s.ctxSt c == 0 then s
    else (s.modCtx c fun C =>
      let k := (msn + 2 ^ 32 + 256 - C.nextMsn) % 2 ^ 32
      if on' then C.msnAccept msn else if k < 256 then { C with window := C.window &&& ~~~ (1#256 <<< k) } else C).jMsn c
  | some (_, n, w) =>
    let k := (msn + 2 ^ 32 + 256 - n) % 2 ^ 32
    if k < 256 then { s with takeMsn := kput s.takeMsn c (n, if on' then w ||| (1#256 <<< k) else w &&& ~~~ (1#256 <<< k)) }.jMsn c else s
/-- An ITEM of a takeover context has come: NEXT_MSN is one more than the highest MSN seen (R360), in its MSN entry too before the answer
leaves (R381). -/
def State.takeSeen (s : State) (c msn : Nat) : State :=
  if !s.isTake c then s
  else
    let m := (msn + 1) % 2 ^ 32
    match s.takeMsn.find? fun x => x.1 == c with
    | none => { s with takeMsn := kput s.takeMsn c (m, 0) }.jMsn c
    | some (_, n, w) =>
      if (m + 2 ^ 32 - n) % 2 ^ 32 < 2 ^ 31 then { s with takeMsn := kput s.takeMsn c (m, w >>> ((m + 2 ^ 32 - n) % 2 ^ 32)) }.jMsn c else s
/-- Copies acknowledged and never seen ordered follow the ordered ones, in the order acknowledged (R351, R359). -/
def State.orderCopies (s : State) : State :=
  let copies := s.items.filter fun (i : Item) => i.origin == 1 && i.twinAck && i.ord.isNone
  let sorted := copies.foldl (fun (o : List Item) (x : Item) =>
    o.takeWhile (fun (y : Item) => y.acceptNo ≤ x.acceptNo) ++ x :: o.dropWhile fun (y : Item) => y.acceptNo ≤ x.acceptNo) []
  sorted.foldl (fun (s : State) (i : Item) =>
    let (s, o) := s.takeOrd i.queue
    (s.itemOrd i o).itemStart { i with ord := some o }) s
/-- The partner's copy is acknowledged (R358); role A orders it and owes its delivery from now. A FENCED device delivers it all the same
(R351). -/
def State.ackCopy (s : State) (i : Item) : State :=
  let s := s.takeBit i.ctx i.msn true
  -- until it is accepted, the number an item holds is that of its acknowledgement (R359)
  let s := { s.modItem i.id fun x => { x with twinAck := true, acceptNo := s.acceptNo } with acceptNo := s.acceptNo + 1 }
  if s.orders then
    let (s, o) := s.takeOrd i.queue
    let s := (s.itemOrd i o).itemStart i
    s.tell [TwMsg.itemAck i.queue i.ctx i.msn o]
  else
    let s := s.tell [TwMsg.itemAck i.queue i.ctx i.msn 0]
    if s.twin == 4 then s.orderCopies else s
/-- JOURNAL_ENTRY_COMPLETE (R379). -/
def State.journalDone (s : State) (c msn : Nat) : State :=
  match s.itemAt fun i => i.ctx == c && i.msn == msn && i.journal.isSome && !i.journalled with
  | none => s
  | some i =>
    let s := s.jComplete (i.journal.getD 0) (i.origin == 1) i.bytes
    let s := s.modItem i.id fun x => { x with journalled := true }
    if i.origin == 1 then s.ackCopy { i with journalled := true } else s

/-! ### Delivery (R324, R325, R332, R333, R389) -/

/-- ORD a is before ORD b. -/
def ordBefore (a b : Nat) : Bool := let d := (b + 2 ^ 32 - a) % 2 ^ 32; 1 ≤ d && d < 2 ^ 31
/-- The item of queue q that is next in its order: ORD order in a paired queue, else acceptance order. Restored items come
first (R389). -/
def State.qNext (s : State) (q : Nat) : Option Item :=
  let l := s.items.filter fun (i : Item) => i.queue == q
  let first (lt : Item → Item → Bool) (l : List Item) : Option Item :=
    l.foldl (fun (b : Option Item) i => match b with
      | none => some i
      | some x => if lt i x then some i else some x) none
  match first (fun a b => a.acceptNo < b.acceptNo) (l.filter (·.origin == 2)) with
  | some i => some i
  | none =>
    if s.qPaired q then
      (first (fun a b => ordBefore (a.ord.getD 0) (b.ord.getD 0)) (l.filter (·.ord.isSome))).filter (·.accepted)
    else first (fun a b => a.acceptNo < b.acceptNo) (l.filter (·.accepted))
/-- The item a port die delivers next: earliest deadline first, ties to the lower queue id; items without a deadline come
last, oldest first. -/
def State.dieNext (s : State) (p : Nat) : Option Item :=
  let qs := distinct ((s.items.filter fun (i : Item) => s.qDie i.queue == p && s.qOpen i.queue).map (·.queue))
  let heads := (sortNat qs).filterMap s.qNext
  let key (i : Item) : Nat × Nat := match i.deadline with
    | some d => (0, d)
    | none => (1, i.acceptNo)
  heads.foldl (fun (b : Option Item) i => match b with
    | none => some i
    | some x => if (key i).1 < (key x).1 || ((key i).1 == (key x).1 && (key i).2 < (key x).2) then some i else some x) none
/-- Write ring bytes from byte counter `at'`. -/
def State.ringWrite' (s : State) (q at' : Nat) (data : List Byte) : State :=
  let size := s.qSize q
  let base := s.q .quRing 0 48 q
  let o := at' % size
  let k := min data.length (size - o)
  (s.memWrite (.portDie (Fin.ofNat 2 (s.qDie q))) (base + o) (data.take k)).memWrite (.portDie (Fin.ofNat 2 (s.qDie q))) base (data.drop k)
/-- Reading a spilled item back (R334): where it lies is private to Ryrax (log entry 83). -/
def State.spillRead (s : State) (i : Item) : State × Bool :=
  let p := s.qDie i.queue
  let size := s.fld .qmSpill 48 14 p * 2 ^ 20
  if s.q .quStatus 10 1 i.queue == 0 || size == 0 then (s, i.poisoned)
  else
    let (s, v) := s.freeNext
    let n := min i.len size
    let a := s.fld .qmSpill 0 48 p + (v.toNat % ((size - n) / 64 + 1)) * 64
    let (s, _, bad) := s.hbmRead (.portDie (Fin.ofNat 2 p)) (pieces a n)
    (s, i.poisoned || bad)
/-- Deliver one item. -/
def State.deliver (s : State) (i : Item) : State :=
  let q := i.queue
  let (s, bad) := s.spillRead i
  let late := match i.deadline with
    | some d => d < s.uptime
    | none => false
  let seq := (kget s.delivered q 0 + 1) % 2 ^ 32
  let tail := s.q .quTail 0 32 q
  let F := footprint i.len
  let bytes := slice (natLe 4 i.len ++ natLe 4 i.msn ++ natLe 4 (i.ctx % 2 ^ 20 + bad.toNat * 2 ^ 20 + late.toNat * 2 ^ 21) ++ natLe 4 seq ++
    i.bytes) 0 F
  let s := (s.ringWrite' q (tail + 64) (bytes.drop 64)).ringWrite' q tail (bytes.take 64)
  let tail' := (tail + F) % 2 ^ 32
  let s := { s.setQ .quTail 0 32 q tail' with delivered := kput s.delivered q seq, items := s.items.filter fun (x : Item) => x.id != i.id }
  let s := s.giveCredit i.ctx i.units
  let tok := s.q .quCfg 24 6 q
  let s := if tok == 0 then s else s.modTile (s.q .quCfg 12 12 q) fun T => T.incToken tok 1
  let s := match i.journal with
    | some j => { s with journal := s.journal.map fun e => if e.jsn == j && !e.pad then { e with tailAt := some tail' } else e }
    | none => s
  let s := if i.origin == 2 then s.count .clRedelivered 1 else s
  if !late then s
  else
    let s := s.setQ .quLate 0 64 q (s.q .quLate 0 64 q + 1)
    if s.void then s
    else s.event (srcPort (s.qDie q)) 0x0801 (natLe 2 q ++ natLe 2 0 ++ natLe 4 i.msn ++ natLe 8 (s.uptime - i.deadline.getD 0))
/-- An uncorrectable granule of a port die's ingress SRAM (R459): that SRAM has no device address, so the event's address and
pseudo-channel are free. -/
def State.ingressUe (s : State) (p : Nat) : State :=
  let (s, v) := s.freeNext
  s.event (srcPort p) 0x0601 (natLe 8 v.toNat ++ natLe 2 0xFFFE ++ natLe 1 (bfld v 48 6) ++ natLe 1 2)
/-- ITEM_DELIVER. `ue`: the ingress SRAM could not correct a granule of the item. -/
def State.itemDeliver (s : State) (p : Nat) (ue : Bool) : State :=
  match s.dieNext p with
  | none => s
  | some i => if ue then (s.ingressUe p).deliver { i with poisoned := true } else s.deliver i
/-- QUEUE_HEAD_WRITE (R326). -/
def State.queueHead (s : State) (q h : Nat) : State :=
  let old := s.q .quHead 0 32 q
  if (h + 2 ^ 32 - old) % 2 ^ 32 ≤ (s.q .quTail 0 32 q + 2 ^ 32 - old) % 2 ^ 32 then { s with cmdPos := kdel s.cmdPos q }.headTo q h else s.setQ .quStatus 11 1 q 1

/-! ### Egress (R335, R336) -/

/-- The completion record of a transfer, which ends. -/
def State.egressDone (s : State) (e : Egress) (status reason retry : Nat) : State :=
  let s := { s with egress := s.egress.filter fun (x : Egress) => x.id != e.id }
  let done := fldLe e.desc 0x20 8
  if done == 0 || done >>> 48 != 0 || done % 16 != 0 then s
  else
    s.memWrite (.portDie (Fin.ofNat 2 (s.qDie e.queue))) done
      (slice e.desc 0x14 4 ++ natLe 2 status ++ natLe 2 reason ++ natLe 4 retry ++ natLe 4 0)
/-- The descriptor keeps its layout, and its context may carry it. -/
def State.egressOk (s : State) (e : Egress) : Bool :=
  let d := e.desc
  let f (o n : Nat) := fldLe d o n
  let c := f 4 4
  d.length == 64 && (f 0 1 == 1 || f 0 1 == 2) && f 1 1 == 0 && f 2 2 >>> 14 == 0 && c >>> 20 == 0 && f 8 8 >>> 48 == 0 &&
    1 ≤ f 0x10 4 && f 0x10 4 ≤ 16777216 && f 0x18 8 >>> 48 == 0 && f 0x20 8 >>> 48 == 0 && f 0x20 8 % 16 == 0 &&
    (slice d 0x28 0x18).all (· == 0) && s.ctxSt c == 2 && s.ctxPort c % 2 == s.qDie e.queue && s.ctxClass c == s.qClass e.queue
/-- EGRESS_TRANSFER. What it sends on a pair flow leaves as R353 says; a WRITE that the partner sends or puts on its context is done, and a
FENCED device's waits (R351). -/
def State.egressTransfer (s : State) (c msn : Nat) : State :=
  match s.egress.find? fun (e : Egress) => e.ctx == c && e.msn == msn && !e.started with
  | none => s
  | some e =>
    if !s.egressOk e then s.egressDone e 1 0 0
    else if s.twin == 4 && s.isPair (s.ctxPeer (fldLe e.desc 4 4)) then s
    else
      let d := e.desc
      let out := fldLe d 4 4
      let n := fldLe d 0x10 4
      let (s, data) := s.memRead (.portDie (Fin.ofNat 2 (s.qDie e.queue))) (fldLe d 8 8) n
      let m := (s.ctx out).txMsn
      let parts := chunks 8176 data
      let wr := fldLe d 0 1 == 1
      let pkt (x : List Byte × Nat) : TxPkt :=
        { op := if wr then 1 else 4, first := x.2 == 0, last := x.2 + 1 == parts.length, egress := some e.id,
          pay := (if wr then natLe 8 (fldLe d 0x18 8 + x.2 * 8176) ++ natLe 8 0
                  else natLe 2 (fldLe d 2 2) ++ natLe 2 0 ++ natLe 4 m ++ natLe 4 (x.2 * 8176) ++ natLe 4 n) ++ x.1 }
      let s := (parts.zipIdx.foldl (fun (s : State) x => s.postVia none out (pkt x)) s).modCtx out fun C =>
        { C with txMsn := if wr then C.txMsn else (C.txMsn + 1) % 2 ^ 32 }
      if wr && !s.ownFlow none out then s.egressDone e 0 0 0
      else
      { s with egress := replaceFirst (fun (x : Egress) => x.id == e.id) (fun x => { x with started := true, txMsn := m }) s.egress }
/-- ACCEPT or REFUSE of an item this device sent on context c (R315, R336). An event forwarded (R468) that is refused is
counted. -/
def State.egressAnswer (s : State) (c : Nat) (pay : List Byte) : State :=
  let msn := fldLe pay 4 4
  let reason := fldLe pay 2 1
  match s.egress.find? fun (e : Egress) => e.started && fldLe e.desc 0 1 == 2 && fldLe e.desc 4 4 == c && e.txMsn == msn with
  | some e => if reason == 0 then s.egressDone e 0 0 0 else s.egressDone e 2 reason (fldLe pay 8 4)
  | none => if reason != 0 && s.fld .evCfg 9 1 == 1 && s.fld .evFwd 0 20 == c then s.count .evFwdDropped 1 else s

end Sys2Proof.Machine
end

