-- ==== Sys2Proof/Machine/Twin.lean ====
section
/-! DEFINITION. Twin operation: the halves, pairing, SOLO and FENCED, mirrored items, evidence and digests, SHADOW, catch-up and
rejoin (R345-R374, R390). -/

namespace Sys2Proof.Machine

def State.setTwin (s : State) (v : Nat) : State := s.setFld .twState 0 3 v
/-- The digest of the image's pair-wide sections (R350, PAIR_DIGEST). -/
def State.pairDig (s : State) : List Byte := (List.range 4).flatMap fun k => natLe 8 (s.reg .pairDigest k)
/-- This device's pairing message. -/
def State.pairMsg (s : State) : PairMsg :=
  { mode := Fin.ofNat 4 s.twinMode, role := s.roleB, pairNode := BitVec.ofNat 16 s.pairNode, digest := s.pairDig, solo := s.twin == 3 }

/-! ### SOLO and FENCED (R351, R359, R360, R362) -/

/-- Entries of one queue in the order of their ORD; those never seen ordered follow, in journal order (R389). -/
def inOrd (l : List JEnt) : List JEnt :=
  let known (e : JEnt) : Bool := e.ord != 2 ^ 32 - 1
  (l.filter known).foldl (fun (o : List JEnt) e =>
    o.takeWhile (fun x => !ordBefore e.ord x.ord) ++ e :: o.dropWhile (fun x => !ordBefore e.ord x.ord)) [] ++ l.filter fun e => !known e
/-- Restored entries of open protected queues become items to deliver, in journal order (R389). A FENCED role B holds them
(R390). -/
def State.redeliver (s : State) : State :=
  if s.twin == 4 then s
  else
    let ready (e : JEnt) : Bool := e.restored && !e.released && !e.pad && s.qOpen e.queue && s.qKind e.queue != 3 && e.tailAt.isNone &&
      !s.items.any fun (i : Item) => i.journal == some e.jsn
    let l := s.journal.filter ready
    let l := if s.twin == 0 then l else (sortNat (distinct (l.map fun (e : JEnt) => e.queue))).flatMap fun q => inOrd (l.filter fun (e : JEnt) => e.queue == q)
    l.foldl (fun (s : State) (e : JEnt) =>
      let (s, bytes, bad) := s.jRead (e.off + 32) e.len
      { s with items := s.items ++ [{ id := s.nextItem, queue := e.queue, ctx := e.ctx, msn := e.msn, len := e.len,
                                      bytes := bytes, origin := 2, poisoned := bad, complete := true, journal := some e.jsn,
                                      journalled := true, accepted := true, acceptNo := s.acceptNo }],
               nextItem := s.nextItem + 1, acceptNo := s.acceptNo + 1 }) s
/-- Takeover contexts open under R302, their NEXT_MSN one past the highest MSN seen (R360). -/
def State.openTake (s : State) : State :=
  let base := s.fld .twTake 0 20
  (List.range (s.fld .twTake 20 21)).foldl (fun (s : State) k =>
    let c := base + k
    if c ≥ s.ctxRoom then s
    else
      let (n, w) := s.msnOf c
      let s := { (s.setCtxSt c 1).ctxInit c n w with takeMsn := kdel s.takeMsn c }
      s.postCtl c 0x0A (s.syncPay c)) s
/-- One LIVE segment for each twin job to the device of this role in every pair TWIN.PEER names (R362). -/
def State.sendLive (s : State) : State :=
  let pairs := ((List.range 256).map fun e => s.fld .twPeer 0 16 e).filter (· != 0)
  s.twinJobs.foldl (fun s j => pairs.foldl (fun (s : State) n =>
    match s.ctxFor n with
    | some c => s.post c { op := 0x10, pay := collHdr 8 j 0 (s.step j) 0 0 0 (s.roleBit * 32) }
    | none => s) s) s
/-- Commits and votes that waited for the partner go on. -/
def State.resume (s : State) : State := s.twinJobs.foldl (fun s j => if s.phase j == 5 then s.commitStep j else s.decide' j) s
/-- This device acts for the pair alone from now on (R351, R358-R362, R372). -/
def State.enterSolo (s : State) : State :=
  let was := s.twin
  let s := { s.setTwin 3 with rejoining := false, partnerJoining := false }
  let s := if s.roleB then s.orderCopies else s
  let s := s.openTake
  let s := if was == 2 then s.sendLive else s
  -- no partner is left to catch up with: a step abandoned for it goes on (R362, log entry 85)
  let s := s.twinJobs.foldl (fun s j => s.modJob j fun J => { J with abandoned := [] }) s
  -- a shadow goes on from its last committed step (R372)
  let s := if s.twinMode == 2 then s.twinJobs.foldl (fun s j => s.modJob j fun J => if J.commit.isNone then { J with wrote := [] } else J) s else s
  s.redeliver.resume
/-- The partner is lost and this device has role B, or the partner took over (R351). -/
def State.enterFenced (s : State) : State :=
  let s := (s.setTwin 4).orderCopies
  (s.items.filter fun (i : Item) => i.origin == 0 && !i.accepted && s.qProtect i.queue).foldl
    (fun (s : State) (i : Item) => s.refuseConforming i 1 (s.qRetry i.queue)) s
/-- The partner is lost. -/
def State.partnerLost (s : State) : State :=
  if s.twin == 2 || s.twin == 5 then
    let new := if s.roleB then 4 else 3
    (if s.roleB then s.enterFenced else s.enterSolo).event srcMgmt 0x0903 [BitVec.ofNat 8 new]
  else { s with rejoining := false, partnerJoining := false }

/-! ### Halves and pairing (R347, R350) -/

/-- TWIN_HEARTBEAT. -/
def State.heartbeat (s : State) (h : Nat) : State := if s.fld .twState (3 + h) 1 == 1 then s.tell [TwMsg.heartbeat h] else s
/-- TWIN_HALF_DOWN. -/
def State.halfDown (s : State) (h : Nat) : State :=
  if s.fld .twState (3 + h) 1 == 0 then s
  else
    let s := (s.setFld .twState (3 + h) 1 0).event (srcPort h) 0x0901 [BitVec.ofNat 8 h]
    if s.halvesUp == 0 then s.partnerLost else s
/-- TWIN_HALF_UP. -/
def State.halfUp (s : State) (h : Nat) : State := if s.twinOn then s.setFld .twState (3 + h) 1 1 else s

/-- WHY of two devices that do not match. -/
def State.pairWhy (s : State) (m : PairMsg) : Nat :=
  if m.mode.val != s.twinMode then 2 else if m.role == s.roleB then 3 else if m.pairNode.toNat != s.pairNode then 4
  else if m.digest != s.pairDig then 5 else 0
/-- Pairing has failed for the reason given: role A acts alone, role B is fenced. -/
def State.pairFail (s : State) (why : Nat) : State :=
  let s := (s.setFld .twState 6 4 why).event srcMgmt 0x0902 [BitVec.ofNat 8 why]
  if s.roleB then s.enterFenced else s.enterSolo
/-- Both devices enter PAIRED; the takeover contexts are CLOSED here (R360). -/
def State.enterPaired (s : State) : State :=
  let s := { s.setTwin 2 with rejoining := false, partnerJoining := false }
  let base := s.fld .twTake 0 20
  (List.range (s.fld .twTake 20 21)).foldl (fun (s : State) k =>
    let c := base + k
    if c ≥ s.ctxRoom then s else { s.setCtxSt c 0 with takeMsn := kput s.takeMsn c (s.msnOf c) }) s
/-- PAIRING. Before this device has a twin state the message decides it; a SOLO device answers with its own. -/
def State.pairIn (s : State) (m : PairMsg) : State :=
  if !s.twinOn then s
  else if s.twin == 3 then
    { s.tell [TwMsg.pairing s.pairMsg] with partnerJoining := s.pairWhy m == 0 && !m.solo }
  else if s.twin != 0 then s
  else
    let why := s.pairWhy m
    if why != 0 then s.pairFail why else if m.solo then s.setTwin 1 else s.enterPaired

/-- Jobs that a difference has stalled are VOTED again (R369). -/
def State.unstall (s : State) : State :=
  s.twinJobs.foldl (fun s j =>
    if s.phase j == 6 && (s.job j).diverged then (s.setPhase j 4).modJob j fun J => { J with diverged := false } else s) s
/-- TAKEOVER (R351, R369). A SOLO device whose partner was lost after they diverged takes its jobs back too. -/
def State.takeover (s : State) : State :=
  if s.twin == 4 then s.unstall.enterSolo
  else if s.twin == 2 || s.twin == 5 then (s.tell [TwMsg.takeover]).unstall.enterSolo
  else if s.twin == 3 then s.unstall
  else s
/-- TAKEOVER_NOTICE. -/
def State.takeoverNotice (s : State) : State := if s.twin == 2 || s.twin == 5 then s.enterFenced else s

/-! ### Mirrored items (R356-R359) -/

/-- ITEM: reserved and journalled, or ITEM_NAK. An EGRESS queue has no ROOM to reserve (R329). -/
def State.itemIn (s : State) (q c msn : Nat) (bytes : List Byte) : State :=
  if !(s.twin == 1 || s.twin == 2 || s.twin == 5) then s
  else
    let s := s.takeSeen c msn
    if !s.qOpen q || (s.qKind q != 3 && s.qRoom q < footprint bytes.length) || s.jFree < entSize bytes.length then
    (s.tell [TwMsg.itemNak q c msn]).count .twNaks 1
    else
      let i : Item := { id := s.nextItem, queue := q, ctx := c, msn := msn, len := bytes.length, bytes := bytes, origin := 1, complete := true }
      let s := { s with items := s.items ++ [i], nextItem := s.nextItem + 1 }
      if s.qProtect q then
        let (s, jsn) := s.jBegin q c msn (2 ^ 32 - 1) true bytes
        s.modItem i.id fun x => { x with journal := some jsn }
      else s.ackCopy i
def State.mirrored (s : State) (origin q c msn : Nat) : Option Item :=
  s.itemAt fun i => i.origin == origin && i.queue == q && i.ctx == c && i.msn == msn
/-- ITEM_ACK. -/
def State.itemAckIn (s : State) (q c msn ord : Nat) : State :=
  match s.mirrored 0 q c msn with
  | none => s
  | some i =>
    let s := s.modItem i.id fun x => { x with twinAck := true }
    if s.orders then s else { s.itemOrd i ord with ordNext := kput s.ordNext q ((ord + 1) % 2 ^ 32) }
/-- ITEM_NAK. -/
def State.itemNakIn (s : State) (q c msn : Nat) : State :=
  let s := s.count .twNaks 1
  match s.mirrored 0 q c msn with
  | some i => if i.accepted then s else s.refuseConforming i 1 (s.qRetry q)
  | none => s
/-- ORDER: the copy's bound starts. -/
def State.orderIn (s : State) (q c msn ord : Nat) : State :=
  match s.mirrored 1 q c msn with
  | some i => ({ s.itemOrd i ord with ordNext := kput s.ordNext q ((ord + 1) % 2 ^ 32) }).itemStart { i with ord := some ord }
  | none => s
/-- DROP. -/
def State.dropIn (s : State) (q c msn : Nat) : State :=
  match s.mirrored 1 q c msn with
  | some i => (s.dropItem i).takeBit c msn false
  | none => s

/-! ### The step (R361-R370) -/

/-- EVIDENCE. -/
def State.evidenceIn (s : State) (j step : Nat) (o n : Bool) : State := s.modJob j fun J => { J with partnerEv := some (step, o, n) }

/-- Every twin job's baseline digest is equal on both devices. -/
def State.baseEqual (s : State) : Bool :=
  match s.baseline with
  | some m => s.twinJobs.all fun j => (s.peerBaseline.find? fun x => x.1 == j).any fun x => x.2.1 == kget m j []
  | none => false
/-- The baseline has matched; a rejoin ends in PAIRED (R366, R374). -/
def State.baseDone (s : State) : State :=
  if !s.baseEqual then s
  else { (if s.twin == 2 then s else s.enterPaired).setFld .twState 5 1 1 with baseline := none, peerBaseline := [] }
/-- The partner's baseline digest of job j meets this device's. -/
def State.baseCheck (s : State) (j : Nat) : State :=
  match s.baseline, s.peerBaseline.find? fun x => x.1 == j with
  | some m, some (_, d, rep) => if d == kget m j [] then s.baseDone else s.resolveDiff true j rep
  | _, _ => s
/-- Every open table, by the directory as it stands, and every area are hashed, and the device digests are formed and sent. -/
def State.baseStart (s : State) : State :=
  let s := s.twinJobs.foldl (fun s j => (s.hashAreas j).modJob j fun J => { J with repaired := false }) s.readDirectory.hashTables
  let own : KMap (List Byte) := s.twinJobs.map fun j => (j, s.ddOf j)
  { s with baseline := some own }.tell (if s.twin == 3 && !s.rejoining then [] else own.map fun (x : Nat × List Byte) => TwMsg.digest x.1 (s.step x.1) true x.2)
/-- BASELINE (R366). -/
def State.baselineGo (s : State) : State :=
  if !(s.twin == 2 || s.twin == 3) || !s.twinJobs.all (fun j => s.phase j == 1) then s
  else
    let s := s.baseStart
    if s.twin == 3 then s.setFld .twState 5 1 1 else s.twinJobs.foldl State.baseCheck s.baseDone
/-- DEVICE_DIGEST: of a baseline, or of the step under way (R365, R366). -/
def State.digestIn (s : State) (j step : Nat) (dd : List Byte) (rep : Repair) : State :=
  if rep.base then
    if (s.twin == 2 || s.twin == 1 || (s.twin == 3 && s.rejoining)) && s.phase j == 1 && step == s.step j then
      { s with peerBaseline := kput s.peerBaseline j (dd, rep) }.baseCheck j
    else s
  else if s.twin != 2 then s
  else
    let s := s.modJob j fun J => { J with peerDd := some (step, dd, rep) }
    if (s.job j).comparing then s.commitCompare j else s

/-- HEAD of paired queues, EXP, CLEAN and DV as the partner has them. -/
def State.takeOver (s : State) (j exp clean dv : Nat) (heads : List (Nat × Nat)) : State :=
  let s := (s.setFld .jLossScale 0 8 exp j).setFld .jLossClean 0 16 clean j
  let s := (List.range 16).foldl (fun s d => s.setReg .emDv dv d) s
  heads.foldl (fun (s : State) (x : Nat × Nat) => s.queueHead x.1 x.2) s
/-- Directory entries as the link carries them. -/
def dirIn (l : List (Fin 4096 × Option DirEnt)) : List (Nat × Option MigEnt) :=
  l.map fun (x : Fin 4096 × Option DirEnt) => (x.1.val, x.2.map fun e =>
    { table := e.table.toNat, index := e.index, stack := e.stack.val, st := e.st.val, addr := e.addr.toNat,
      slot := if e.st.val == 4 then e.old.2.toNat else 0, only := if e.st.val == 4 then some e.old.1.val else none })
/-- A commit without an update shows in EXP and CLEAN (R73): CLEAN is zero, and not because it reached N. -/
def State.lossSkipped (s : State) (j exp clean : Nat) : Bool :=
  let up := toField (min (s.lossExp j + 1) (s.lossLims j).2) 8
  clean == 0 && !(s.fld .jLossClean 0 16 j + 1 == s.fld .jLossClean 16 16 j && exp == up)
/-- A shadow runs no STEP_START, so its base dies read the directory with the first record or notice of a step (log entry 127). -/
def State.shadowTables (s : State) : State :=
  if s.isShadow && s.twinJobs.all fun j => (s.job j).wrote == [] && !(s.job j).comparing then s.readDirectory else s
/-- COMMIT_NOTICE: in MIRROR the partner has committed; the shadow applies the notice, commits the step and compares (R370,
R373); a JOINING device takes the job's state (R374). -/
def State.noticeIn (s : State) (j step exp clean dv : Nat) (heads : List (Nat × Nat)) (dir : List (Nat × Option MigEnt)) (dd : List Byte) : State :=
  if s.pairedMirror then
    (s.modJob j fun J => { J with peerCommitted := some step, noticeAt := s.uptime, peerBehind := J.peerBehind && s.step j != (step + 1) % 2 ^ 32 }).decide' j
  else if s.twin == 1 then ((s.takeOver j exp clean dv []).setReg .jStep step j).dirApply false dir
  else if s.twin == 2 && s.roleB && step == s.step j then
    let s := s.shadowTables
    let skip := s.lossSkipped j exp clean
    let s := (s.takeOver j exp clean dv heads).setFld .jStatus 4 1 skip.toNat j
    let s := if skip then s.count .jSkipped 1 j else s
    let d := s.ddOf j
    -- a difference waits for the digest that the active sends with what resolves it
    let s := (s.modJob j fun J => { J with comparing := true, dd := some d, peerDd := if d == dd then some (step, dd, {}) else J.peerDd,
                                           notice := dir }).tell [TwMsg.digest j step false d]
    s.commitCompare j
  else s
/-- SHADOW_DELTA: a slot or area bytes are written; a slot is listed for hashing (R363, R370). -/
def State.deltaIn (s : State) (t row a : Nat) (slot : List Byte) : State :=
  if !(s.twin == 1 || s.twin == 2) then s
  else
    let s := s.shadowTables.twinPut slot a
    let inArea := (List.range 16).any fun k =>
      s.fld .twAreaAddr 0 48 k ≤ a && a < s.fld .twAreaAddr 0 48 k + s.reg .twAreaLen k * 2 ^ 20
    if s.twin == 1 || inArea || s.twinMode != 2 then s
    else
      match s.resolve a with
      | some (st, _) => s.modJob ((s.tab t).job % 16) fun J => { J with wrote := J.wrote ++ [{ die := st, table := t, row := row, addr := a }] }
      | none => s

/-- LIVE of a pair changes (R362). -/
def State.setLive (s : State) (pair live : Nat) : State :=
  (List.range 256).foldl (fun (s : State) e => if pair != 0 && s.fld .twPeer 0 16 e == pair then s.setFld .twPeer 16 2 live e else s) s
/-- A LIVE segment from pair `pair` for job j (R362). -/
def State.liveIn (s : State) (pair j step live : Nat) : State :=
  let s := s.setLive pair live
  let s := if s.twin == 2 then s.tell [TwMsg.live pair live] else s
  if s.pairedMirror && live == s.roleBit && s.phase j != 0 && !stepBefore step (s.step j) then
    ((s.modJob j fun J => { J with alone := distinct (J.alone ++ [step]) }).tell [TwMsg.abandon j step]).resume
  else s
/-- STEP_ABANDON: the step, this one or one to come, goes no further here, and a catch-up follows. -/
def State.abandonIn (s : State) (j step : Nat) : State :=
  if s.pairedMirror && s.phase j != 0 && !stepBefore step (s.step j) then
    s.modJob j fun J => { J with abandoned := distinct (J.abandoned ++ [step]) }
  else s

/-- The rows whose slots are among the copies. -/
def State.rowsAt (s : State) (j : Nat) (addrs : List Nat) : List Touched :=
  (s.tablesOf j).flatMap fun t =>
    let T := s.tab t
    ((List.range (T.rows + 1)).filter fun i => addrs.contains (s.current T i).2).map fun i =>
      { die := (s.current T i).1, table := t, row := i, addr := (s.current T i).2 }
/-- A catch-up of job j may start (R373): the step is abandoned; or the partner has committed it, and the job is STALLED or has not
entered COMMITTING within CATCHUP_MS of the notice. -/
def State.catchupDue (s : State) (j : Nat) : Bool :=
  let J := s.job j
  J.abandoned.contains (s.step j) || (J.peerCommitted == some (s.step j) &&
    (s.phase j == 6 || (s.phase j != 5 && J.noticeAt + s.fld .twCfg 16 8 * 1000000 ≤ s.uptime)))
/-- CATCHUP (R373): the device that lags copies and commits; the other one sends what its sweep wrote, and its areas. -/
def State.catchup (s : State) (j step exp clean dv : Nat) (dd : List Byte) (copies : List (Addr × List Byte)) (unretained : Bool) : State :=
  if !(s.pairedMirror && s.phase j != 0) then s
  else if (step + 1) % 2 ^ 32 == s.step j && (s.job j).peerBehind then
    match (s.job j).wroteOld.find? fun (x : Touched) => x.slot.isNone with
    | some x => (s.setTwin 5).event srcMgmt 0x0905 (natLe 1 j ++ natLe 1 0 ++ natLe 2 x.table ++ natLe 4 step ++ natLe 8 x.row)
    | none =>
      if unretained then (s.setTwin 5).event srcMgmt 0x0905 (natLe 1 j ++ natLe 1 0 ++ natLe 2 0 ++ natLe 4 step ++ natLe 8 0)
      else
        let l := byIndex (s.job j).wroteOld
        let s := (s.readRows (l.map fun x => (x.die, x.addr, (s.tab x.table).slotSize))).readAreas j
        s.tell (l.map s.deltaOf ++ s.areaMsgs j)
  else if step != s.step j || !s.catchupDue j then s
  else if unretained then s.diverge j 0 (0, 0, 0)
  else
    let J := s.job j
    let s := match J.sweep with
      | some c => s.completeCmd c 7 (s.votesMissing j)
      | none => s
    let s := match J.commit with
      | some c => s.completeCmd c 0 1
      | none => s
    -- the step's fate and statistics are the partner's
    let skip := if J.comparing then s.fld .jStatus 4 1 j == 1 else s.lossSkipped j exp clean
    let s := if skip && !J.comparing then s.count .jSkipped 1 j else s
    let s := (s.copyIn copies).migCopy j
    -- DV as it stands before the directory switches at this commit
    let s := s.takeOver j exp clean ((dv + 2 ^ 32 - (s.dvNext + 2 ^ 32 - s.reg .emDv) % 2 ^ 32) % 2 ^ 32) []
    let s := s.setFld .jStatus 4 1 skip.toNat j
    let s := s.modJob j fun J => { J with sweep := none, commit := none, dd := some dd, wrote := s.rowsAt j (copies.map fun x => x.1.toNat) }
    let s := { s with stage := s.stage.filter fun e => !(e.job == j && e.step == step) }
    let s := s.putCommit j (s.commitRec j skip (some dd))
    let s := s.commitDone j
    let s := s.modJob j fun K => { K with absorb := J.commit.isNone, peerBehind := false }
    s.event srcMgmt 0x0906 (natLe 1 j ++ natLe 1 0 ++ natLe 2 0 ++ natLe 4 step)

/-! ### Rejoin (R374) -/

/-- The queues that are paired and open. -/
def State.pairedQueues (s : State) : List Nat := (s.protHeads).map (·.1)
/-- JOIN: the copy starts. -/
def State.joinGo (s : State) : State :=
  if !(s.twin == 3 && s.partnerJoining && s.twinJobs.all fun j => s.phase j == 1) then s
  else
    let s := s.readDirectory
    let s := s.openTables.foldl (fun (s : State) t => s.readRows (s.tableSlots t)) s
    let s := s.pairedQueues.foldl (fun (s : State) q => s.readAll (.portDie (Fin.ofNat 2 (q / 8192))) (s.q .quRing 0 48 q) (s.qSize q)) (s.twinJobs.foldl State.readAreas s)
    -- an open table is its descriptor and its rows (log entry 127)
    let slots := s.openTables.flatMap fun t =>
      let T := s.tab t
      TwMsg.area (s.reg .emDir + 64 * t) (s.tabBytes t) ::
        (List.range (T.rows + 1)).map fun i => TwMsg.delta t i (s.current T i).2 (s.hbmNow (s.current T i).2 T.slotSize)
    let areas := s.twinJobs.flatMap s.areaMsgs
    let rings := s.pairedQueues.map fun q => TwMsg.area (s.q .quRing 0 48 q) (s.hbmNow (s.q .quRing 0 48 q) (s.qSize q))
    let jobs := s.twinJobs.map fun j =>
      TwMsg.notice j (s.step j) (s.fld .jLossScale 0 8 j) (s.fld .jLossClean 0 16 j) (s.reg .emDv) s.protHeads
        (s.migDir.map fun (x : Nat × MigEnt) => (x.1, some x.2)) (List.replicate 32 0)
    -- an item that is whole and not accepted waits for the partner too from now on
    let held := (s.items.filter fun (i : Item) => i.origin == 0 && i.complete && !i.accepted && s.qProtect i.queue).map fun (i : Item) =>
      TwMsg.item i.queue i.ctx i.msn 0 i.bytes
    ({ s with rejoining := true, baseline := none, peerBaseline := [] }.tell (TwMsg.rejoin :: slots ++ areas ++ rings ++ jobs ++ held)).count .twItems
      held.length
/-- What the SOLO device's rejoin copy holds at its end. -/
def State.joinCopy (s : State) : RejoinCopy :=
  { queues := s.pairedQueues.map fun q => (Fin.ofNat 16384 q, BitVec.ofNat 32 (s.q .quHead 0 32 q), BitVec.ofNat 32 (s.q .quTail 0 32 q), BitVec.ofNat 32 (kget s.ordNext q 0)),
    msns := s.msnTab.map fun (x : Nat × Nat) => (BitVec.ofNat 20 x.2, BitVec.ofNat 32 (s.msnOf x.2).1, (s.msnOf x.2).2),
    journal := (s.journal.filter fun (e : JEnt) => !e.pad && !e.released && e.complete && s.pairedQueues.contains e.queue).map fun e =>
      { queue := Fin.ofNat 16384 e.queue, ctx := BitVec.ofNat 20 e.ctx, msn := BitVec.ofNat 32 e.msn, ord := BitVec.ofNat 32 e.ord,
        tail := e.tailAt.map (BitVec.ofNat 32), bytes := s.jGet (e.off + 32) e.len } }
/-- A journal entry of the SOLO device joins this device's journal; an item it has not delivered is owed here too. -/
def State.joinEntry (s : State) (x : JCopy) : State :=
  let q := x.queue.val
  let c := x.ctx.toNat
  let m := x.msn.toNat
  let o := x.ord.toNat
  if s.jFree < entSize x.bytes.length || (s.mirrored 1 q c m).isSome then s
  else
    let (s, jsn) := s.jBegin q c m o true x.bytes
    let s := s.jComplete jsn true x.bytes
    match x.tail with
    | some t => { s with journal := replaceFirst (fun (e : JEnt) => e.jsn == jsn) (fun e => { e with tailAt := some t.toNat }) s.journal }
    | none =>
      let i : Item := { id := s.nextItem, queue := q, ctx := c, msn := m, len := x.bytes.length, bytes := x.bytes, origin := 1, complete := true,
                        journal := some jsn, journalled := true, twinAck := true, ord := some o }
      { s with items := s.items ++ [i], nextItem := s.nextItem + 1 }.itemStart i
/-- The JOINING device takes the end of the rejoin copy (R374, R390). -/
def State.joinIn (s : State) (x : RejoinCopy) : State :=
  let s := x.queues.foldl (fun (s : State) y =>
    { (s.setQ .quHead 0 32 y.1.val y.2.1.toNat).setQ .quTail 0 32 y.1.val y.2.2.1.toNat with ordNext := kput s.ordNext y.1.val y.2.2.2.toNat }) s
  let s := x.msns.foldl (fun (s : State) y =>
    let c := y.1.toNat
    (if s.isTake c then { s with takeMsn := kput s.takeMsn c (y.2.1.toNat, y.2.2) }
     else s.modCtx c fun C => { C with nextMsn := y.2.1.toNat, window := y.2.2 }).jMsn c) s
  x.journal.foldl State.joinEntry s
/-- REJOIN_COMPLETE: the copy has ended, and the baseline runs on both devices: `peer` holds the partner's digests by job (R366, R374). -/
def State.rejoinDone (s : State) (peer : List (Fin 16 × List Byte × Repair)) (copy : RejoinCopy) : State :=
  if !(s.twin == 1 || (s.twin == 3 && s.rejoining)) then s
  else
    let s := if s.twin == 1 then s.joinIn copy else s.tell [TwMsg.rejoined s.joinCopy]
    let s := s.baseStart
    let s := { s with peerBaseline := peer.foldl (fun m (x : Fin 16 × List Byte × Repair) => kput m x.1.val (x.2.1, x.2.2)) s.peerBaseline }
    s.twinJobs.foldl State.baseCheck s.baseDone

end Sys2Proof.Machine
end

