-- ==== Sys2Proof/Machine/Admit.lean ====
section
/-! DEFINITION. Admission at start (R323, R334, R337-R339). -/

namespace Sys2Proof.Machine

/-- A queue as admission sees it. -/
structure AdmQ where
  q : Nat
  egress : Bool
  promised : Bool
  protect : Bool
  rate : Nat
  burst : Nat
  bound : Nat
  ctxs : List Nat
  ports : List Nat
  ring : Nat × Nat
  spilled : Bool := false
  deriving DecidableEq, Repr

/-- ρ in B/s and R_i (R334). -/
def AdmQ.rho (x : AdmQ) : Rat := x.rate * 12500000
def AdmQ.res (x : AdmQ) : Rat := if x.egress then 0 else x.burst + x.rho * x.bound / 1000000000
def AdmQ.die (x : AdmQ) : Nat := x.q / 8192

/-- Contexts bound to a queue: those of its class on its port die. -/
def State.boundCtxs (s : State) (q : Nat) : List Nat :=
  (s.ctxs.filter fun (x : Nat × Ctx) => s.ctxClass x.1 == s.qClass q && s.ctxPort x.1 % 2 == q / 8192).map (·.1)
def State.admQ (s : State) (q : Nat) : AdmQ :=
  let k := s.qClass q
  let e := s.qKind q == 3
  let cs := s.boundCtxs q
  { q := q, egress := e, promised := s.qPromised q, protect := s.qProtect q, rate := s.clsRate k, burst := s.clsBurst k,
    bound := s.fld .prBound (if e then 32 else 0) 32 0 k, ctxs := cs,
    ports := distinct (cs.flatMap fun c =>
      let alt := s.ctxFld c 2 1
      s.ctxPort c :: (if alt.testBit 7 then [alt % 32] else [])),
    ring := (s.q .quRing 0 48 q, s.qSize q) }

/-- MAC rate of a port as trained, in B/s (R291, R322). -/
def State.portRate (s : State) (p : Nat) : Nat :=
  if s.port .poLink 0 1 p == 0 then 0
  else match s.port .poLink 1 2 p with
    | 1 => 400 * 125000000
    | 2 => 800 * 125000000
    | 3 => 1024 * 125000000
    | _ => 0
/-- Mesh share of a port die at the throttle floor, in B/s (R338). -/
def State.meshShare (s : State) : Rat := (s.qmPct : Rat) / 100 * 13107200000000 * 4 / s.qmDiv
/-- Size of a spill region that can be used: a multiple of 4 KiB in one mapped STRIPE region (R344). -/
def State.spillSize (s : State) (p : Nat) : Nat :=
  let b := s.fld .qmSpill 0 48 p
  let n := s.fld .qmSpill 48 14 p * 2 ^ 20
  if n != 0 && b % 4096 == 0 && s.mapped b n && b >>> 36 == (b + n - 1) >>> 36 && s.regionMode (b >>> 36) == 1 && n ≤ 8192 * 2 ^ 20 then n else 0

/-- Place reservations in SRAM in order of INGRESS_NS, ties by queue id, and the rest in spill (R334). -/
def State.admPlace (s : State) (l : List AdmQ) : List AdmQ :=
  let le (a b : AdmQ) : Bool := a.bound < b.bound || (a.bound == b.bound && a.q ≤ b.q)
  let one (p : Nat) : List AdmQ :=
    let sorted := (l.filter fun (x : AdmQ) => x.die == p && !x.egress).foldl
      (fun (o : List AdmQ) x => o.takeWhile (fun y => le y x) ++ x :: o.dropWhile (fun y => le y x)) []
    (sorted.foldl (fun (acc : List AdmQ × Rat) x =>
      if x.res ≤ acc.2 then (acc.1 ++ [x], acc.2 - x.res) else (acc.1 ++ [{ x with spilled := true }], 0)) ([], (s.qmSram p : Rat))).1
  let placed := one 0 ++ one 1
  l.map fun x => (placed.find? fun y => y.q == x.q).getD x

/-- Share of a queue's ρ that its ring puts on a stack. -/
def State.ringShare (s : State) (x : AdmQ) (st : Nat) : Rat :=
  let r := x.ring.1 >>> 36
  if x.egress then 0
  else match s.regionMode r with
    | 1 => 1 / 16
    | 2 => if st / 4 == s.regionTarget r then 1 / 4 else 0
    | 3 => if st == s.regionTarget r then 1 else 0
    | _ => 0
/-- The RESOURCE of the first rate test that fails (R338). -/
def State.rateTest (s : State) (l : List AdmQ) : Option Nat :=
  let sum (p : AdmQ → Rat) : Rat := (l.map p).sum
  let over' (use cap : Rat) : Bool := use > cap * 92 / 100
  let uses (x : AdmQ) (i : Nat) : Bool := x.ports.contains i
  let checks : List (Nat × Bool) :=
    ((List.range 18).map fun i => (i, over' (sum fun x => if !x.egress && uses x i then x.rho else 0) (s.portRate i) ||
        over' (sum fun x => if x.egress && uses x i then x.rho else 0) (s.portRate i))) ++
    [(18, s.twinOn && over' (sum fun x => if x.protect then x.rho else 0) 256000000000)] ++
    ((List.range 2).map fun p => (19, over' (sum fun x => if x.die == p then x.rho else 0) s.meshShare)) ++
    ((List.range 2).map fun p => (20, over' (sum fun x => if x.die == p && x.spilled then 2 * x.rho else 0) 200000000000)) ++
    ((List.range 16).map fun st => (21, over' (sum fun x => x.rho * s.ringShare x st + (if x.spilled then 2 * x.rho / 16 else 0)) 1640000000000))
  (checks.find? fun (c : Nat × Bool) => c.2).map fun (c : Nat × Bool) => c.1
/-- F of R339 in ns. -/
def State.fixedNs (s : State) (x : AdmQ) : Nat :=
  (if x.egress then 400 else 200) + 100 * s.qmDiv + (if x.spilled then 600 else 0)
/-- One resource of the demand-bound test, rates in B/ns. -/
def State.demandOk (s : State) (l : List AdmQ) (c : Rat) (L : Rat) : Bool :=
  let d (x : AdmQ) : Rat := (x.bound : Rat) - s.fixedNs x
  l.all fun y =>
    let t := d y
    ((l.filter fun x => d x ≤ t).map fun x => (x.burst : Rat) + x.rho / 1000000000 * (t - d x)).sum + L ≤ c * t
def State.demandTest (s : State) (l : List AdmQ) : Bool :=
  ((List.range 2).all fun p => s.demandOk (l.filter fun (x : AdmQ) => !x.egress && x.die == p) (s.meshShare / 1000000000) 8192) &&
  ((List.range 18).all fun i => s.demandOk (l.filter fun (x : AdmQ) => x.egress && x.ports.contains i) ((s.portRate i : Rat) / 1000000000) 8318)

/-- Check 2 of R337. -/
def State.admFields (s : State) (x : AdmQ) : Bool :=
  let lg := s.q .quCfg 48 5 x.q
  (x.egress || (12 ≤ lg && x.ring.1 % 4096 == 0 && s.mapped x.ring.1 x.ring.2 && x.ring.1 >>> 36 == (x.ring.1 + x.ring.2 - 1) >>> 36)) &&
  s.q .quCfg 18 6 x.q ≤ 35 &&
  x.rate ≤ 10240 && 1024 ≤ x.burst && x.burst ≤ 65536 * 1024 && 1200 ≤ s.fld .prBound 0 32 0 (s.qClass x.q) && 1200 ≤ s.fld .prBound 32 32 0 (s.qClass x.q)
/-- REASON and RESOURCE of queue x beside those opened; REASON 0: it opens. -/
def State.admCheck (s : State) (opened : List AdmQ) (x : AdmQ) : Nat × Nat :=
  let half := (if s.tier == 0 then 0 else if s.tier == 1 then 4096 else 16384) / 2
  let floor := x.ctxs.find? fun c => s.ctxFld c 0x2C 4 < x.rate
  let l := s.admPlace (opened ++ [x])
  let credit := (x.ctxs.map fun c => s.ctxFld c 0x28 4).sum
  if x.q % 8192 ≥ half || (x.protect && s.tier != 3) then (2, 0)
  else if !s.admFields x then (3, 0)
  else if x.protect && (s.fld .clStatus 0 3 != 0 || x.ctxs.any fun c => !s.msnTab.any fun y => y.2 == c) then (10, 0)
  else if x.promised && floor.isSome then (9, s.ctxPort (floor.getD 0))
  else if !x.egress && (credit : Rat) > x.res / 4096 then (8, 0)
  else if !x.promised then (0, 0)
  else
    match s.rateTest l with
    | some r => (4, r)
    | none =>
      if (List.range 2).any fun p => ((l.filter fun (y : AdmQ) => y.die == p).map AdmQ.res).sum > (s.qmSram p : Rat) + s.spillSize p then (5, 0)
      else if l.any fun y => y.bound ≤ s.fixedNs y then (7, 0)
      else if !s.demandTest l then (6, 0)
      else (0, 0)
/-- Admission: every bucket is full, and the queues open in increasing id. -/
def State.admission (s : State) : State :=
  let s := (List.range 16384).foldl (fun (s : State) q => s.setQ .quTokens 0 64 q (s.fld .prCfg 16 17 0 (s.qClass q) * 81920)) s
  let qs := (List.range 16384).filter fun q => s.qKind q != 0
  let (s, opened) := qs.foldl (fun (acc : State × List AdmQ) q =>
    let (s, l) := acc
    let x := s.admQ q
    let (why, res) := s.admCheck (l.filter (·.promised)) x
    let s := ((s.setQ .quStatus 1 4 q why).setQ .quStatus 5 5 q res).setQ .quStatus 0 1 q (why == 0).toNat
    (s, if why == 0 then l ++ [x] else l)) (s, [])
  let s := (s.admPlace (opened.filter (·.promised))).foldl (fun (s : State) (x : AdmQ) => s.setQ .quStatus 10 1 x.q x.spilled.toNat) s
  (List.range 2).foldl (fun s p => s.setFld .qmCfg 16 16 (opened.filter fun (x : AdmQ) => x.die == p).length p) s

end Sys2Proof.Machine
end

