-- ==== Sys2Proof/Machine/Events.lean ====
section
/-! DEFINITION. Event records, the buffer and the ring, fatal errors, in-band interrupts and the I3C telemetry map
(R460, R461, R463, R465, R466, R471-R473). FLAG_SCAN's reading of the tiles is here too (R470). -/

namespace Sys2Proof.Machine

/-- The 32 bytes of a record (R461). -/
def EvRec.bytes (e : EvRec) (seq : Nat) : List Byte :=
  natLe 2 e.typ ++ natLe 1 (evClass e.typ) ++ natLe 1 e.count ++ natLe 2 e.src ++ natLe 2 seq ++ natLe 8 e.uptime ++
    slice e.data 0 16

/-- Records the ring holds: 2^RING_LOG2 / 32 (R465). -/
def State.ringLen (s : State) : Nat := 2 ^ (s.fld .evCfg 0 5) / 32
def State.ringFull (s : State) : Bool := (s.reg .evTail + 2 ^ 32 - s.reg .evHead) % 2 ^ 32 == s.ringLen
/-- Write one record to the ring and advance TAIL (R465). -/
def State.ringWrite (s : State) (e : EvRec) : State :=
  let k := s.reg .evTail
  let s := s.hbmWrite .mgmt (e.bytes k) (s.reg .evRing + 32 * (k % s.ringLen)) (pieces (s.reg .evRing + 32 * (k % s.ringLen)) 32)
  s.setReg .evTail ((k + 1) % 2 ^ 32)
/-- Write one record to the buffer of R466. -/
def State.bufWrite (s : State) (e : EvRec) : State :=
  let k := s.reg .evTail
  let s := if s.evBuf.length ≥ 256 then s.count .evLost 1 else s
  { s.setReg .evTail ((k + 1) % 2 ^ 32) with evBuf := lastN 256 (s.evBuf ++ [e.bytes k]) }
/-- An alert cause arises: an IBI now, or with the next one (R472). A fatal error does not wait. -/
def State.alert (s : State) (bit : Nat) : State :=
  let c := s.alertCause ||| (1#8 <<< bit)
  if s.ibiBusy && bit != 3 then { s with alertCause := c, ibiPend := true }
  else { s with alertCause := c, ibis := s.ibis ++ [c], ibiBusy := true, ibiPend := false }
/-- The 1 ms after an IBI has passed (R472). -/
def State.ibiTimer (s : State) : State :=
  if s.ibiPend then { s with ibis := s.ibis ++ [s.alertCause], ibiPend := false, ibiBusy := true }
  else { s with ibiBusy := false }
/-- Temperature and power alerts with their re-arm points (R472). -/
def State.tempAlert (s : State) : State :=
  let t := s.fld .thermStatus 0 8
  let lim := s.fld .evAlert 0 8
  if s.tempArmed && t ≥ lim then { s.alert 1 with tempArmed := false }
  else if !s.tempArmed && t + 3 ≤ lim then { s with tempArmed := true }
  else s
def State.powerAlert (s : State) : State :=
  let w := s.fld .total 0 16
  let lim := s.fld .evAlert 8 8 * 100
  if s.powerArmed && w ≥ lim then { s.alert 2 with powerArmed := false }
  else if !s.powerArmed && w * 100 ≤ lim * 95 then { s with powerArmed := true }
  else s

/-- A record of class IBI_CLASS or above has been written (R472). -/
def State.ibiOf (s : State) (e : EvRec) : State := if evClass e.typ ≥ s.fld .evCfg 5 2 then s.alert 0 else s
/-- The one EVENTS_LOST record that follows records lost to a full ring (R465). -/
def State.lostRec (s : State) : EvRec := { typ := 0x0104, src := srcMgmt, uptime := s.uptime, data := natLe 4 s.ringLost ++ natLe 2 srcMgmt }
/-- It is due: the ring has room again. -/
def State.lostDue (s : State) : Bool := s.ringLost != 0 && s.ringMapped && !s.ringFull
def State.ringLostRec (s : State) : State :=
  if s.lostDue then (({ s with ringLost := 0 }.countClass 0).ringWrite s.lostRec).ibiOf s.lostRec else s
/-- A record reaches the management engine: the ring, the buffer, or lost (R465, R466, R472). Answers the records written, with
their positions. -/
def State.storeRec (s : State) (e : EvRec) : State × List (EvRec × Nat) :=
  let k := s.reg .evTail
  if !s.ringMapped then ((s.bufWrite e).ibiOf e, [(e, k)])
  else
    let l := if s.lostDue then [(s.lostRec, k)] else []
    let s := s.ringLostRec
    if s.ringFull then ({ s.count .evLost 1 with ringLost := s.ringLost + 1 }, l) else ((s.ringWrite e).ibiOf e, l ++ [(e, s.reg .evTail)])
/-- EVENT_RECORD without its forwarding: the oldest event a unit holds is written; an entry frees (R463, R465, R472). -/
def State.recordOp (s : State) (src : Nat) : State × List (EvRec × Nat) :=
  match kget s.events src [] with
  | [] => (s, [])
  | e :: r =>
    let n := kget s.lost src 0
    let s := { s with events := kput s.events src r, lost := kdel s.lost src }
    let s := if n == 0 then s else s.event src 0x0104 (natLe 4 n ++ natLe 2 src)
    s.storeRec e

/-- EVT.HEAD takes a new value under the rule of R326 (R465). -/
def State.evHeadOp (s : State) (h : Nat) : State :=
  let old := s.reg .evHead
  if (h + 2 ^ 32 - old) % 2 ^ 32 ≤ (s.reg .evTail + 2 ^ 32 - old) % 2 ^ 32 then (s.setReg .evHead (h % 2 ^ 32)).ringLostRec
  else s.setFld .evStatus 0 1 1

/-- The ring maps at step 13 of the start: usable settings, or RING_BAD (R466, R474). The buffer's records are copied in
order, and one EVENTS_LOST record follows if any was overwritten (log entry 20). Answers the EVENTS_LOST records written, with their
positions. -/
def State.mapRing (s : State) : State × List (EvRec × Nat) :=
  let lg := s.fld .evCfg 0 5
  let base := s.reg .evRing
  if lg == 0 then (s, [])
  else if lg < 12 || lg > 28 || base % 4096 != 0 || !s.mapped base (2 ^ lg) || base >>> 36 != (base + 2 ^ lg - 1) >>> 36 then
    (s.setFld .evStatus 2 1 1, [])
  else
    let buf := s.evBuf
    let total := s.reg .evTail
    let ovw := total - buf.length
    let s := { s.setReg .evTail 0 with ringMapped := true, evBuf := [] }
    let toRec (b : List Byte) : EvRec :=
      { typ := fldLe b 0 2, count := fldLe b 3 1, src := fldLe b 4 2, uptime := fldLe b 8 8, data := slice b 16 16 }
    let put (s : State) (e : EvRec) : State := if s.ringFull then { s.count .evLost 1 with ringLost := s.ringLost + 1 } else s.ringWrite e
    let s := buf.foldl (fun s b => put s (toRec b)) s
    if ovw == 0 then (s, [])
    else (s.countClass 0).storeRec { typ := 0x0104, src := srcMgmt, uptime := s.uptime, data := natLe 4 ovw ++ natLe 2 srcMgmt }

/-! ### Fatal errors -/

/-- Steps 1 and 2 of R460: pins, LAST_FATAL and the counts. A scan that runs ends with ERROR (R470). A second fatal error
before a reset only counts. -/
def State.fatalRec (s : State) (src typ : Nat) (data : List Byte) : State :=
  if s.fatal then s.countClass 3 else
  let first := s.reg .evFatal == 0
  let e : EvRec := { typ := typ, src := src, uptime := s.uptime, data := data }
  let b := e.bytes (s.reg .evTail)
  let s := s.countClass 3
  let s := if first then
      (List.range 4).foldl (fun s k => s.setReg .evFatal (fldLe b (8 * k) 8) k) s
    else s
  let s := if s.fld .evScan 26 2 == 1 then s.setFld .evScan 26 2 3 else s
  { s.alert 3 with fatal := true, ready := false, faultN := false }

/-- A flush needs the die: port die 0, compute die 0, base dies 0 and 1, by the index of R439 (R406, R410, R460). -/
def flushDie (d : Nat) : Bool := d == 4 || d == 0 || d == 6 || d == 7

/-! ### Flag scan (R470) -/

/-- GO of EVT.FLAG_SCAN. -/
def State.scanGo (s : State) : State :=
  if s.fld .evScan 26 2 == 1 then s.setFld .evStatus 1 1 1 else s.setFld .evScan 26 2 1
/-- The scan ends: OR, FLAG_FIRST, and CLEAR of exactly the bits read. -/
def State.scanDone (s : State) : State :=
  if s.fld .evScan 26 2 != 1 then s
  else
    let r := s.reg .evScan
    let codes := (rectTiles (bits r 0 6) (bits r 6 6) (bits r 12 6) (bits r 18 6)).filter (· < 2304)
    let flags := codes.map fun c => (c, (s.tile c).fpFlags)
    let all := flags.foldl (fun o x => o ||| x.2) 0#12
    let first (f : Nat) : Nat :=
      match flags.find? fun x => x.2.toNat.testBit f with
      | some (c, _) => c
      | none => 0xFFFF
    let s := (List.range 3).foldl (fun s k =>
      s.setReg .evFirst ((List.range 4).map fun f => first (4 * k + f) <<< (16 * f)).sum k) s
    let s := if bits r 24 1 == 1 then flags.foldl (fun s x => s.modTile x.1 fun T => { T with fpFlags := T.fpFlags &&& ~~~ x.2 }) s
             else s
    (s.setFld .evScan 28 12 all.toNat).setFld .evScan 26 2 2

/-! ### I3C (R471) -/

/-- STATE of the telemetry map. -/
def State.i3cState (s : State) : Nat :=
  s.ready.toNat + 2 * s.diag.toNat + 4 * (!s.faultN).toNat + 8 * (!s.thermN).toNat + 16 * s.void.toNat + 32 * s.flush.isSome.toNat
/-- One byte of the map. -/
def State.i3cByte (s : State) (o : Nat) : Byte :=
  BitVec.ofNat 8 (
    if o == 0 then 1
    else if o == 1 then s.i3cState
    else if o == 2 then s.alertCause.toNat
    else if 4 ≤ o && o < 8 then (s.uptime / 1000000000) >>> (8 * (o - 4))
    else if 8 ≤ o && o < 0xA then s.fld .total 0 16 >>> (8 * (o - 8))
    else if o == 0xA then s.fld .evAlert 0 8
    else if o == 0xB then s.fld .evAlert 8 8
    else if 0x10 ≤ o && o < 0x26 then s.fld .thermDie 0 8 (o - 0x10)
    else if 0x30 ≤ o && o < 0x40 then s.fld .stTemp 0 8 (o - 0x30)
    else if 0x40 ≤ o && o < 0x72 then s.fld .rail 24 12 ((o - 0x40) / 2) >>> (8 * (o % 2))
    else if 0x80 ≤ o && o < 0x88 then s.reg .evCounts >>> (8 * (o - 0x80))
    else if 0x88 ≤ o && o < 0xA8 then s.reg .evFatal ((o - 0x88) / 8) >>> (8 * (o % 8))
    else if o == 0xA8 then s.tier
    else if o == 0xA9 then s.fld .boot 14 4
    else 0)
/-- A private write: one byte sets the offset; more write the RW and W1C fields from there (R471). -/
def State.i3cWrite (s : State) (x : I3cWrite) : State :=
  if !s.pwrgood || x.hdr then s
  else
    match x.bytes with
    | [] => s
    | o :: data =>
      let put (s : State) (x : Nat × Byte) : State :=
        let (a, b) := x
        if a == 2 then { s with alertCause := s.alertCause &&& ~~~ b }
        else if a == 0xA then s.setFld .evAlert 0 8 b.toNat
        else if a == 0xB then s.setFld .evAlert 8 8 b.toNat
        else s
      let s := (List.zip ((List.range data.length).map fun i => (o.toNat + i) % 256) data).foldl put s
      { s with i3cOffset := o + BitVec.ofNat 8 data.length }
/-- A private read of n bytes: one transfer, every field at one instant. -/
def State.i3cRead (s : State) (x : I3cRead) : State :=
  if !s.pwrgood || x.hdr then s
  else
    { s with i3cOut := (List.range x.n).map fun i => s.i3cByte ((s.i3cOffset.toNat + i) % 256),
             i3cOffset := s.i3cOffset + BitVec.ofNat 8 x.n }

end Sys2Proof.Machine
end

