-- ==== Sys2Proof/Machine/Forward.lean ====
section
/-! DEFINITION. Event records that leave for a host: FWD of the event registers (R468). -/

namespace Sys2Proof.Machine

/-- A record leaves on FWD.CTX as one SEND item, or is counted (R468). -/
def State.forward (s : State) (rec' : List Byte) : State :=
  let c := s.fld .evFwd 0 20
  if s.ctxSt c != 2 then s.count .evFwdDropped 1
  else
    let m := (s.ctx c).txMsn
    s.modCtx c fun C =>
      { C with queue := C.queue ++ [{ op := 4, pay := natLe 2 (s.fld .evFwd 20 14) ++ natLe 2 0 ++ natLe 4 m ++ natLe 4 0 ++ natLe 4 32 ++ rec' }],
               txMsn := (C.txMsn + 1) % 2 ^ 32 }
/-- Every record written that is to leave does. -/
def State.forwards (s : State) (l : List (EvRec × Nat)) : State :=
  (l.filter fun (x : EvRec × Nat) => s.fld .evCfg 9 1 == 1 && evClass x.1.typ ≥ s.fld .evCfg 7 2).foldl (fun s x => s.forward (x.1.bytes x.2)) s

end Sys2Proof.Machine
end

