-- ==== Sys2Proof/Machine/Identity.lean ====
section
/-! DEFINITION. The configuration flash, the vendor partition, identity, licences, certificates, the repair map, the AVS table and
the field log (R412, R413, R422, R423, R436-R452). -/

namespace Sys2Proof.Machine

/-! ### The flash (R412) -/

/-- The key of a byte of flash device d: an unlisted byte is erased and reads 0xFF. -/
def flAddr (d o : Nat) : Nat := d * 2 ^ 27 + o % 2 ^ 27
def flByte (m : KMap Byte) (a : Nat) : Byte := kget m a 0xFF
/-- The canonical form of the flash: addresses strictly rising, and no listed byte erased. -/
def flWf (m : KMap Byte) : Bool := krising 0 m && m.all (fun c => c.2 != 0xFF)
def State.flGet (s : State) (d o n : Nat) : List Byte := (List.range n).map fun i => flByte s.flash (flAddr d (o + i))
def flPut (m : KMap Byte) (d o : Nat) (data : List Byte) : KMap Byte :=
  data.zipIdx.foldl (fun m x => kputD m (flAddr d (o + x.2)) x.1 0xFF) m
def State.flWrite (s : State) (d o : Nat) (data : List Byte) : State := { s with flash := flPut s.flash d o data }
def State.flErase (s : State) (d o n : Nat) : State :=
  { s with flash := s.flash.filter fun (x : Nat × Byte) => !(x.1 / 2 ^ 27 == d && (x.1 + 2 ^ 27 - o % 2 ^ 27) % 2 ^ 27 < n) }

/-! ### The vendor partition (R413, R422, R436-R440, R444-R446) -/

/-- Bytes of vendor copy v. -/
def State.ven (s : State) (v o n : Nat) : List Byte := s.flGet v (0x3000000 + o) n
/-- A signature field as R420 lays it out: SIG_LEN from 1 to 1,534, the header byte of the standard encoding, zeros behind. -/
def sigForm (f : List Byte) : Bool :=
  let n := fldLe f 0 2
  1 ≤ n && n ≤ 1534 && f.getD 2 0 == 0x3A && (f.drop (2 + n)).all (· == 0)
/-- Root public key k of a vendor copy, when it is present (R422). -/
def State.rootKey (s : State) (v k : Nat) : Option (List Byte) :=
  let key := s.ven v (0x1000 + 1808 * k) 1793
  if k < 4 && s.rom[k]? == some (shake256 key 32) then some key else none
/-- The identity record. -/
def State.idRec (s : State) (v o n : Nat) : List Byte := s.ven v (0x3000 + o) n
/-- What the manifest signature and the vendor digest cover (R437). -/
def State.venCover (s : State) (v : Nat) : List Byte :=
  s.ven v 0 0xA00 ++ s.ven v 0x1000 7232 ++ s.ven v 0x3000 16960 ++ s.ven v 0xB000 (min (fldLe (s.ven v 0 16) 12 4) 65536) ++
    s.ven v 0x1B000 704 ++ s.ven v 0x1C000 32
def State.venDigest (s : State) (v : Nat) : List Byte := shake256 (s.venCover v) 32
/-- A vendor copy verifies as a whole (R413, R437). -/
def State.venOk (s : State) (env : StartEnv) (v : Nat) : Bool :=
  let m := s.ven v 0 16
  let i := s.idRec v 0 16
  fldLe m 0 4 == 0x56454E44 && fldLe m 4 2 == 1 && (s.rootKey v (fldLe m 6 1)).isSome && sigForm (s.ven v 0xA00 1536) &&
    env.sigs.contains (.manifest (Fin.ofNat 2 v)) && fldLe i 0 4 == 0x4944454E && fldLe i 4 2 == 1 && fldLe i 6 2 == 0x2304 && fldLe i 8 1 == 0xB0
/-- The copy in use. -/
def State.venPick (s : State) (env : StartEnv) : Option Nat := [0, 1].find? (s.venOk env)
/-- The identity digest (R440). -/
def State.idDigest (s : State) (v : Nat) : List Byte := shake256 (s.idRec v 0 0xD00) 32
/-- The repair map's used bytes, its digest and its entries (R444). -/
def State.repairBytes (s : State) (v : Nat) : List Byte := s.ven v 0xB000 (min (fldLe (s.ven v 0 16) 12 4) 65536)
def State.repairs (s : State) (v : Nat) : List (Nat × Nat × Nat × Nat) :=
  let b := s.repairBytes v
  if fldLe b 0 4 != 0x52455052 || fldLe b 4 2 != 1 then []
  else
    ((List.range (min (fldLe b 6 2) ((b.length - 16) / 8))).map fun i =>
      (fldLe b (16 + 8 * i) 1, fldLe b (17 + 8 * i) 1, fldLe b (18 + 8 * i) 2, fldLe b (20 + 8 * i) 2)).filter fun (x : Nat × Nat × Nat × Nat) =>
        match x with
        | (1, u, a, b) => u < 4 && a < 20 && b == 0
        | (2, u, a, b) => u < 16 && a < 32 && b < 64
        | (3, u, a, b) => u < 16 && a < 32 && b < 16
        | _ => false
/-- VOLT(l) of die d (R445). -/
def State.volt (s : State) (v d l : Nat) : Nat := fldLe (s.ven v 0x1B000 704) (32 * d + 2 * l) 2

/-! ### The PUF and the device key (R441, R442) -/

/-- Dies that fail, as a mask. -/
def State.pufFail (s : State) (env : StartEnv) (v : Nat) : Nat :=
  ((List.range 22).map fun d =>
    if shake256 (natLe 1 d ++ slice (env.dieKeys.getD d []) 0 32) 32 == s.idRec v (0x40 + 64 * d + 0x20) 32 then 0 else 2 ^ d).sum
/-- The ASCII string of R442. -/
def kekTag : List Byte := [0x52, 0x59, 0x52, 0x41, 0x58, 0x2D, 0x4B, 0x45, 0x4B]
def State.unwrap (s : State) (env : StartEnv) (v : Nat) : Option (List Byte) :=
  let kek := shake256 (kekTag ++ (List.range 22).flatMap fun d => slice (env.dieKeys.getD d []) 0 32) 32
  let w := s.idRec v 0x3900 2305
  if shake256 (kek ++ [2] ++ w) 32 != s.idRec v 0x4220 32 then none
  else some (List.zipWith (fun (a b : Byte) => a ^^^ b) w (shake256 (kek ++ [1]) 2305))

/-! ### Licences and owner certificates (R423, R451, R452) -/

/-- LIC.SLOTS.VERDICT of slot n. -/
def State.licVerdict (s : State) (env : StartEnv) (v n : Nat) : Nat :=
  let l := s.ven v (0x1D000 + 4096 * n) 0x600
  if fldLe l 0 4 == 0xFFFFFFFF then 0
  else if !(fldLe l 0 4 == 0x4C49434E && fldLe l 4 2 == 1 && 1 ≤ fldLe l 7 1 && fldLe l 7 1 ≤ 3 && fldLe l 0xC 2 == 0x2304 && fldLe l 0xE 2 == 0 &&
            (slice l 0x30 1488).all (· == 0) && (s.rootKey v (fldLe l 6 1)).isSome &&
            sigForm (s.ven v (0x1D000 + 4096 * n + 0x600) 1536) && env.sigs.contains (.licence (Fin.ofNat 16 n))) then 3
  else if slice l 0x10 32 != s.idDigest v then 2
  else 1
def State.licTier (s : State) (v n : Nat) : Nat := fldLe (s.ven v (0x1D000 + 4096 * n) 0x600) 7 1
def State.licDigest (s : State) (v n : Nat) : List Byte := shake256 (s.ven v (0x1D000 + 4096 * n) 0xC00) 32
/-- The ROOT of a valid owner certificate for a key digest. -/
def State.certRoot (s : State) (env : StartEnv) (v : Nat) (key : List Byte) : Option Nat :=
  (List.range 8).findSome? fun n =>
    let c := s.ven v (0x2D000 + 4096 * n) 0x780
    if fldLe c 0 4 == 0x4F434552 && fldLe c 4 2 == 1 && (s.rootKey v (fldLe c 6 1)).isSome &&
       sigForm (s.ven v (0x2D000 + 4096 * n + 0x780) 1536) && env.sigs.contains (.owner (Fin.ofNat 8 n)) &&
       shake256 (slice c 0x50 1793) 32 == slice c 0x30 32 && slice c 0x10 32 == s.idDigest v && slice c 0x30 32 == key
    then some (fldLe c 6 1) else none

/-! ### The field log (R447-R450) -/

def flogBase : Nat := 0x4000000
def State.flogUnit (s : State) (n : Nat) : List Byte := s.flGet 1 (flogBase + 64 * (n % 2 ^ 20)) 64
def erased (l : List Byte) : Bool := l.all (· == 0xFF)
/-- What a start reads from the log: its records (type, START, DATA), where it ends, the last CHAIN, whether it broke, and the
records since the last isSeal. -/
structure FlogRead where
  recs : List (Nat × Nat × List Byte) := []
  next : Nat := 0
  chain : List Byte := List.replicate 32 0
  broken : Bool := false
  since : Nat := 0
  deriving DecidableEq, Repr
def State.flogWalk (s : State) : Nat → FlogRead → FlogRead
  | 0, r => r
  | f + 1, r =>
    let u := s.flogUnit r.next
    if erased u then r
    else if slice u 0x20 32 != shake256 (r.chain ++ slice u 0 0x20) 32 then { r with broken := true }
    else
      let isSeal := fldLe u 0 2 == 0xFF
      s.flogWalk f { r with recs := r.recs ++ [(fldLe u 0 2, fldLe u 4 4, slice u 0x10 16)], chain := slice u 0x20 32,
                            next := r.next + (if isSeal then 25 else 1), since := if isSeal then 0 else r.since + 1 }
/-- A SEAL record with its signature field stands in unit u of the ring. -/
def State.sealAt (s : State) (u : Nat) : Bool :=
  let r := s.flogUnit u
  fldLe r 0 2 == 0xFF && fldLe r 2 2 == 0 && (slice r 0x10 16).all (· == 0) &&
    sigForm ((List.range 24).flatMap fun i => s.flogUnit (u + 1 + i))
/-- The SEALs of the ring from which the log may be read: those whose signature verifies under DEVICE_PUBKEY, or without the device key
every one (R449). -/
def State.logSeals (s : State) (env : StartEnv) : List Nat :=
  (List.range (2 ^ 20)).filter fun u => (env.sigs.contains (.logSeal u) || s.devKey.isNone) && s.sealAt u
/-- The oldest of them, by START and UPTIME (log entry 93). -/
def State.oldestSeal (s : State) (env : StartEnv) : Option Nat :=
  let age (u : Nat) : Nat := let r := s.flogUnit u; fldLe r 4 4 * 2 ^ 64 + fldLe r 8 8
  (s.logSeals env).foldl (fun (o : Option Nat) u =>
    match o with
    | none => some u
    | some v => if age u < age v then some u else some v) none
/-- Read the log from the oldest SEAL that verifies, whose own CHAIN is taken as it stands, or from the ring's first unit (R449). -/
def State.flogRead (s : State) (env : StartEnv) : FlogRead :=
  match s.oldestSeal env with
  | some start =>
    let u := s.flogUnit start
    s.flogWalk (2 ^ 20) { recs := [(0xFF, fldLe u 4 4, slice u 0x10 16)], next := start + 25, chain := slice u 0x20 32 }
  | none => s.flogWalk (2 ^ 20) {}
/-- The incarnation after the START records read. -/
def flogInc (r : FlogRead) : Nat := (((r.recs.filter fun x => x.1 == 1).getLast?.map fun x => x.2.1).getD 0 + 1) % 2 ^ 32
/-- Laggard rows read, as (compute die, physical row). -/
def flogLag (r : FlogRead) : List (Nat × Nat) := (r.recs.filter fun x => x.1 == 2).map fun x => (fldLe x.2.2 0 1, fldLe x.2.2 1 1)

/-- A signature field over a digest by the device key (R420). -/
def sigField (key : Option (List Byte)) (digest : List Byte) : List Byte :=
  match key with
  | none => List.replicate 1536 0
  | some k =>
    let sig := 0x3A :: (Config.falconSign k digest).take 1533
    slice (natLe 2 sig.length ++ sig) 0 1536
/-- Write units at the write point; the sector ahead of it is erased first, which loses the oldest records (R449). -/
def State.flogPut (s : State) (bytes : List Byte) : State :=
  let n := cdiv bytes.length 64
  let s := (List.range n).foldl (fun (s : State) i =>
    let u := (s.flogAt + i) % 2 ^ 20
    let o := flogBase + 64 * u
    let s := s.flErase 1 (flogBase + (u / 1024 + 1) % 1024 * 65536) 65536
    s.flWrite 1 o (slice bytes (64 * i) 64)) s
  { s with flogAt := (s.flogAt + n) % 2 ^ 20 }
/-- Queue a record for the log. -/
def State.flog (s : State) (typ : Nat) (data : List Byte) : State := { s with flogQueue := s.flogQueue ++ [(typ, slice data 0 16)] }
/-- FIELD_LOG_APPEND: one record, and a SEAL when due (R448, R450). Without the device key nothing is appended. -/
def State.flogAppend (s : State) : State :=
  match s.flogQueue with
  | [] => s
  | (typ, data) :: rest =>
    if !s.pfailN || s.flush.isSome then s
    else if s.fld .flogStatus 0 1 == 0 then { s with flogQueue := rest }
    else
      let head := natLe 2 typ ++ natLe 2 0 ++ natLe 4 (s.reg .flogInc) ++ natLe 8 s.uptime ++ data
      let rec' := head ++ shake256 (s.flogChain ++ head) 32
      let isSeal := typ == 0xFF
      let s := { s with flogQueue := rest, flogChain := rec'.drop 32, flogSince := if isSeal then 0 else s.flogSince + 1 }
      let s := s.flogPut (rec' ++ (if isSeal then sigField s.devKey (shake256 rec' 64) else []))
      if s.flogSince ≥ 1024 then { s with flogQueue := (0xFF, List.replicate 16 0) :: s.flogQueue } else s

end Sys2Proof.Machine
end

