-- ==== Sys2Proof/Machine/Image.lean ====
section
/-! DEFINITION. The Kamoon image: header, sections, digests, the choice of a slot, and what each kind of entry sets
(R414-R424). -/

namespace Sys2Proof.Machine

/-- A section: its place in the image, its header and where its payload begins (R415). -/
structure Sec where
  ix : Nat
  typ : Nat
  flags : Nat
  len : Nat
  count : Nat
  off : Nat
  deriving DecidableEq, Repr

/-- The header field of n bytes at offset o of slot d. -/
def State.imgFld (s : State) (d o n : Nat) : Nat := leNat (s.flGet d o n)
/-- Bytes of a slot's image that D covers (R420). -/
def State.imgBody (s : State) (d : Nat) : List Byte := s.flGet d 0 (s.imgFld d 8 4 - 1536)
/-- D of a slot (R420). -/
def State.imgDigest (s : State) (d : Nat) : List Byte := shake256 (s.imgBody d) 64
/-- A slot's header makes it a candidate (R424). -/
def State.imgHead (s : State) (d : Nat) : Bool :=
  let size := s.imgFld d 8 4
  s.imgFld d 0 4 == 0x4B414D4E && s.imgFld d 4 2 == 1 && size % 16 == 0 && 1808 ≤ size && size ≤ 50331648 &&
    (s.flGet d 6 2 ++ s.flGet d 0x1C 4 ++ s.flGet d 0x80 128).all (· == 0) && s.imgFld d 0x1B 1 / 4 % 32 == 0

/-- Size of n MEMORY entries at an offset of the image, none where they pass a limit. -/
def State.memEnd (s : State) (d lim : Nat) : Nat → Nat → Option Nat
  | 0, o => some o
  | n + 1, o => if o + 16 > lim then none else s.memEnd d lim n (o + 16 + cdiv (s.imgFld d (o + 8) 4) 16 * 16)
/-- The entries exactly fill the section (R416). -/
def State.secFills (s : State) (d : Nat) (x : Sec) : Bool :=
  match x.typ with
  | 1 => x.count * 16 == x.len
  | 2 => s.memEnd d (x.off + x.len) x.count x.off == some (x.off + x.len)
  | 3 => x.count * 80 == x.len
  | 4 => x.count == 0
  | _ => x.flags / 2 % 2 == 1
/-- The sections from offset o, none where one is not well formed (R415, R416). -/
def State.secWalk (s : State) (d fin : Nat) : Nat → Nat → Nat → Option (List Sec)
  | 0, _, o => if o == fin then some [] else none
  | n + 1, ix, o =>
    let x : Sec := { ix := ix, typ := s.imgFld d o 2, flags := s.imgFld d (o + 2) 2, len := s.imgFld d (o + 4) 4, count := s.imgFld d (o + 8) 4,
                     off := o + 16 }
    if o + 16 > fin || x.off + x.len > fin || x.len % 16 != 0 || x.flags ≥ 4 || s.imgFld d (o + 12) 4 != 0 || !s.secFills d x then none
    else (s.secWalk d fin n (ix + 1) (x.off + x.len)).map (x :: ·)
def State.secs (s : State) (d : Nat) : Option (List Sec) := s.secWalk d (s.imgFld d 8 4 - 1536) (s.imgFld d 0xC 4) 0 0x100

/-- The pair digest (R421). -/
def State.imgPair (s : State) (d : Nat) : List Byte :=
  shake256 ((((s.secs d).getD []).filter fun (x : Sec) => x.flags % 2 == 1).flatMap fun x => s.flGet d (x.off - 16) (16 + x.len)) 32

/-- The WHY code of a candidate, 0 when it passes (R424), with vendor copy v. -/
def State.imgWhy (s : State) (env : StartEnv) (v d : Nat) : Nat :=
  let signer := s.imgFld d 0x1B 1
  let idd := s.flGet d 0x40 32
  if !(s.imgFld d 0x18 2 == 0x2304 && s.imgFld d 0x1A 1 == 0xB0) then 2
  else if !(idd.all (· == 0) || idd == s.idDigest v) then 3
  else if !(if signer / 128 == 1 then (s.certRoot env v (s.flGet d 0x20 32)).isSome else (s.rootKey v (signer % 4)).isSome) then 4
  else if env.xspiBad.contains (Fin.ofNat 2 d) then 5
  else if !(sigForm (s.flGet d (s.imgFld d 8 4 - 1536) 1536) && env.sigs.contains (.image (Fin.ofNat 2 d))) then 6
  else if (s.secs d).isNone then 7
  else 0
/-- Slots in the order they are tried, and WHY_A, WHY_B with the slot chosen (R424). -/
def State.imgChoose (s : State) (env : StartEnv) (v : Nat) : Nat × Nat × Option Nat :=
  let order : List Nat := if s.imgFld 1 0x10 4 > s.imgFld 0 0x10 4 && s.imgHead 1 then [1, 0] else [0, 1]
  let r := order.foldl (fun (acc : List (Nat × Nat) × Option Nat) d =>
    if !s.imgHead d then (acc.1 ++ [(d, 1)], acc.2)
    else if acc.2.isSome then (acc.1 ++ [(d, 8)], acc.2)
    else
      let w := s.imgWhy env v d
      (acc.1 ++ [(d, w)], if w == 0 then some d else none)) ([], none)
  let why (d : Nat) : Nat := ((r.1.find? fun (x : Nat × Nat) => x.1 == d).map fun (x : Nat × Nat) => x.2).getD 1
  (why 0, why 1, r.2)

/-! ### Applying entries (R417-R419) -/

/-- An entry is ignored: counted and recorded. -/
def State.badEntry (s : State) (x : Sec) (n : Nat) : State :=
  (s.satFld .imageInfo 19 13 1).event srcMgmt 0x0103 (natLe 4 x.ix ++ natLe 4 n)

/-- Kinds whose image values are the same in every instance (R417). -/
def sharedKind (k : RegKind) : Bool :=
  k == .faNode || k == .faUdp || k == .faCtxBase || k == .faCtxCount || k == .faOui || k == .faCc || k == .prCfg || k == .prBound ||
    k == .qmCfg || k == .qmSpill || k == .emDir
def RegKind.imgMask (k : RegKind) : Nat := k.mask fun f => f.img
/-- Set the image fields of one instance. -/
def State.imgSet (s : State) (k : RegKind) (i j v : Nat) : State := s.setReg k (maskIn (s.reg k i j) v k.imgMask) i j
/-- TILE_ID of a tile, the one tile register with an image field, GROUP (R77, R417). -/
def tileIdAddr (c : Nat) : Nat := 0x200000000000 + c * 0x400000 + 0x130000
/-- One REGS entry; none where it is ignored. -/
def State.imgReg (s : State) (a v : Nat) : Option State :=
  if 0x200000000000 ≤ a && a < 0x200000000000 + 2304 * 0x400000 then
    let c := (a - 0x200000000000) / 0x400000
    if a != tileIdAddr c || v &&& (maskAll ^^^ (63 <<< 14)) != 0 then none
    else some (s.modTile c fun T => { T with group := BitVec.ofNat 6 (v >>> 14) })
  else
    match regAt a with
    | none => none
    | some (k, i, j) =>
      if k.imgMask == 0 || v &&& (maskAll ^^^ k.imgMask) != 0 then none
      else if sharedKind k then
        if i != 0 then none else some ((List.range k.row.n1).foldl (fun s i => s.imgSet k i j v) s)
      else some (s.imgSet k i j v)

/-- Every REGS entry of the image, in order. -/
def State.imgRegs (s : State) (d : Nat) (l : List Sec) : State :=
  (l.filter fun (x : Sec) => x.typ == 1).foldl (fun s x =>
    (List.range x.count).foldl (fun s n =>
      (s.imgReg (s.imgFld d (x.off + 16 * n) 8) (s.imgFld d (x.off + 16 * n + 8) 8)).getD (s.badEntry x n)) (s.addFld .imageInfo 3 16 1)) s
/-- Every MEMORY entry, in order (R418). -/
def State.imgMems (s : State) (d : Nat) (l : List Sec) : State :=
  (l.filter fun (x : Sec) => x.typ == 2).foldl (fun s x =>
    ((List.range x.count).foldl (fun (acc : State × Nat) n =>
      let (s, o) := acc
      let a := s.imgFld d o 8
      let len := s.imgFld d (o + 8) 4
      (if len == 0 || s.mapped a len then s.startPut (s.flGet d (o + 16) len) a else s.badEntry x n, o + 16 + cdiv len 16 * 16))
      (s.addFld .imageInfo 3 16 1, x.off)).1) s
/-- The record of context c, 64 bytes, as run i of a CONTEXTS entry gives it (R419): the low 32 bits of an IPv4 address are the whole of
it (log entry 99). -/
def runRec (hdr tmpl : List Byte) (i : Nat) : List Byte :=
  let ip (o : Nat) : List Byte := natLe 4 (fldLe tmpl o 4 + i * fldLe hdr 12 4)
  slice tmpl 0 4 ++ natLe 2 (fldLe tmpl 4 2 + i * fldLe hdr 8 2) ++ slice tmpl 6 2 ++
    natLe 4 (setBits (fldLe tmpl 8 4) 0 20 (fldLe tmpl 8 4 + i * fldLe hdr 10 2)) ++ slice tmpl 12 12 ++
    (if (fldLe tmpl 12 1).testBit 6 then ip 24 ++ slice tmpl 28 12 else slice tmpl 24 12 ++ ip 36) ++ slice tmpl 40 24
/-- The context records the image gives, later runs replacing earlier ones, and what is ignored. -/
def State.imgCtxs (s : State) (d : Nat) (l : List Sec) : State × KMap (List Byte) :=
  (l.filter fun (x : Sec) => x.typ == 3).foldl (fun (acc : State × KMap (List Byte)) x =>
    (List.range x.count).foldl (fun (acc : State × KMap (List Byte)) n =>
      let hdr := s.flGet d (x.off + 80 * n) 16
      let tmpl := s.flGet d (x.off + 80 * n + 16) 64
      let first := fldLe hdr 0 4
      let cnt := fldLe hdr 4 4
      if first + cnt > 2 ^ 20 then (acc.1.badEntry x n, acc.2)
      else (acc.1, (List.range cnt).foldl (fun m i => kput m (first + i) (runRec hdr tmpl i)) acc.2)) (acc.1.addFld .imageInfo 3 16 1, acc.2)) (s, [])

end Sys2Proof.Machine
end

