-- ==== Sys2Proof/Machine/Flash.lean ====
section
/-! DEFINITION. The flash interface and attestation reports (R434, R435, R453-R456). -/

namespace Sys2Proof.Machine

/-! ### The flash interface -/

def State.flashSt (s : State) : Nat := s.fld .flStatus 0 2
/-- GO may be accepted: after READY or in diagnostic mode (R434, R453). -/
def State.serves (s : State) : Bool := s.ready || s.diag
def State.flashEnd (s : State) (st err done : Nat) : State :=
  { ((s.setFld .flStatus 0 2 st).setFld .flStatus 2 4 err).setFld .flStatus 7 25 done with flashOp := none }
/-- [off, off + len) of a device reaches the field log (R412). -/
def touchesLog (dev off len : Nat) : Bool := dev == 1 && len > 0 && (off ≥ 0x4000000 || off + len > 0x4000000)
/-- GO of FLASH.CTL with OP op (R434). -/
def State.flashGo (s : State) (op : Nat) : State :=
  if !s.serves || s.flashSt == 1 then s.setFld .flStatus 6 1 1
  else
    let s := s.setFld .flCtl 25 2 op
    let o : FlashOp := { op := op, dev := s.fld .flTarget 27 1, off := s.fld .flTarget 0 27, len := s.fld .flCtl 0 25, buf := s.fld .flBuf 0 48 }
    let align := if op == 1 then 65536 else if op == 2 then 256 else 1
    if op == 0 then s
    else if op != 3 && touchesLog o.dev o.off o.len then s.flashEnd 3 1 0
    else if o.len == 0 || o.len > 16777216 || o.off % align != 0 || o.len % align != 0 then s.flashEnd 3 2 0
    else { s.flashEnd 1 0 0 with flashOp := some o }

/-- The unit an operation completes by: a sector, or a page. -/
def FlashOp.unit (o : FlashOp) : Nat := if o.op == 1 then 65536 else 256
/-- The first n bytes of the operation take place. -/
def State.flashDo (s : State) (o : FlashOp) (n : Nat) : State :=
  match o.op with
  | 1 => s.flErase o.dev o.off n
  | 2 => let (s, d) := s.memRead .mgmt o.buf n; s.flWrite o.dev o.off d
  | _ => s.memWrite .mgmt o.buf (s.flGet o.dev o.off n)
/-- The operation ends early with an error, after some of its units; what stands in the unit it was at is free when that unit
had been begun. -/
def State.flashFail (s : State) (o : FlashOp) (err : Nat) (begun : Bool) : State :=
  let (s, v) := s.freeNext
  let lead := o.off % o.unit
  let k := v.toNat % (if begun then cdiv (lead + o.len) o.unit else (lead + o.len) / o.unit + 1)
  let n := k * o.unit - lead
  let s := if n == 0 then s else s.flashDo o n
  let s := if begun && o.op != 3 then
      let (s, l) := s.freeBytes (o.off + n) o.unit
      s.flWrite o.dev (o.off + n) l
    else s
  s.flashEnd 3 err n
/-- FLASH_DONE. Only PROGRAM reads back. -/
def State.flashDone (s : State) (how : FlashEnd) : State :=
  match s.flashOp with
  | none => s
  | some o =>
    match how with
    | .ok => (s.flashDo o o.len).flashEnd 2 0 o.len
    | .mismatch => if o.op == 2 then s.flashFail o 3 true else s
    | .xspi => s.flashFail o 4 true
/-- PFAIL_N stops it at a page boundary. -/
def State.flashStop (s : State) : State :=
  match s.flashOp with
  | none => s
  | some o => s.flashFail o 5 false

/-! ### Attestation -/

/-- The bytes of n 64-bit registers of a kind. -/
def State.regBytes (s : State) (k : RegKind) (n : Nat) : List Byte := (List.range n).flatMap fun i => natLe 8 (s.reg k i)
/-- A report without its signature (R454), 0xA00 bytes. -/
def State.report (s : State) : List Byte :=
  let flags := s.diag.toNat + 2 * s.fld .attStatus 5 1 + 4 * s.fld .boot 2 1 + 8 * s.fld .boot 18 1
  let lics := s.licDigests.take 16
  let a := natLe 4 0x41545354 ++ natLe 2 1 ++ natLe 2 flags ++ natLe 4 4096 ++ natLe 4 (s.reg .flogInc) ++ s.regBytes .nonce 4 ++
    s.regBytes .idDigest 4 ++ s.regBytes .imageDigest 8 ++ s.regBytes .pairDigest 4 ++ slice s.imgHeader 0x20 32 ++ s.regBytes .idRepair 4 ++
    slice s.flogChain 0 32 ++ natLe 8 (s.reg .image)
  let b := slice s.imgHeader 0x1B 1 ++ natLe 1 s.tier ++ natLe 1 lics.length ++ [0] ++ natLe 4 (s.reg .boot) ++ natLe 4 (s.reg .start) ++
    natLe 4 (s.reg .clStatus) ++ natLe 4 (s.reg .twState) ++ [0, 0, 0, 0] ++ ((List.range 4).flatMap fun d => natLe 4 (s.reg .rowMap d)) ++
    ((List.range 16).flatMap fun d => natLe 4 (s.reg .stStatus d)) ++ natLe 8 s.uptime ++ natLe 8 0 ++ lics.flatten
  slice (a ++ b) 0 0xA00
/-- BUF may take a report: one mapped region, or the ingress SRAM window in diagnostic mode (R453). -/
def State.attBufOk (s : State) (b : Nat) : Bool :=
  b % 64 == 0 && ((s.mapped b 4096 && b >>> 36 == (b + 4095) >>> 36) ||
    (portBase ≤ b && b < portBase + 0x20000000 && s.inIngress 0 (b - portBase) 4096))
/-- GO of ATTEST.CTL. -/
def State.attGo (s : State) : State :=
  let b := s.fld .attBuf 0 48
  if !s.serves || s.fld .attStatus 0 2 == 1 then s.setFld .attStatus 4 1 1
  else if !s.attBufOk b then s.setFld .attStatus 0 4 (3 + 4 * 1)
  else
    let body := s.report
    { s.setFld .attStatus 0 4 1 with att := some { buf := b, bytes := body ++ sigField (if s.fld .attStatus 5 1 == 1 then none else s.devKey) (shake256 body 64) } }
/-- ATTEST_DONE. -/
def State.attDone (s : State) : State :=
  match s.att with
  | none => s
  | some r =>
    let s := ({ s with att := none }.memWrite .mgmt r.buf r.bytes).setFld .attStatus 0 4 2
    (s.guardsBuf r.buf).foldl (fun s g => s.guardComplete g) (s.count .attCount 1)
/-- PFAIL_N stops a request. -/
def State.attStop (s : State) : State :=
  match s.att with
  | none => s
  | some _ => { s.setFld .attStatus 0 4 (3 + 4 * 2) with att := none }

end Sys2Proof.Machine
end

