-- ==== Sys2Proof/Machine/Power.lean ====
section
/-! DEFINITION. Rails, tile levels, the thermal and power policy, fatal errors, the Cloche flush, and the three resets
(R384-R386, R392-R410, R445, R460, R494). -/

namespace Sys2Proof.Machine

/-! ### Rails (R392, R394, R445) -/

/-- Boot voltage of rail r in mV. -/
def bootMv (r : Nat) : Nat :=
  if r < 4 then 800 else if r < 8 then 750 else if r < 12 then 1050 else if r < 16 then 750 else if r < 18 then 800 else if r < 20 then 750
  else if r < 22 then 1200 else if r == 22 then 800 else if r == 23 then 1800 else 1200
/-- VOLT(l) of die d in the AVS table in use. -/
def State.tabMv (s : State) (d l : Nat) : Nat := fldLe s.avsTab (32 * d + 2 * l) 2
/-- Whether a rail may take a table value: its range of R392, in 5 mV steps. -/
def mvOk (r v : Nat) : Bool :=
  v % 5 == 0 && (if r < 4 then 600 ≤ v && v ≤ 900 else if r < 8 then 650 ≤ v && v ≤ 850 else 700 ≤ v && v ≤ 900)
/-- Every value of the table that rail r may be set from (R445). -/
def State.railTabs (s : State) (r : Nat) : List Nat :=
  if r < 4 then (List.range 14).map fun l => s.tabMv r l
  else if r < 8 then (List.range 4).map fun k => s.tabMv (6 + 4 * (r - 4) + k) 0
  else if 16 ≤ r && r < 18 then [s.tabMv (4 + (r - 16)) 0]
  else []
/-- The voltage rail r is set to at level l (R394, R445); a bad value leaves the boot voltage. -/
def State.railMv (s : State) (r l : Nat) : Nat :=
  let vs := if r < 4 then [s.tabMv r l] else s.railTabs r
  if vs.isEmpty || vs.any fun v => !mvOk r v then bootMv r else vs.foldl max 0
def State.setMv (s : State) (r v : Nat) : State := s.setFld .rail 0 12 v r
/-- The AVSBus and the rail address of rail r (R486). -/
def avsBus (r : Nat) : Nat × Nat := if r ≤ 12 then (0, r) else (1, r - 13)
/-- A transaction completes: the rail's target is written (R394). -/
def State.avsSet (s : State) (r v : Nat) : State := { s.setMv r v with avsOut := s.avsOut ++ [((avsBus r).1, (avsBus r).2, v)] }
/-- An AVSBus transaction that is not completed (R395), or a bad table value (R445). -/
def State.avsErr (s : State) (r : Nat) : State := (s.setFld .rail 48 1 1 r).event srcMgmt 0x0B01 (natLe 1 r)

/-! ### Tile levels and throttle groups (R401-R403) -/

/-- DIV and GATE of a level. -/
def levelClk (l : Nat) : Nat × Nat :=
  match l with
  | 0 => (4, 0) | 1 => (4, 1) | 2 => (4, 2) | 3 => (4, 3) | 4 => (5, 0) | 5 => (5, 1) | 6 => (5, 2) | 7 => (6, 0) | 8 => (6, 1) | 9 => (6, 2)
  | 10 => (8, 0) | 11 => (8, 2) | 12 => (8, 4) | _ => (8, 8)
/-- The floor level (R402). -/
def State.floorLevel (s : State) : Nat := match s.qmDiv with | 4 => 0 | 5 => 4 | 6 => 7 | _ => 10
def dieOfTile (c : Nat) : Nat := 2 * (c / 64 / 18) + c % 64 / 32
def State.groupOf (s : State) (c : Nat) : Nat := (s.tile c).group.toNat
/-- Compute dies that hold a tile of group g, and groups that have a tile on die n. -/
def State.groupDies (s : State) (g : Nat) : List Nat :=
  (List.range 4).filter fun n => (List.range 2304).any fun c => dieOfTile c == n && s.groupOf c == g
def State.dieGroups (s : State) (n : Nat) : List Nat :=
  (List.range 64).filter fun g => (List.range 2304).any fun c => dieOfTile c == n && s.groupOf c == g
def State.level (s : State) (g : Nat) : Nat := s.fld .clkGroup 0 4 g
def State.setLevel (s : State) (g l : Nat) : State :=
  (s.setFld .clkGroup 0 4 l g).setFld .clkGroup 8 1 (decide (l > s.floorLevel)).toNat g
/-- The level a group should have: the slowest of its thermal level, its power level and CAP (R403). -/
def State.target (s : State) (g : Nat) : Nat := max (max (s.grp g).th (s.grp g).pw) (min (s.grp g).cap s.floorLevel)
/-- A policy tick takes CAP of every group. -/
def State.takeCaps (s : State) : State :=
  (List.range 64).foldl (fun (s : State) g => { s with groups := kmod s.groups g {} fun G => { G with cap := s.fld .clkGroup 4 4 g } }) s
/-- VCORE(n) for the fastest level in use on die n, with levels as lv says (R394). -/
def State.coreMv (s : State) (n : Nat) (lv : Nat → Nat) : Nat := s.railMv n (((s.dieGroups n).map lv).foldl min 13)
def State.mv (s : State) (r : Nat) : Nat := s.fld .rail 0 12 r
/-- Forget that a group waits for a voltage. -/
def State.unpend (s : State) (g : Nat) : State := { s with avs := s.avs.map fun (x : Nat × List Nat) => (x.1, x.2.filter (· != g)) }
/-- Levels with the raises that wait for a rail. -/
def State.wanted (s : State) (h : Nat) : Nat :=
  if s.avs.any fun (x : Nat × List Nat) => x.2.contains h then min (s.target h) (s.level h) else s.level h
/-- Rails of these dies that stand above the voltage of the fastest level in use or on its way are lowered 10 µs later (R394, R395). -/
def State.lowers (s : State) (dies : List Nat) : State :=
  { s with avsLower := (dies.filter fun n => s.coreMv n s.wanted < s.mv n).foldl (fun l n => insertNat n l) s.avsLower }
/-- Move a group towards its target: a slower clock at once, a faster one when every rail it needs allows it (R395). -/
def State.retune (s : State) (g : Nat) : State :=
  let t := s.target g
  let dies := s.groupDies g
  if t == s.level g then (s.unpend g).lowers dies
  else if dies.any fun n => s.avsBad.contains n then s
  else if t > s.level g then ((s.setLevel g t).unpend g).lowers dies
  else
    let lack := dies.filter fun n => s.mv n < s.coreMv n fun h => if h == g then t else s.level h
    if lack.isEmpty then ((s.setLevel g t).unpend g).lowers dies
    else { s with avs := lack.foldl (fun a n => kmod a n [] (insertNat g)) (s.unpend g).avs }.lowers dies
/-- CAPPED and BELOW_FLOOR. -/
def State.throttleStatus (s : State) : State :=
  let capped := (List.range 64).any fun g => (s.grp g).pw > 0 && (s.grp g).pw == s.target g
  (s.setFld .thermStatus 8 1 capped.toNat).setFld .thermStatus 9 1 ((List.range 64).any fun g => decide (s.level g > s.floorLevel)).toNat
/-- What a transaction of rail r that completes sets it to: after a failed one, what the levels its groups want need. -/
def State.avsTarget (s : State) (r : Nat) : Nat :=
  s.railMv r ((((s.dieGroups r).map fun h => if s.avsBad.contains r then min (s.target h) (s.level h) else s.wanted h)).foldl min 13)
/-- AVS_COMPLETE (R395): a rail that was bad takes its voltage now, and its die's groups may change level again. -/
def State.avsDone (s : State) (r : Nat) (how : AvsEnd) : State :=
  match how with
  | .failed => { s.avsErr r with avsBad := insertNat r s.avsBad }
  | _ =>
    let bad := s.avsBad.contains r
    let waits := kget s.avs r []
    if waits.isEmpty && !bad then s
    else
      let s := s.avsSet r (s.avsTarget r)
      ((if bad then s.dieGroups r else waits).foldl (fun (s : State) g => s.retune g)
        { s with avs := kdel s.avs r, avsBad := s.avsBad.filter (· != r) }).throttleStatus
/-- VOLTAGE_LOWER (R395). -/
def State.voltLower (s : State) (r : Nat) (done : Bool) : State :=
  if !s.avsLower.contains r then s
  else
    let s := { s with avsLower := s.avsLower.filter (· != r) }
    if done then
      let v := s.coreMv r s.wanted
      { (if v < s.mv r then s.avsSet r v else s) with avsBad := s.avsBad.filter (· != r) }
    else { s.avsErr r with avsBad := insertNat r s.avsBad }

/-! ### Samples and the policy (R404, R405, R494) -/

/-- HOT, and POWER_CAP in W; a value out of range reads as the default. -/
def State.hot (s : State) : Nat := let h := s.fld .thermCfg 0 8; if 80 ≤ h && h ≤ 105 then h else 98
def State.powerCap (s : State) : Nat := 10 * (let c := s.fld .thermCfg 8 12; if 100 ≤ c && c ≤ 420 then c else 420)
/-- The management engine runs: no start waits for the pins to be given back (R489). -/
def State.samples (s : State) : Bool := s.pwrgood && s.resetN && s.warmN && (s.startWait.isNone || s.flush.isSome)
/-- Tiles, engines and ports are clocked. -/
def State.on (s : State) : Bool := s.samples && !s.gated
/-- Step 5 of R426 has been reached, or the warm fast path taken: the regulators are sampled, and the stacks (R494). -/
def State.avsBegun (s : State) : Bool := !(s.diag && s.fld .boot 14 4 ≤ 3) || s.fld .boot 2 1 == 1
def State.stackSampled (s : State) (st : Nat) : Bool := !(s.diag && s.fld .boot 14 4 ≤ 3) || (s.fld .boot 2 1 == 1 && st < 2)
/-- Die sensors, and T_g of every group with a reading. -/
def State.sampleDies (s : State) (r : Readings) : State :=
  let s := r.die.foldl (fun (s : State) (x : Nat × Nat) =>
    if x.1 < 22 then (s.setFld .thermDie 0 8 (min x.2 255) x.1).maxFld .thermDie 8 8 (min x.2 255) x.1 else s) s
  let s := s.setFld .thermStatus 0 8 (((List.range 22).map fun d => s.fld .thermDie 0 8 d).foldl max 0)
  (List.range 64).foldl (fun s g =>
    let l := r.tiles.filter fun (x : Nat × Nat) => x.1 < 2304 && s.groupOf x.1 == g
    if l.isEmpty then s else s.setFld .clkGroup 9 8 (min 255 ((l.map fun (x : Nat × Nat) => x.2).foldl max 0)) g) s
/-- Regulator readings and their sum. -/
def State.sampleRails (s : State) (r : Readings) : State :=
  let s := r.rails.foldl (fun (s : State) (x : Nat × (Nat × Nat)) =>
    if x.1 < 25 then
      ((s.setFld .rail 12 12 (min x.2.1 4095) x.1).setFld .rail 24 12 (min x.2.2 4095) x.1).maxFld .rail 36 12 (min x.2.2 4095) x.1
    else s) s
  let w := min 65535 (((List.range 25).map fun r => s.fld .rail 12 12 r * s.fld .rail 24 12 r).sum / 1000)
  (s.setFld .total 0 16 w).maxFld .total 16 16 w
/-- The thermal rules for group g (R404), with the way back for its power level (R405). -/
def State.thermGroup (s : State) (g : Nat) : State :=
  let G := s.grp g
  let t := s.fld .clkGroup 9 8 g
  let hot := s.hot
  let since := if s.level g ≥ s.floorLevel && t ≥ hot + 5 then some (G.hotSince.getD s.uptime) else none
  let deep := G.deep || (match since with | some u => s.uptime - u ≥ 10000000 | none => false)
  let s := if deep && !G.deep then s.promiseVoid 1 g else s
  let lim := if deep then 13 else s.floorLevel
  let ago (o : Option Nat) (d : Nat) : Bool := match o with | some u => s.uptime - u ≥ d | none => true
  let G := { G with hotSince := since, deep := deep }
  let G :=
    if t ≥ hot then
      if G.th < lim && ago G.lastSlow 1000000 then { G with th := G.th + 1, lastSlow := some s.uptime, lastChange := some s.uptime } else G
    else if t + 4 ≤ hot && ago G.lastChange 10000000 then
      let pw := if G.pw > 0 && s.fld .total 0 16 * 100 ≤ s.powerCap * 95 then G.pw - 1 else G.pw
      if G.th > 0 || pw != G.pw then { G with th := G.th - 1, pw := pw, lastChange := some s.uptime } else G
    else G
  { s with groups := kput s.groups g G }
def State.retuneAll (s : State) : State := ((List.range 64).foldl (fun s g => s.retune g) s.takeCaps).throttleStatus
/-- THERMAL_TICK. -/
def State.thermTick (s : State) (r : Readings) : State :=
  if !s.samples then s
  else
    let s := s.sampleDies r
    let s := if s.ready && !s.gated then ((List.range 64).foldl (fun s g => s.thermGroup g) s).retuneAll else s
    s.tempAlert
/-- POWER_TICK (R405). -/
def State.powTick (s : State) (r : Readings) : State :=
  if !s.samples || !s.avsBegun then s
  else
    let s := s.sampleRails r
    let s := if s.ready && !s.gated then
        (if s.fld .total 0 16 > s.powerCap then
          (List.range 64).foldl (fun (s : State) g => { s with groups := kmod s.groups g {} fun G => { G with pw := max G.pw (min (s.level g + 1) s.floorLevel) } }) s
        else s).retuneAll
      else s
    s.powerAlert

/-! ### The flush (R384-R386) -/

/-- Journal writes already started complete (step 3 of R384). -/
def State.jSettle (s : State) : State :=
  (s.items.filter fun (i : Item) => i.journal.isSome && !i.journalled).foldl (fun (s : State) (i : Item) =>
    (s.jComplete (i.journal.getD 0) (i.origin == 1) i.bytes).modItem i.id fun x => { x with journalled := true }) s
/-- The slot the flush writes is unsealed until step 7 (R385). -/
def State.unseal (s : State) : State :=
  { s with nand := s.nand.map fun (x : Nat × NandSlot) => if x.1 == s.fld .clStatus 7 1 then (x.1, { x.2 with anchor := [] }) else x }
/-- Steps 2 to 4 of R384; a trip leaves out step 3 (R406). -/
def State.beginFlush (s : State) (why : FlushWhy) : State :=
  let s := (if why == .trip then s else s.jSettle).unseal
  { s.setFld .clStatus 4 1 1 with flush := some why, flushAt := s.uptime, ready := false, gated := true, early := none }
/-- The flush ends; the journal in HBM takes no second one before a restart. -/
def State.endFlush (s : State) : State := { s.setFld .clStatus 4 1 0 with flush := none, journalValid := false }
/-- Nonzero bytes of a list, keyed from o. -/
def sparse (o : Nat) (l : List Byte) : KMap Byte := (l.zipIdx.filter fun (x : Byte × Nat) => x.1 != 0).map fun (x : Byte × Nat) => (o + x.2, x.1)
/-- Ring pages from OLDEST to WRITE, in journal order. -/
def State.ringPages (s : State) : List Nat :=
  let a := s.reg .clOldest
  let n := if s.jRing == 0 then 0 else (s.reg .clWrite + s.jRing - a) % s.jRing
  if n == 0 then []
  else distinct ((List.range ((a + n - 1) / 4096 - a / 4096 + 1)).map fun i =>
    let o := (a / 4096 + i) * 4096
    if o < s.jBytes then o else o - s.jRing)
/-- The anchor as a flush writes it: counters, duration and SEAL (R377). -/
def State.sealAnchor (s : State) (chans count us : Nat) : List Byte :=
  let b := s.jGet 0 jStart
  let b := natLe 4 0x434C4F43 ++ natLe 2 1 ++ natLe 1 chans ++ [0] ++ natLe 8 count ++ natLe 8 (s.reg .clOldest) ++ natLe 8 (s.reg .clWrite) ++
    natLe 8 s.nextJsn ++ natLe 4 us ++ natLe 4 (s.fld .clCfg 0 10) ++ slice b 0x30 0xB0 ++ List.replicate 32 0 ++ b.drop 0x100
  b.take 0xE0 ++ shake256 b 32 ++ b.drop 0x100
/-- Blocks found bad are recorded in the field log and skipped from then on (R386). -/
def State.nandFound (s : State) (bad : List (Fin 2 × Nat)) : State :=
  bad.foldl (fun (s : State) x =>
    { s.flog 5 (natLe 1 x.1.val ++ [0] ++ natLe 4 x.2) with nandBad := if s.nandBad.contains x then s.nandBad else s.nandBad ++ [x] }) s
/-- The block of a slot that holds its i-th page on a channel, bad blocks skipped, and the page of the block (R386). -/
def State.nandPlace (s : State) (k : Nat) (c : Fin 2) (i : Nat) : Nat × Nat :=
  let per := Config.nandPages + 1
  let base := Config.nandBase k
  let good := (List.range (i / per + s.nandBad.length + 1)).filter fun b => !s.nandBad.contains (c, base + b)
  (base + good.getD (i / per) 0, i % per)
/-- The ring pages in journal order: page k goes to channel k mod 2, or to the one channel that works, at that channel's next good page. -/
def State.nandPages (s : State) (k : Nat) (chans : List (Fin 2)) : List NandPage :=
  s.ringPages.foldl (fun (l : List NandPage) o =>
    let c : Fin 2 := match chans with
      | [c] => c
      | _ => Fin.ofNat 2 (o / 4096)
    let (b, p) := s.nandPlace k c (l.filter (·.chan == c)).length
    l ++ [{ page := o / 4096, chan := c, block := b, at' := p }]) []
/-- Steps 5 to 7: the anchor is sealed, and the slot the previous flush did not write is written on the channels that work (R386). -/
def State.sealSlot (s : State) (chans : List (Fin 2)) (us : Nat) : State :=
  if chans.isEmpty then s
  else
    let count := s.reg .clFlushCount + 1
    let ring := s.ringPages.foldl (fun (m : KMap Byte) o => (sparse o (s.jGet o 4096)).foldl (fun m (x : Nat × Byte) => kput m x.1 x.2) m) []
    let anchor := s.sealAnchor chans.length count us
    let k := s.fld .clStatus 7 1
    let slot : NandSlot := { anchor := sparse 0 anchor, chans := chans, pages := s.nandPages k chans, ring := ring }
    let s := s.jPut 0 (anchor.take 256)
    { s.setReg .clFlushCount count with nand := kput s.nand k slot }

/-! ### Resets (R407-R410) -/

/-- Registers a reset keeps: the first fatal record and the last samples (R460, R494). -/
def keptReg (a : Nat) : Bool :=
  match regAt a with
  | some (k, _, _) => k == .evFatal || k == .rail || k == .total || k == .thermStatus || k == .thermDie || k == .clkGroup || k == .stTemp
  | none => false
/-- Registers of stacks 0 and 1, the host ports, the twin link and the ONFI channels, that a warm reset keeps too (R408). -/
def warmReg (a : Nat) : Bool :=
  match regAt a with
  | some (k, i, j) =>
    ((k == .stStatus || k == .stRetired || k == .stLane) && i < 2) || (k == .poLink && 16 ≤ j) || k == .twState || k == .clStatus
  | none => false
/-- STATUS of a stack kept through a warm reset: a trip holds until the next start, and what the temperature set goes (R283, R287). -/
def State.heldStatus (s : State) (st : Nat) : Nat :=
  let retired := s.fld .stStatus 2 7 st
  (if s.fld .stStatus 0 2 st == 3 then (if retired == 0 then 0 else 1) else s.fld .stStatus 0 2 st) + 4 * retired + 512 * s.fld .stStatus 9 5 st
/-- Rails hold their boot voltage until the AVS step of a start sequence (R394). -/
def State.bootRails (s : State) : State := (List.range 25).foldl (fun s r => s.setMv r (bootMv r)) s
/-- Parts of kept registers that a reset clears all the same. -/
def State.trimKept (s : State) : State :=
  let s := (List.range 25).foldl (fun s r => s.setFld .rail 48 1 0 r) (s.setFld .thermStatus 8 2 0)
  let s := (List.range 64).foldl (fun s g => s.setFld .clkGroup 0 9 0 g) s
  -- of a host port's link the training is kept, not the drops counted since the start before (R322, R408)
  let s := [16, 17].foldl (fun (s : State) p => if s.port .poLink 0 32 p == 0 then s else s.setPort .poLink 16 16 p 0) s
  let s := (List.range 2).foldl (fun (s : State) st => s.setFld .stStatus 0 19 (s.heldStatus st) st) s
  (s.setReg .twState (bits (s.reg .twState) 3 2 * 8)).setReg .clStatus (bits (s.reg .clStatus) 5 2 * 32)
/-- The device in reset. `warm` keeps stacks 0 and 1 and the always-on record. Outputs already sent stay sent. -/
def State.enterReset (s : State) (warm : Bool) (cause : Nat) : State :=
  let r : State :=
    { State.reset with
      pending := s.pending, freeCount := s.freeCount, uptime := s.uptime, pllLocked := s.pllLocked, pwrgood := s.pwrgood, resetN := s.resetN, warmN := s.warmN, pfailN := s.pfailN,
      thermN := s.thermN, flash := s.flash, nand := s.nand, nandBad := s.nandBad, rom := s.rom, i3cAddr := s.i3cAddr, i3cOffset := s.i3cOffset, i3cOut := s.i3cOut,
      ibis := s.ibis, wire := s.wire, twinOut := s.twinOut, twinFrom := s.twinOut.length, rdata := s.rdata, jtagIr := s.jtagIr, jtagX := s.jtagX, cells := s.cells,
      jtagPins := s.jtagPins, tdo := s.tdo, outside := s.outside, avsOut := s.avsOut, flogQueue := s.flogQueue.filter fun x => x.1 == 5,
      regs := s.regs.filter fun (x : Nat × BitVec 64) => keptReg x.1 || (warm && warmReg x.1),
      hbm := if warm then s.hbm.filter fun (x : Nat × Byte) => x.1 < 2 ^ 38 else [],
      poison := if warm then s.poison.filter fun g => g < 2 ^ 32 else [],
      upset := if warm then s.upset.filter fun x => x.1 < 2 ^ 32 else [],
      aon := if warm then s.aon else none, onfi := if warm then s.onfi else [],
      xspiUp := warm && s.xspiUp, xspiOctal := warm && s.xspiOctal }
  let r := if warm then r else r.bootRails
  r.trimKept.setReg .cause (if s.thermN then cause else 4)
/-- COLD_RESET: RESET_N falls. -/
def State.coldResetOp (s : State) : State :=
  if !s.pwrgood || !s.resetN then s
  else
    let s := { s with resetN := false, startWait := none }
    if s.flush.isSome then { s with resetAfter := some true }
    else if s.journalValid then { s.beginFlush .reset with resetAfter := some true }
    else s.enterReset false 1
/-- WARM_RESET: WARM_N falls. With RESET_N low too it is a cold reset, which is already taken. -/
def State.warmResetOp (s : State) : State :=
  if !s.pwrgood || !s.warmN then s
  else
    let s := { s with warmN := false, startWait := none }
    if !s.resetN then s
    else if s.flush.isSome then { s with resetAfter := some (s.resetAfter.getD false) }
    else s.enterReset true 3
/-- FLUSH_COMPLETE; blocks that failed are recorded, and a reset that waited is then taken (R385, R386, R409, R410). -/
def State.flushDone (s : State) (chans : List (Fin 2)) (us : Nat) (bad : List (Fin 2 × Nat)) : State :=
  match s.flush with
  | none => s
  | some why =>
    let s := ((s.nandFound bad).sealSlot chans us).endFlush
    match s.resetAfter with
    | some true => s.enterReset false (if why == .reset then 2 else 1)
    | some false => s.enterReset true 3
    | none => s
/-- The flush stops with its slot unsealed; a reset that waited is taken. -/
def State.flushStop (s : State) : State :=
  let s := s.endFlush
  match s.resetAfter with
  | some true => s.enterReset false 1
  | some false => s.enterReset true 3
  | none => s
/-- CLOCHE_FLUSH: PFAIL_N falls, having risen since the last fall (R384, R385). Within 50 ms of a rise of WARM_N no flush follows
(R410). -/
def State.pfail (s : State) : State :=
  if !s.pwrgood then { s with pfailN := false, jtagPins := false }
  else
    let s := { (s.flashStop).attStop with pfailN := false, jtagPins := false }
    if s.flush.isNone && s.journalValid && s.warmUntil ≤ s.uptime then s.beginFlush .pfail else s
/-- POWER_ON_RESET: PWRGOOD falls. -/
def State.powerOff (s : State) : State :=
  { State.reset with
    pending := s.pending, freeCount := s.freeCount, flash := s.flash, nand := s.nand, nandBad := s.nandBad, rom := s.rom, ibis := s.ibis, wire := s.wire, twinOut := s.twinOut,
    twinFrom := s.twinOut.length, rdata := s.rdata, i3cOut := s.i3cOut, jtagIr := s.jtagIr, jtagX := s.jtagX, cells := s.cells, jtagPins := s.jtagPins, tdo := s.tdo,
    outside := s.outside, avsOut := s.avsOut, pfailN := s.pfailN }
/-- ROOT_PLL_LOCK. -/
def State.pllLock (s : State) : State := if s.pllLocked then s else { s with pwrgood := true, pllLocked := true }

/-! ### Fatal errors (R406, R460) -/

/-- The management engine is out of reset, or runs the flush of one. -/
def State.engineOn (s : State) : Bool := s.samples || s.flush.isSome
/-- SOURCE of a die's sensors, by the index of R439 (R462). -/
def srcSensor (d : Nat) : Nat := if d < 4 then 0xFF10 + d else if d < 6 then srcPort (d - 4) else srcDie (d - 6)
/-- THERM_TRIP. -/
def State.trip (s : State) (die celsius : Nat) : State :=
  if !s.engineOn || celsius < 115 then s
  else
    let s := ((s.setFld .thermDie 0 8 celsius die).maxFld .thermDie 8 8 celsius die).maxFld .thermStatus 0 8 celsius
    let s := { s.fatalRec (srcSensor die) 0x0F01 (natLe 1 die ++ natLe 1 celsius) with thermN := false, gated := true, ready := false, faultN := false }
    match s.flush with
    | some w => if flushDie die && (w == .pfail || w == .reset) then s.flushStop else s
    | none => if s.journalValid && !flushDie die then s.beginFlush .trip
    else { s with journalValid := false }
/-- PLL_UNLOCK and MGMT_MEM_UE: no flush, and one that PFAIL_N or RESET_N started stops; after an earlier fatal error they only count. -/
def State.fatalStop (s : State) (typ : Nat) (data : List Byte) : State :=
  if !s.engineOn then s
  else
    let later := s.fatal
    let s := s.fatalRec srcMgmt typ data
    match s.flush with
    | some w => if w == .pfail || w == .reset then s.flushStop else s
    | none => if later then s else { s with journalValid := false, gated := s.gated || typ == 0x0F02 }
/-- WATCHDOG. -/
def State.watchdogOp (s : State) : State :=
  if !s.engineOn then s
  else
    let s := s.fatalRec srcMgmt 0x0F04 (natLe 1 (s.fld .start 0 4))
    if s.flush.isNone && s.journalValid then s.beginFlush .watchdog else s

end Sys2Proof.Machine
end

