-- ==== Sys2Proof/Machine/Train.lean ====
section
/-! DEFINITION. What a start tests and repairs: rows of tiles, stacks, lanes, regions, the Cloche's hold-up and its restore, links
(R22-R24, R269, R270, R276-R280, R291-R293, R376, R382-R389). -/

namespace Sys2Proof.Machine

/-! ### Rows (R22-R24) -/

/-- Rows of die d chosen for retirement, with why: repair map 1, BIST 2, laggard 3, filler 0 (R23). -/
def rowChoice (rep bist lag : List Nat) : List (Nat × Nat) :=
  let add (l : List (Nat × Nat)) (rows : List Nat) (why : Nat) : List (Nat × Nat) :=
    rows.foldl (fun l r => if l.length ≥ 2 || l.any (fun x => x.1 == r) then l else l ++ [(r, why)]) l
  add (add (add (add [] rep 1) bist 2) lag 3) ((List.range 20).reverse) 0
/-- Row repair of die d: ROW_MAP(d) (R26). -/
def State.rowRepair (s : State) (env : StartEnv) (v : Nat) (lag : List (Nat × Nat)) (d : Nat) : State :=
  let rep := sortNat ((s.repairs v).filterMap fun (x : Nat × Nat × Nat × Nat) => if x.1 == 1 && x.2.1 == d then some x.2.2.1 else none)
  let bist := sortNat (env.bist.filterMap fun (x : Nat × Nat) => if x.1 == d && x.2 < 20 then some x.2 else none)
  let lags := sortNat (lag.filterMap fun (x : Nat × Nat) => if x.1 == d && x.2 < 20 then some x.2 else none)
  let l := rowChoice rep bist lags
  let failed := (sortNat (rep ++ bist)).length
  let deferred := (lags.filter fun r => !l.any fun x => x.1 == r).length
  let (a, b) := match l with
    | x :: y :: _ => if x.1 < y.1 then (x, y) else (y, x)
    | _ => ((0, 0), (0, 0))
  s.setReg .rowMap (a.1 + 32 * a.2 + 256 * b.1 + 8192 * b.2 + 2 ^ 16 * failed + 2 ^ 21 * deferred + 2 ^ 26 * (decide (failed > 2)).toNat) d

/-! ### Stacks (R276-R280) -/

/-- Lanes of one channel after training: spares used (lane, from the map), and lanes no spare covers. -/
def spareLanes (n : Nat) (fromMap failed : List Nat) : List (Nat × Bool) × List Nat :=
  let all := (sortNat fromMap).map (fun l => (l, true)) ++ ((sortNat failed).filter fun l => !fromMap.contains l).map fun l => (l, false)
  (all.take n, (all.drop n).map fun x => x.1)
/-- One channel: LANE_REPAIR, new repairs in the field log, and the causes its pseudo-channels are retired for. -/
def State.trainChannel (s : State) (v st : Nat) (t : StackTrain) (c : Nat) : State × List (Nat × Nat) :=
  let ofMap (typ : Nat) : List Nat := (s.repairs v).filterMap fun (x : Nat × Nat × Nat × Nat) =>
    if x.1 == typ && x.2.1 == st && x.2.2.1 == c then some x.2.2.2 else none
  let found (l : List (Nat × Nat)) (n : Nat) : List Nat := l.filterMap fun x => if x.1 == c && x.2 < n then some x.2 else none
  let (data, lost) := spareLanes 2 (ofMap 2) (found t.dataFail 64)
  let (ca, lostCa) := spareLanes 1 (ofMap 3) (found t.caFail 16)
  let spare (k : Nat) : Nat × Bool := data.getD k (127, false)
  let cas : Nat × Bool := ca.getD 0 (31, false)
  let lane := (spare 0).1 + 128 * (spare 1).1 + 2 ^ 14 * cas.1 + 2 ^ 19 * (spare 0).2.toNat + 2 ^ 20 * (spare 1).2.toNat + 2 ^ 21 * cas.2.toNat +
    2 ^ 22 * (!lost.isEmpty || !lostCa.isEmpty).toNat
  let s := s.setReg .stLane lane st c
  let note (kind : Nat) (s : State) (x : Nat × Bool) : State := if x.2 then s else s.flog 3 (natLe 1 st ++ natLe 1 c ++ natLe 1 x.1 ++ natLe 1 kind)
  let s := ca.foldl (note 1) (data.foldl (note 0) s)
  let cause (h : Nat) : List (Nat × Nat) :=
    if lost.any fun l => l / 32 == h then [(2 * c + h, 0)] else if !lostCa.isEmpty then [(2 * c + h, 1)]
    else if t.patternFail.contains (2 * c + h) then [(2 * c + h, 2)] else []
  (s, cause 0 ++ cause 1)
/-- Usable bands with k pseudo-channels retired (R278). -/
def usableBands (k : Nat) : Nat := min 24 ((64 - k) * 3 / 8)
/-- Training of stack st; its DRAM reads as zero afterwards. -/
def State.trainStack (s : State) (env : StartEnv) (v st : Nat) : State :=
  let t : StackTrain := kget env.train st {}
  let (s, causes) := (List.range 32).foldl (fun (acc : State × List (Nat × Nat)) c =>
    let (s, l) := acc.1.trainChannel v st t c
    (s, acc.2 ++ l)) (s, [])
  let s := causes.foldl (fun (s : State) (x : Nat × Nat) =>
    (s.event (srcDie st) 0x0602 (natLe 1 x.1 ++ natLe 1 x.2)).flog 4 (natLe 1 st ++ natLe 1 x.1)) s
  let k := causes.length
  let failed := t.failed || k == 64
  let s := s.setReg .stRetired ((causes.map fun x => 2 ^ x.1).sum) st
  let s := s.setReg .stStatus ((if failed then 2 else if k > 0 then 1 else 0) + 4 * k + 512 * (if failed then 0 else usableBands k)) st
  { s with hbm := s.hbm.filter (fun (x : Nat × Byte) => !(st * 2 ^ 37 ≤ x.1 && x.1 < (st + 1) * 2 ^ 37)),
           poison := s.poison.filter (fun g => !(st * 2 ^ 31 ≤ g && g < (st + 1) * 2 ^ 31)),
           upset := s.upset.filter fun x => !(st * 2 ^ 31 ≤ x.1 && x.1 < (st + 1) * 2 ^ 31) }
def State.stackFailed (s : State) (st : Nat) : Bool := s.fld .stStatus 0 2 st == 2

/-! ### Regions (R269, R270, R286) -/

/-- WHY of region r. -/
def State.regionWhy (s : State) (r : Nat) : Nat :=
  let m := s.fld .region 0 2 r
  let t := s.fld .region 2 4 r
  if (m == 0 && t != 0) || s.regionMode r != m then 1
  else if m == 0 then 0
  else
    let uses := (List.range 16).filter fun st => bandsIn m t st > 0
    let fin (st : Nat) : Nat := s.firstBand r st + bandsIn m t st
    if uses.any fun st => fin st > 24 then 1
    else if uses.any s.stackFailed then 3
    else if uses.any fun st => fin st > s.fld .stStatus 9 5 st then 2
    else 0
def State.mapRegions (s : State) : State :=
  (List.range 24).foldl (fun s r =>
    let w := s.regionWhy r
    s.setFld .region 6 3 (if w == 0 then 0 else 1 + 2 * w) r) s

/-! ### Ports (R288, R291-R293) -/

def State.portLicensed (s : State) (p : Nat) : Bool := 16 ≤ p || (p < 8 && s.tier ≥ 1) || s.tier ≥ 2
/-- An enabled port the licence does not close. -/
def State.portOpen (s : State) (p : Nat) : Bool := s.port .poMac 0 1 p == 1 && s.port .poMac 13 1 p == 0
/-- This end of the extended rate: MODE, XR_EN, the licence, and no fall back since the start (R291, R292). -/
def State.xrOwn (s : State) (p : Nat) : Bool :=
  p < 16 && s.port .poMac 1 2 p == 2 && s.port .poMac 3 1 p == 1 && s.tier ≥ 2 && !s.xrDown.contains p
/-- The partner's end: the base page, then the OUI-tagged message page and the unformatted page (R291). -/
def State.xrPeer (s : State) (p : Nat) (xr : XrAdvert) : Bool :=
  xr.base && xr.pages.take 2 == [.oui (BitVec.ofNat 24 (s.fld .faOui 0 24 (p % 2))), .unformatted 0x2C1]
/-- The next pages Ryrax sends in exchange for the partner's: its own two, and a null message page for any other. -/
def State.xrSent (s : State) (p : Nat) (peer : List AnPage) : List AnPage :=
  let own : List AnPage := if s.xrOwn p then [.oui (BitVec.ofNat 24 (s.fld .faOui 0 24 (p % 2))), .unformatted 0x2C1] else []
  own ++ List.replicate (peer.length - own.length) .null
/-- Codewords the FEC of a port has decoded (R322). -/
def State.fecCount (s : State) (p : Nat) (fec : Nat × Nat) : State :=
  (s.setPort .poFecC 0 64 p (s.port .poFecC 0 64 p + fec.1)).setPort .poFecU 0 64 p (s.port .poFecU 0 64 p + fec.2)
/-- LINK.RATE a port trains to: the extended rate only under R291. -/
def State.trainRate (s : State) (p rate : Nat) (xr : Bool) : Nat :=
  if rate == 0 then 0
  else if 16 ≤ p then 1
  else if rate == 3 && xr && s.xrOwn p then 3
  else 2
/-- A port's link comes up (R291, R293). `fec`: codewords corrected, and not correctable, since the port's link last changed. -/
def State.linkUp (s : State) (p rate : Nat) (xr : XrAdvert) (fec : Nat × Nat) : State :=
  if !s.portOpen p then s
  else
    let s := s.fecCount p fec
    let ok := s.xrPeer p xr
    let r := s.trainRate p rate ok
    let s := { s with anPages := kput s.anPages p (s.xrSent p xr.pages) }
    ((s.setPort .poLink 0 1 p (r != 0).toNat).setPort .poLink 1 2 p r).setPort .poLink 3 1 p ok.toNat
/-- LINK_DOWN (R293). -/
def State.linkDown (s : State) (p : Nat) (fec : Nat × Nat) : State :=
  if s.port .poLink 0 1 p == 0 then s
  else
    let s := s.fecCount p fec
    let drops := min 65535 (s.port .poLink 16 16 p + 1)
    ((s.setPort .poLink 0 3 p 0).setPort .poLink 16 16 p drops).event (srcPort (p % 2)) 0x0701 (natLe 1 p ++ [0] ++ natLe 2 drops)
/-- XR_FALLBACK: auto-negotiation restarts without the extended-rate pages (R292). -/
def State.xrFall (s : State) (p : Nat) : State :=
  if 16 ≤ p || !s.portOpen p then s
  else
    let s := if s.port .poLink 1 2 p == 3 then (s.setPort .poLink 0 3 p 0) else s
    let s := { s with xrDown := insertNat p s.xrDown, anPages := kput s.anPages p [] }
    (s.setPort .poLink 4 1 p 1).event (srcPort (p % 2)) 0x0702 (natLe 1 p)
/-- The image fields of a port (R433). -/
def State.portFields (s : State) (p : Nat) : List Nat :=
  [RegKind.poMac, .poVlan, .poAddr, .poIpHi, .poIpLo, .poPfc].map fun k => s.reg k (p % 2) p &&& k.mask fun f => f.img
/-- Every one of these ports that is enabled trains; one the licence closes says so. -/
def State.trainPorts (s : State) (env : StartEnv) (ports : List Nat) : State :=
  ports.foldl (fun (s : State) p =>
    let s := if s.port .poMac 0 1 p == 1 && !s.portLicensed p then s.setPort .poMac 13 1 p 1 else s
    let s := if (env.xrFell.contains p) then s.xrFall p else s
    match env.links.find? fun (x : Nat × (Nat × XrAdvert)) => x.1 == p with
    | some x => s.linkUp p x.2.1 x.2.2 (0, 0)
    | none => s) s

/-! ### The Cloche (R376, R382-R389) -/

/-- One half of the journal lies in one LOCAL region of its stack (R376). -/
def State.halfOk (s : State) (h : Nat) : Bool :=
  let b := if h == 0 then s.fld .clBase0 0 48 else s.fld .clBase1 0 48
  let n := s.jBytes / 2
  b % 4096 == 0 && s.mapped b n && b >>> 36 == (b + n - 1) >>> 36 && s.regionMode (b >>> 36) == 3 && s.regionTarget (b >>> 36) == h
def State.journalOk (s : State) : Bool :=
  let m := s.fld .clCfg 0 10
  2 ≤ m && m ≤ 512 && m % 2 == 0 && s.halfOk 0 && s.halfOk 1
/-- Energy required in 0.1 J with c channels, exactly (R383). -/
def State.energyNeed (s : State) (c : Nat) : Rat := (s.jBytes : Rat) * 3500 / (1600000000 * c) + 50
/-- A LINEAR11 word: an 11-bit mantissa times two to a 5-bit exponent, both signed (R382). -/
def linear11 (w : BitVec 16) : Rat :=
  let n := sext (w.toNat / 2048) 5
  let y : Rat := sext (w.toNat % 2048) 11
  if n < 0 then y / 2 ^ n.natAbs else y * 2 ^ n.natAbs
/-- Packet error code of SMBus over the bytes of a transaction: the CRC-8 of x^8 + x^2 + x + 1 (R486, log entry 119). -/
def pec8 (l : List Byte) : Byte :=
  l.foldl (fun c b => (List.range 8).foldl (fun (c : Byte) _ => if c.getLsbD 7 then (c <<< 1) ^^^ 0x07 else c <<< 1) (c ^^^ b)) 0
/-- A read word of PMBus command `cmd` of a target: what comes with a wrong PEC counts as not acknowledged (R486). -/
def pmbRead (target cmd : Nat) (w : Option PmbWord) : Option (BitVec 16) :=
  match w with
  | none => none
  | some w =>
    if w.pec == pec8 (natLe 1 (2 * target) ++ natLe 1 cmd ++ natLe 1 (2 * target + 1) ++ natLe 2 w.word.toNat) then some w.word else none
/-- The hold-up check: ENERGY and WHY. -/
def State.holdUp (s : State) (env : StartEnv) : State :=
  let c := env.channels.length
  let joules (cmd : Nat) (w : Option PmbWord) : Rat := ((pmbRead (s.fld .clCfg 11 7) cmd w).map linear11).getD 0
  let stored := joules 0xD0 env.holdup
  let e : Rat := 10 * (if s.fld .clCfg 10 1 == 1 then min stored (joules 0xD2 env.discharge) else stored)
  let got := min 65535 e.floor.toNat
  let (s, need) : State × Nat := if c == 0 then (let (s, x) := s.freeNext; (s, x.toNat % 65536)) else (s, min 65535 (Int.toNat (s.energyNeed c).ceil))
  let why := if !s.journalOk then 3 else if c == 0 then 2 else if e < s.energyNeed c then 1 else 0
  { ((s.setReg .clEnergy (got + need * 65536)).setFld .clStatus 0 3 why).setFld .clStatus 5 2 c with onfi := env.channels }
/-- A byte of a slot's anchor. -/
def NandSlot.anchorBytes (n : NandSlot) (o k : Nat) : List Byte := mgets n.anchor o k
/-- The slot restores: right MAGIC and SEAL on a channel that works (R387). -/
def slotOk (env : StartEnv) (n : NandSlot) : Bool :=
  (n.chans.any fun c => env.channels.contains c) && leNat (n.anchorBytes 0 4) == 0x434C4F43 &&
    n.anchorBytes 0xE0 32 == shake256 (n.anchorBytes 0 0xE0 ++ List.replicate 32 0 ++ n.anchorBytes 0x100 (jStart - 0x100)) 32
/-- The slot with the highest FLUSH_COUNT among those that restore. -/
def State.bestSlot (s : State) (env : StartEnv) : Option (Nat × NandSlot) :=
  let n (x : Nat × NandSlot) : Nat := leNat (x.2.anchorBytes 8 8)
  (s.nand.filter fun (x : Nat × NandSlot) => slotOk env x.2).foldl (fun (o : Option (Nat × NandSlot)) x =>
    match o with
    | none => some x
    | some y => if n x > n y then some x else some y) none
/-- The entry that stands at ring offset o, before WRITE, `left` bytes on: its CHECK holds, and its JSN is at least `lo` (R378, R387). -/
def State.jEntry (s : State) (o left lo : Nat) : Option JEnt :=
  let h := s.jGet o 32
  let typ := fldLe h 0 1
  let len := fldLe h 4 4
  let jsn := fldLe h 8 8
  let size := if typ == 0 then s.jBytes - o else entSize len
  if typ > 1 || size > left || o + size > s.jBytes || jsn < lo || jsn ≥ s.nextJsn || (typ == 0 && len + 32 != size) then none
  else if fldLe h 0x1C 4 != (crc32c (h.take 0x18 ++ (if typ == 0 then [] else s.jGet (o + 32) len))).toNat then none
  else some { off := o, size := size, queue := fldLe h 2 2 % 16384, ctx := fldLe h 0x10 4 % 2 ^ 20, msn := fldLe h 0x14 4, jsn := jsn, len := len,
              ord := fldLe h 0x18 4, pad := typ == 0, complete := true, released := typ == 0, restored := true,
              partner := (fldLe h 1 1).testBit 0 }
/-- The entries from offset o to WRITE as they stand in HBM (R378, R387): where none stands, the next 64 bytes are looked at. -/
def State.jParse (s : State) : Nat → Nat → Nat → Nat → List JEnt
  | 0, _, _, _ => []
  | f + 1, o, left, lo =>
    if left == 0 then []
    else
      let next (n : Nat) : Nat := if o + n == s.jBytes then jStart else o + n
      match s.jEntry o left lo with
      | some e => e :: s.jParse f (next e.size) (left - e.size) (e.jsn + 1)
      | none => s.jParse f (next 64) (left - 64) lo
/-- MSN entries restored: (CTX, NEXT_MSN, OUTCOME) (R381). -/
def State.jMsns (s : State) : List (Nat × Nat × BitVec 256) :=
  (List.range 4096).filterMap fun e =>
    let b := s.jGet (0x1000 + 64 * e) 64
    let c := fldLe b 0 4
    if c ≥ 2 ^ 31 then some (c % 2 ^ 20, fldLe b 4 4, BitVec.ofNat 256 (fldLe b 8 32)) else none
/-- The journal in HBM as its anchor describes it becomes the journal in use. -/
def State.jAdopt (s : State) : State :=
  let a := s.jGet 0 0x40
  let s := ((s.setReg .clOldest (fldLe a 0x10 8)).setReg .clWrite (fldLe a 0x18 8)).setReg .clFlushCount (fldLe a 8 8)
  let s := { s.setFld .clStatus 3 1 1 with nextJsn := fldLe a 0x20 8 }
  let left := if s.jRing == 0 then 0 else (fldLe a 0x18 8 + s.jRing - fldLe a 0x10 8) % s.jRing / 64 * 64
  { s with journal := s.jParse (left / 64) (fldLe a 0x10 8) left (s.nextJsn - left / 64) }.jAdvance
/-- The journal starts empty: what the anchor does not list is zero (R377). -/
def State.jFormat (s : State) : State :=
  ({ ((s.setReg .clOldest jStart).setReg .clWrite jStart).jPut 0 (List.replicate jStart 0) with journal := [], nextJsn := 0 }).jAnchor
/-- Cold restore: the slot's pages on channels that work go back to HBM; then the slot the next flush writes is erased. -/
def State.jRestore (s : State) (env : StartEnv) : State :=
  if s.fld .clStatus 0 3 == 3 then s
  else
    let best := s.bestSlot env
    let s := match best with
      | none => (s.jFormat).event srcMgmt 0x0A01 []
      | some (_, n) =>
        let s := s.jPut 0 (n.anchorBytes 0 jStart)
        let s := (n.pages.filter fun (p : NandPage) => env.channels.contains p.chan && 4096 * (p.page + 1) ≤ s.jBytes).foldl (fun (s : State) (p : NandPage) =>
          s.jPut (4096 * p.page) (mgets n.ring (4096 * p.page) 4096)) s
        (s.setReg .clFlushTime (leNat (n.anchorBytes 0x28 4))).jAdopt
    let next := match best with
      | some (k, _) => 1 - k
      | none => 0
    let s := s.nandFound env.badBlocks
    { s.setFld .clStatus 7 1 next with nand := if env.channels.isEmpty then s.nand else kdel s.nand next }

end Sys2Proof.Machine
end

