-- ==== Sys2Proof/Machine/Start.lean ====
section
/-! DEFINITION. The start sequences: identity, licences, AVS, the image, training, contexts, pairing, admission, jobs and READY, and
diagnostic mode (R9, R77, R231, R302, R337, R350, R390, R413-R433, R443, R449). A start is one command: what the outside answers meanwhile
is its operand. -/

namespace Sys2Proof.Machine

/-- Set registers of a kind from bytes, eight each. -/
def State.setRegBytes (s : State) (k : RegKind) (n : Nat) (l : List Byte) : State :=
  (List.range n).foldl (fun s i => s.setReg k (fldLe l (8 * i) 8) i) s

/-! ### Diagnostic mode (R429) -/

/-- Peer of a host port's context 0: node id, MAC and IPv4 address, none known yet. -/
def diagCtx (h : Nat) : Nat := 2 ^ 20 + h
def State.enterDiag (s : State) (env : StartEnv) (why : Nat) (v : Option Nat) : State :=
  let rec' := match v with
    | some v => s.ven v 0x1C000 32
    | none => []
  let mac (h : Nat) : Nat := if v.isSome then fldLe rec' (8 * h) 6 else 0x0200000000D0 + h
  let ip (h : Nat) : Nat := if v.isSome then fldLe rec' (16 + 4 * h) 4 else 169 * 2 ^ 24 + 254 * 2 ^ 16 + 10 + h
  let s := ((s.setFld .boot 5 1 1).setFld .boot 14 4 why).setFld .start 0 4 11
  let s := (List.range 2).foldl (fun (s : State) h =>
    let p := 16 + h
    let s := (s.setReg .faNode 0xFFFE h).setReg .faUdp 48812 h
    let s := (((s.setPort .poMac 0 14 p 3).setPort .poVlan 0 13 p 4096).setPort .poAddr 0 48 p (mac h)).setPort .poIpLo 0 64 p (ip h)
    let s := match env.links.find? fun (x : Nat × (Nat × XrAdvert)) => x.1 == p with
      | some x => s.linkUp p x.2.1 {} (0, 0)
      | none => s
    let C : Ctx := { grant := (Config.diagCredit h).toNat + 1, grantSent := (Config.diagCredit h).toNat + 1, rate := f32Nat (s.lineRate p), srtt := f32Nat s.ccTarget }
    { s with ctxs := kput s.ctxs (diagCtx h) { C with rto := s.rtoOf C } }) s
  { s with faultN := false }

/-! ### Identity, licences, the field log and AVS (R441-R452, R394) -/

/-- Orders 1 to 4 of R443: the vendor copy, and DIAG_WHY or 0. -/
def State.identity (s : State) (env : StartEnv) : State × Option Nat × Nat :=
  match s.venPick env with
  | none => (s.setFld .attStatus 5 1 1, none, 1)
  | some v =>
    let fail := s.pufFail env v
    let s := (s.setFld .boot 4 1 v).setReg .idStatus (1 + 2 * (fail == 0).toNat + 8 * fail)
    let s := (s.setRegBytes .idDigest 4 (s.idDigest v)).setRegBytes .idRepair 4 (shake256 (s.repairBytes v) 32)
    match if fail == 0 then s.unwrap env v else none with
    | none => (s.setFld .attStatus 5 1 1, some v, 2)
    | some key =>
      let s := { s.setFld .idStatus 2 1 1 with devKey := some key }
      let verdicts := (List.range 16).map fun n => s.licVerdict env v n
      let good := (List.range 16).filter fun n => verdicts.getD n 0 == 1
      let s := s.setReg .licSlots (verdicts.zipIdx.map fun (x : Nat × Nat) => x.1 * 4 ^ x.2).sum
      let s := s.setReg .licStatus (((good.map fun n => s.licTier v n).foldl max 0) + 4 * good.length)
      ({ s with licDigests := good.map fun n => s.licDigest v n }, some v, if good.isEmpty then 3 else 0)
/-- The field log is read; a break moves the write point to the next sector (R449). Answers the laggard rows. -/
def State.flogOpen (s : State) (env : StartEnv) : State × List (Nat × Nat) :=
  let r := s.flogRead env
  let keyed := s.devKey.isSome
  let s := s.setReg .flogStatus (keyed.toNat + 2 * r.broken.toNat + 4 * min r.recs.length (2 ^ 30 - 1))
  let s := { s.setReg .flogInc (flogInc r) with flogChain := r.chain, flogSince := r.since, flogAt := r.next % 2 ^ 20 }
  let s := if r.broken && keyed then
      let u := cdiv (r.next + 1) 1024 * 1024 % 2 ^ 20
      { s.flErase 1 (flogBase + 64 * u) 65536 with flogAt := u }
    else s
  (s, flogLag r)
/-- AVS: every rail is set (R394, R395, R445). -/
def State.avsStart (s : State) (env : StartEnv) (v : Nat) : State :=
  let s := { s with avsTab := s.ven v 0x1B000 704 }
  (List.range 25).foldl (fun (s : State) r =>
    if env.avsBad.contains r then { s.avsErr r with avsBad := insertNat r s.avsBad }
    else
      let bad := (s.railTabs r).any fun v => !mvOk r v
      (if bad then s.avsErr r else s).avsSet r (s.railMv r 0)) s
/-- Where the AVS step could not set a VCORE, its tiles start at the fastest level that the voltage allows (R395). -/
def State.startLevels (s : State) : State :=
  let allowed (n : Nat) : Nat := ((List.range 14).filter fun l => s.railMv n l ≤ s.mv n).headD 13
  ((List.range 64).foldl (fun (s : State) g =>
    let l := (((s.groupDies g).filter fun n => s.avsBad.contains n).map allowed).foldl max 0
    if l == 0 then s else s.setLevel g l) s).throttleStatus
/-- DRAM and base die logic temperatures (R281, R494). -/
def State.sampleDram (s : State) (r : Readings) : State :=
  r.dram.foldl (fun (s : State) (x : Nat × (Nat × Nat)) =>
    if x.1 < 16 then ((s.setFld .stTemp 0 8 (min x.2.1 255) x.1).setFld .stTemp 8 8 (min x.2.2 255) x.1).maxFld .stTemp 16 8 (min x.2.1 255) x.1
    else s) s

/-! ### The image (R424-R428) -/

/-- What is known of the image in use, from its header. -/
def State.imageUse (s : State) (env : StartEnv) (v d : Nat) : State :=
  let signer := s.imgFld d 0x1B 1
  let root := if signer / 128 == 1 then (s.certRoot env v (s.flGet d 0x20 32)).getD 0 else signer % 4
  let s := ((s.setFld .boot 0 1 d).setReg .image (s.imgFld d 0x10 8)).setReg .imageInfo (signer / 128 + 2 * root)
  let s := (s.setRegBytes .imageDigest 8 (s.imgDigest d)).setRegBytes .pairDigest 4 (s.imgPair d)
  { s with imgHeader := s.flGet d 0 256 }
/-- Choose from flash: BOOT.WHY and FALLBACK (R424). -/
def State.imagePick (s : State) (env : StartEnv) (v : Nat) : State × Option Nat :=
  let (a, b, d) := s.imgChoose env v
  let rejected (w : Nat) : Bool := 2 ≤ w && w ≤ 7
  let s := (s.setFld .boot 6 4 a).setFld .boot 10 4 b
  match d with
  | none => (s, none)
  | some d =>
    -- the body has been read into the ingress SRAM of port die 0 (R425, log entry 131)
    let s := { s with ingress := mputs s.ingress 0 (s.flGet d 0 (s.imgFld d 8 4)) }
    ((s.setFld .boot 1 1 (rejected a || rejected b).toNat).imageUse env v d, some d)
/-- The hold area takes the image (R425). -/
def State.holdOk (s : State) (n : Nat) : Bool :=
  let b := s.fld .hold 0 48
  b != 0 && s.mapped b n && b >>> 36 == (b + n - 1) >>> 36 && s.regionMode (b >>> 36) == 3 && s.regionTarget (b >>> 36) < 2
def State.holdImage (s : State) (d : Nat) : State :=
  let n := s.imgFld d 8 4
  if s.holdOk n then s.startPut (s.flGet d 0 n) (s.fld .hold 0 48) else s

/-- Loss scales: the ranges of R77, N, and EXP at INIT. -/
def State.lossInit (s : State) (j : Nat) : State :=
  let lo := sext (s.fld .jLossLimits 0 8 j) 8
  let hi := sext (s.fld .jLossLimits 8 8 j) 8
  let e := sext (s.fld .jLossLimits 16 8 j) 8
  let ok := -32 ≤ lo && lo ≤ e && e ≤ hi && hi ≤ 64
  let s := if s.fld .jLossClean 16 16 j == 0 then s.setFld .jLossClean 16 16 2000 j else s
  if ok then s.setFld .jLossScale 0 8 (s.fld .jLossLimits 16 8 j) j
  else (s.setFld .jStatus 5 1 1 j).setFld .jLossScale 0 8 16 j

/-! ### Contexts (R301, R302, R381) -/

/-- Contexts that get an MSN entry: bound to a protected queue, or takeover contexts on a twin device, in increasing id. -/
def State.msnCtxs (s : State) : List Nat :=
  let take (c : Nat) : Bool := s.twinOn && s.fld .twTake 0 20 ≤ c && c < s.fld .twTake 0 20 + s.fld .twTake 20 21
  let prot (c : Nat) : Bool := (List.range 16384).any fun q =>
    s.qKind q != 0 && s.qClass q == s.ctxClass c && s.ctxPort c % 2 == q / 8192 && s.qProtect q
  let takes := if s.twinOn then (List.range (s.fld .twTake 20 21)).map fun k => s.fld .twTake 0 20 + k else []
  ((sortNat (s.ctxs.map (fun (x : Nat × Ctx) => x.1) ++ takes.filter (· < s.ctxRoom))).filter fun c => take c || prot c).take 4096
/-- The context store: records from the image, state bytes zero, and the contexts that open. DESIGN CHOICE: the STATE byte that HBM holds
for a context at or above the licence's count, which is CLOSED, is that of a context that opens, 1 (R4, log entry 115). -/
def State.ctxStart (s : State) (recs : KMap (List Byte)) (msns : List (Nat × Nat × BitVec 256)) (pinned : KMap (List Byte)) : State :=
  let base := s.fld .faCtxBase 0 48
  let s := (List.range (min (s.reg .faCtxCount) (2 ^ 20))).foldl (fun (s : State) c =>
    let a := base + 256 * c
    if !s.mapped a 256 then s
    else
      let r := slice (kget recs c []) 0 64
      -- one that serves since step 4 of the fast path goes on (R431)
      let own := (pinned.find? fun (x : Nat × List Byte) => x.1 == c).map fun x => x.2
      let r := if r.getD 0 0 == 0 then r else (own.getD [1]).take 1 ++ r.drop 1
      let s := s.startPut (r ++ List.replicate 192 0) a
      if r.getD 0 0 == 0 || c ≥ s.ctxRoom || own.isSome then s else s.ctxInit c 0 0) s
  let s := { s with msnTab := (s.msnCtxs.zipIdx.map fun (x : Nat × Nat) => (x.2, x.1)) }
  s.msnTab.foldl (fun (s : State) (x : Nat × Nat) =>
    match msns.find? fun (m : Nat × Nat × BitVec 256) => m.1 == x.2 with
    | some m =>
      let s := if s.twinOn && s.isTake x.2 then { s with takeMsn := kput s.takeMsn x.2 (m.2.1, m.2.2) } else s
      if s.ctxSt x.2 == 0 then s else s.modCtx x.2 fun C => { C with nextMsn := m.2.1, window := m.2.2 }
    | none => s) s
/-- Restored items count as accepted, whether or not their ACCEPT left (R385). -/
def State.jOutcomes (s : State) : State :=
  (s.journal.filter fun (e : JEnt) => !e.pad).foldl (fun (s : State) (e : JEnt) =>
    if s.twinOn && s.isTake e.ctx then
      let (n, w) := (s.takeMsn.find? fun (x : Nat × Nat × BitVec 256) => x.1 == e.ctx).elim (e.msn, 0) (·.2)
      { s with takeMsn := kput s.takeMsn e.ctx (msnReach n w e.msn) }
    else if e.partner || s.ctxSt e.ctx == 0 || !s.msnTab.any fun (x : Nat × Nat) => x.2 == e.ctx then s
    else s.modCtx e.ctx fun C => let (n, w) := msnReach C.nextMsn C.window e.msn; { C with nextMsn := n, window := w }) s
/-- The MSN table of a journal in HBM is written afresh. -/
def State.msnWrite (s : State) : State :=
  if s.jHere then s.msnTab.foldl (fun (s : State) (x : Nat × Nat) => s.jMsn x.2) (s.jPut 0x1000 (List.replicate (4096 * 64) 0)) else s
/-- Contexts of promised queues stay in the caches from the start (R302); those pinned since step 4 of the fast path are in them (R431). -/
def State.pinCtxs (s : State) (early : KMap (List Byte)) : State :=
  let bound (p : Nat) : List (Nat × Bool) := (s.ctxs.filter fun (x : Nat × Ctx) => s.ctxPort x.1 % 2 == p && (List.range 8192).any fun i =>
    s.qOpen (p * 8192 + i) && s.qPromised (p * 8192 + i) && s.qClass (p * 8192 + i) == s.ctxClass x.1).map fun x => (x.1, true)
  let held (p : Nat) : List (Nat × Bool) :=
    (early.filter fun (x : Nat × List Byte) => s.ctxPort x.1 % 2 == p && !(bound p).any fun b => b.1 == x.1).map fun x => (x.1, false)
  { s with ctxCache := [(0, bound 0 ++ held 0), (1, bound 1 ++ held 1)] }

/-! ### Pairing and the restored journal (R350, R390) -/

/-- Entries of paired queues the partner does not hold were never accepted; the rest take role A's ORD. -/
def State.pairJournal (s : State) (env : StartEnv) : State :=
  let paired (e : JEnt) : Bool := !e.released && s.qProtect e.queue
  let theirs (e : JEnt) : Option Nat := (env.peerJournal.find? fun (x : Nat × Nat × Nat) => x.1 == e.ctx && x.2.1 == e.msn).map fun x => x.2.2
  let s := (s.journal.filter fun (e : JEnt) => paired e && (theirs e).isNone).foldl (fun (s : State) (e : JEnt) =>
    let s := s.takeBit e.ctx e.msn false
    let s := if e.partner then s else s.modCtx e.ctx fun C =>
      let k := (e.msn + 2 ^ 32 + 256 - C.nextMsn) % 2 ^ 32
      if k < 256 then { C with window := C.window &&& ~~~ (1#256 <<< k) } else C
    { s with journal := s.journal.map fun (x : JEnt) => if x.jsn == e.jsn then { x with released := true } else x }) s
  let s := if s.roleB then
      (s.journal.filter fun (e : JEnt) => paired e).foldl (fun (s : State) (e : JEnt) =>
        match theirs e with
        | some o => s.jOrd e.jsn o
        | none => s) s
    else s
  s.jAdvance
/-- Pairing before admission: LIC_CLOSED, or the halves and the partner's message decide. -/
def State.pairStart (s : State) (env : StartEnv) : State :=
  let s := if (s.twinMode == 1 || s.twinMode == 2) && s.pairNode != 0 && s.tier != 3 then s.setFld .twCfg 3 1 1 else s
  if !s.twinOn then s
  else
    let s := env.halves.foldl (fun (s : State) h => s.halfUp h.val) s
    let s := if s.halvesUp == 0 then s else s.tell [TwMsg.pairing s.pairMsg]
    let s := match env.pair with
      | some m => if s.halvesUp == 0 then s.pairFail 1 else s.pairIn m
      | none => s.pairFail 1
    if s.twin == 2 then s.pairJournal env
    else if s.twin == 1 then ({ s with journal := s.journal.map fun (e : JEnt) => { e with released := true } }).jAdvance
    else s

/-! ### Jobs (R231, R236) -/

/-- REASON of job j beside the jobs opened so far; 0: it opens. -/
def State.jobWhy (s : State) (opened : List Nat) (j : Nat) : Nat :=
  let r := s.reg .jRect j
  let bases := [(s.reg .jBucketBase j, 16384), (s.reg .jBstageBase j, 4096), (s.reg .jCommitBase j, 16384)]
  let image := [s.reg .jStep j, s.reg .jKey j, r, s.reg .jCfg j, s.reg .jSizes j] ++ bases.map fun (x : Nat × Nat) => x.1
  let q := s.fld .jCfg 0 14 j
  let rect' (v : Nat) : Bool := bits v 0 6 ≤ bits v 12 6 && bits v 6 6 ≤ bits v 18 6 && bits v 18 6 ≤ 35
  let hits (k : Nat) : Bool :=
    let o := s.reg .jRect k
    bits r 0 6 ≤ bits o 12 6 && bits o 0 6 ≤ bits r 12 6 && bits r 6 6 ≤ bits o 18 6 && bits o 6 6 ≤ bits r 18 6
  if image.all (· == 0) || bases.any (fun (x : Nat × Nat) => x.1 % x.2 != 0) then 1
  else if !rect' r || opened.any hits then 2
  else if !s.groupOk (s.jobGroup j) then 3
  else if !(s.qOpen q && s.qKind q == 2 && s.q .quCfg 8 4 q == j) then 4
  else if s.tier == 0 then 5
  else 0
def State.openJobs (s : State) : State :=
  ((List.range 16).foldl (fun (acc : State × List Nat) j =>
    let (s, l) := acc
    let s := s.lossInit j
    let w := s.jobWhy l j
    let s := (s.setFld .jStatus 8 8 w j).setPhase j (w == 0).toNat
    (s, if w == 0 then l ++ [j] else l)) (s, [])).1

/-! ### READY -/

/-- The record of the always-on domain becomes valid (R425, R430). -/
def State.aonSet (s : State) (d v : Nat) : State :=
  { s with aon := some { digest := (List.range 8).flatMap fun k => natLe 8 (s.reg .imageDigest k), slot := d, size := fldLe s.imgHeader 8 4,
                         vendorDigest := s.venDigest v, vendorCopy := v, devKey := s.devKey,
                         idRegs := [s.reg .idStatus, s.reg .licStatus, s.reg .licSlots], licDigests := s.licDigests,
                         hold := if s.holdOk (fldLe s.imgHeader 8 4) then s.fld .hold 0 48 else 0,
                         cloche := [s.reg .clCfg, s.reg .clBase0, s.reg .clBase1],
                         regions := (List.range 24).map fun r => s.fld .region 0 6 r,
                         ports := [16, 17].map s.portFields } }
/-- What the memory controllers have counted by READY goes (R5, R287). -/
def State.clearStacks (s : State) : State :=
  (List.range 16).foldl (fun (s : State) st =>
    [RegKind.stEcc, .stUeAddr, .stUeKind, .stScrubDone, .stRd, .stWr].foldl (fun (s : State) k => s.setReg k 0 st) s) s
/-- READY_MS, READY, and SYNC on every context (R302, R428). -/
def State.goReady (s : State) (env : StartEnv) (d v : Nat) : State :=
  let s := s.clearStacks.setReg .start (10 + 16 * (env.readyMs % 65536))
  let s := (s.ctxs.map fun (x : Nat × Ctx) => x.1).foldl (fun (s : State) c =>
    if s.ctxSt c == 1 then s.postCtl c 0x0A (s.syncPay c) else s) s
  { s.aonSet d v with ready := true }
/-- The START record (R448). -/
def State.startRec (s : State) (warm : Nat) : State :=
  s.flog 1 (natLe 1 (s.reg .cause) ++ natLe 1 (s.fld .boot 0 1) ++ natLe 1 warm ++ [0] ++ natLe 8 (s.reg .imageDigest 0))

/-- Where the image moves the journal, as against the record: its settings, or the regions of stacks 0 and 1 (R433). -/
def State.journalMoved (s : State) (o : AonRec) : Bool :=
  o.cloche != [s.reg .clCfg, s.reg .clBase0, s.reg .clBase1] ||
    (List.range 24).any fun r => o.regions.getD r 0 != s.fld .region 0 6 r &&
      (List.range 2).any fun st => bandsIn (s.regionMode r) (s.regionTarget r) st > 0 ||
        bandsIn (o.regions.getD r 0 % 4) (o.regions.getD r 0 / 4) st > 0
/-- The slot the next flush writes. -/
def State.nextSlot (s : State) (env : StartEnv) : Nat := match s.bestSlot env with
  | some (k, _) => 1 - k
  | none => 0
/-- The host ports on the fast path: one whose PORT(i) fields differ from the record's retrains (R430, R433). -/
def State.hostPorts (s : State) (env : StartEnv) (o : AonRec) : State :=
  let changed := [16, 17].filter fun p => o.ports.getD (p - 16) [] != s.portFields p
  (changed.foldl (fun (s : State) p => s.setPort .poLink 0 5 p 0) s).trainPorts env changed

/-- From row repair to READY, with image slot d. `warm`: stacks 0 and 1, and the journal in them, are kept, and the host ports and their
contexts `early` serve already. -/
def State.startTail (s : State) (env : StartEnv) (v d : Nat) (lag : List (Nat × Nat)) (warm : Bool) (early : KMap (List Byte)) : State :=
  let s := (List.range 4).foldl (fun s n => s.rowRepair env v lag n) s
  if (List.range 4).any fun n => s.fld .rowMap 26 1 n == 1 then s.enterDiag env 5 (some v)
  else
    let s := ((List.range 16).filter fun st => !warm || st ≥ 2).foldl (fun s st => s.trainStack env v st) s
    if s.stackFailed 0 || s.stackFailed 1 then s.enterDiag env 6 (some v)
    else
      let secs := (s.secs d).getD []
      let old := s.aon
      let s := { s with aon := none }
      -- a kept journal whose place changes is flushed as it lay, and restored as at a cold start (R433)
      let next := s.nextSlot env
      let s := s.imgRegs d secs
      let moved := old.elim true s.journalMoved
      let s := match old with
        | some o =>
          if warm && moved && o.cloche.getD 0 0 != 0 then
            let u := (List.range 24).foldl (fun (s : State) r => s.setFld .region 0 7 (o.regions.getD r 0) r) s
            let u := ((u.setReg .clCfg (o.cloche.getD 0 0)).setReg .clBase0 (o.cloche.getD 1 0)).setReg .clBase1 (o.cloche.getD 2 0)
            let (u, us) := (u.setFld .clStatus 7 1 next).jAdopt.freeNext
            let u := { u with nandBad := u.nandBad ++ env.badBlocks }.sealSlot env.channels (us.toNat % 2 ^ 32)
            { s with nand := u.nand, freeCount := u.freeCount }
          else s
        | none => s
      let s := s.startLevels.trainPorts env (List.range (if warm then 16 else 18))
      let s := s.mapRegions.holdUp env
      let s := if warm && !moved then
          (if s.fld .clStatus 0 3 == 3 then s else s.jAdopt.setFld .clStatus 7 1 next)
        else s.jRestore env
      let msns := if s.fld .clStatus 3 1 == 1 then s.jMsns else []
      let s := (s.holdImage d).imgMems d secs
      let (s, lost) := s.mapRing
      let s := s.forwards lost
      let (s, recs) := s.imgCtxs d secs
      let s := (s.ctxStart recs msns early).jOutcomes
      let s := { s with journalValid := s.fld .clStatus 0 3 == 0 }
      let s := (s.pairStart env).msnWrite.admission
      let s := (s.pinCtxs early).redeliver
      let s := s.setReg .clHeld (s.journal.filter fun (e : JEnt) => !e.released && !e.pad && !s.items.any fun (i : Item) => i.journal == some e.jsn).length
      let s := s.openJobs
      let s := if s.fld .flogStatus 0 1 == 1 then s.flog 0xFF [] else s
      s.goReady env d v
/-- A start in diagnostic mode still records itself when the device key is there (R448). -/
def State.diagStart (s : State) (env : StartEnv) (why : Nat) (v : Option Nat) (warm : Bool) : State :=
  let s := s.enterDiag env why v
  if s.fld .flogStatus 0 1 == 1 then s.startRec warm.toNat else s
/-- The start records itself once D is known (R448), and goes on. -/
def State.startRest (s : State) (env : StartEnv) (v d : Nat) (lag : List (Nat × Nat)) (warm : Bool) (early : KMap (List Byte) := []) : State :=
  (if s.fld .flogStatus 0 1 == 1 then s.startRec warm.toNat else s).startTail env v d lag warm early

/-- Everything a cold start does (R426). -/
def State.coldRun (s : State) (env : StartEnv) : State :=
  let s := { s with aon := none, pfailN := !env.pfail, xspiUp := true, xspiOctal := env.octal.contains 0 && env.octal.contains 1 }
  let s := (s.sampleDies env.readings).bootRails
  let (s, v, why) := s.identity env
  let (s, lag) := s.flogOpen env
  match v with
  | none => s.diagStart env 1 none false
  | some v =>
    if why != 0 then s.diagStart env why (some v) false
    else
      let s := ((s.avsStart env v).sampleRails env.readings).sampleDram env.readings
      let (s, d) := s.imagePick env v
      match d with
      | none => s.diagStart env 4 (some v) false
      | some d => s.startRest env v d lag false
/-- An instruction that controls pins is current, whether or not a fall of PFAIL_N has taken the pins back (R489). -/
def State.jtagHolds (s : State) : Bool := 3 ≤ s.jtagIr.toNat && s.jtagIr.toNat ≤ 7
/-- COLD_START: RESET_N rises. A flush under way makes Ryrax ignore it, and WARM_N low holds it in reset (R409, R426). -/
def State.coldStart (s : State) (env : StartEnv) : State :=
  if !s.pwrgood || !s.pllLocked || s.resetN then s
  else if s.flush.isSome then { s with resetN := true, startWait := some env }
  else if !s.warmN then { s with resetN := true }
  else if s.jtagHolds then { s with resetN := true, startWait := some env }
  else { s with resetN := true }.coldRun env

/-- The held image, when its slot's header is unchanged and it still hashes to D (R432). -/
def State.heldImage (s : State) (o : AonRec) : Option (List Byte) :=
  if o.hold == 0 then none
  else
    let s := (List.range 24).foldl (fun (s : State) r => s.setFld .region 0 7 (o.regions.getD r 0) r) s
    let img := s.hbmNow o.hold o.size
    if img.take 256 == s.flGet o.slot 0 256 && shake256 (img.take (o.size - 1536)) 64 == o.digest then some img else none
/-- Identity on the fast path: the record's results when the vendor digest is unchanged (R431, R443). -/
def State.warmIdentity (s : State) (env : StartEnv) (o : AonRec) : State × Option Nat × Nat :=
  if s.venDigest o.vendorCopy == o.vendorDigest then
    let v := o.vendorCopy
    let s := (s.setFld .boot 4 1 v).setFld .boot 18 1 1
    let s := (s.setRegBytes .idDigest 4 (s.idDigest v)).setRegBytes .idRepair 4 (shake256 (s.repairBytes v) 32)
    let s := ((s.setReg .idStatus (o.idRegs.getD 0 0)).setReg .licStatus (o.idRegs.getD 1 0)).setReg .licSlots (o.idRegs.getD 2 0)
    ({ s with devKey := o.devKey, licDigests := o.licDigests }, some v, 0)
  else s.identity env
/-- A sample of the stacks that are kept on the fast path (R494). -/
def keptStacks (r : Readings) : Readings := { r with dram := r.dram.filter fun (x : Nat × (Nat × Nat)) => x.1 < 2 }
/-- The rest of the fast path, to READY (R431-R433). `img`: the held image, where it is reused; `early`: the contexts that serve since
step 4. -/
def State.warmRun (s : State) (env : StartEnv) (o : AonRec) (img : Option (List Byte)) (early : KMap (List Byte)) : State :=
  let (s, v, why) := s.warmIdentity env o
  let (s, lag) := s.flogOpen env
  match v with
  | none => s.diagStart env 1 none true
  | some v =>
    if why != 0 then s.diagStart env why (some v) true
    else
      let s := (s.avsStart env v).sampleDram env.readings
      match img with
      | some img =>
        let flash := s.flash
        let s := (s.flWrite o.slot 0 img).setFld .boot 3 1 1
        let s := (s.setFld .boot 6 4 (if o.slot == 0 then 0 else 8)).setFld .boot 10 4 (if o.slot == 1 then 0 else 8)
        { (s.imageUse env v o.slot).startRest env v o.slot lag true early with flash := flash }
      | none =>
        let (s, d) := s.imagePick env v
        match d with
        | none => s.diagStart env 4 (some v) true
        | some d => s.startRest env v d lag true early
/-- Contexts of the image that steps 1 to 4 pin: those of host ports 0 and 1, at most 256, SYNCING (R431). -/
def State.earlyCtxs (s : State) (recs : KMap (List Byte)) : KMap (List Byte) :=
  ((recs.filter fun (x : Nat × List Byte) => x.1 < s.ctxRoom && x.2.getD 0 0 != 0 && 16 ≤ fldLe x.2 1 1 % 32).take 256).map fun x =>
    (x.1, 1 :: (slice x.2 0 64).drop 1)
/-- Steps 1 to 4 of the fast path (R431): the host ports and the twin link resume, their contexts are pinned and exchange SYNC, and the
journal is there again (R388). What else the image sets takes effect at the end of the start. -/
def State.warmEarly (s : State) (env : StartEnv) (o : AonRec) : State :=
  let s := { s.setFld .boot 2 1 1 with pfailN := !env.pfail }
  let s := ((s.sampleDies env.readings).sampleRails env.readings).sampleDram (keptStacks env.readings)
  let img := s.heldImage o
  let u := match img with
    | some l => s.flWrite o.slot 0 l
    | none => s
  match if img.isSome then some o.slot else (u.imgChoose env o.vendorCopy).2.2 with
  | none => s.warmRun env o img []
  | some d =>
    let secs := (u.secs d).getD []
    let u := ((({ u with devKey := o.devKey }.flogOpen env).1.setReg .licStatus (o.idRegs.getD 1 0)).imgRegs d secs).hostPorts env o
    let u := u.mapRegions.holdUp env
    let u := if u.journalMoved o || !u.jHere then u
      else { u.jAdopt.setFld .clStatus 7 1 (u.nextSlot env) with journalValid := u.fld .clStatus 0 3 == 0 }
    let ctxs := u.earlyCtxs (u.imgCtxs d secs).2
    let s := { s with regs := u.regs, hbm := u.hbm, journal := u.journal, nextJsn := u.nextJsn, journalValid := u.journalValid, onfi := u.onfi,
                      anPages := u.anPages, xrDown := u.xrDown,
                      early := some { env := env, img := img, due := s.uptime + 1000000 * env.readyMs, ctxs := ctxs },
                      ctxCache := (List.range 2).map fun p => (p, (ctxs.filter fun (x : Nat × List Byte) => fldLe x.2 1 1 % 2 == p).map fun x => (x.1, true)) }
    ctxs.foldl (fun (s : State) (x : Nat × List Byte) => let s := s.ctxInit x.1 0 0; s.postCtl x.1 0x0A (s.syncPay x.1)) s
/-- The rise of WARM_N starts the device. -/
def State.warmRise (s : State) (env : StartEnv) : State :=
  let s := { s with warmN := true, warmUntil := s.uptime + 50000000 }
  match s.aon with
  | some o => s.warmEarly env o
  | none => s.coldRun env
/-- A warm start under way ends when it is due (R428, R431). -/
def State.startDue (s : State) : State :=
  match s.early, s.aon with
  | some e, some o => if s.on && !s.fatal && e.due ≤ s.uptime then { s with early := none }.warmRun e.env o e.img e.ctxs else s
  | _, _ => s
/-- WARM_START: WARM_N rises. Without a valid record it is a cold start (R430). -/
def State.warmStart (s : State) (env : StartEnv) : State :=
  if !s.pwrgood || !s.pllLocked || s.warmN then s
  else if s.flush.isSome then { s with warmN := true, startWait := some env }
  else if !s.resetN || s.startWait.isSome then { s with warmN := true }
  else if s.jtagHolds then { s with warmN := true, startWait := some env }
  else s.warmRise env
/-- The pins are back: a start that waited runs, unless WARM_N has fallen meanwhile (R489). -/
def State.startGo (s : State) : State :=
  match s.startWait with
  | some env => if s.resetN && s.warmN && s.flush.isNone then { s with startWait := none }.coldRun env else s
  | none => s
/-- t is what has become of s: where a flush of s has ended and the reset behind it is taken, a rise of RESET_N or WARM_N during the
flush starts the device now (R409, R410). -/
def State.flushed (s t : State) : State :=
  match s.startWait with
  | some env =>
    if s.flush.isNone || t.flush.isSome || s.resetAfter.isNone || !t.resetN || !t.warmN then t
    else if s.resetAfter == some false then t.warmRise env
    else if t.jtagHolds then { t with startWait := some env }
    else t.coldRun env
  | none => t

end Sys2Proof.Machine
end

