-- ==== Sys2Proof/Machine/Frames.lean ====
section
/-! DEFINITION. Ethernet frames and Faolo packets: contexts as packets use them, the checks of a received frame, and the frames
Ryrax builds (R294-R301, R429). -/

namespace Sys2Proof.Machine

/-! ### Contexts -/

/-- A context's image fields (R301). In diagnostic mode context 0 of a host port stands under key `diagCtx` (R429). -/
structure CtxRec where
  st : Nat
  port : Nat
  alt : Nat := 0
  cls : Nat := 0
  peer : Nat
  vlan : Nat := 0
  peerCtx : Nat
  ip : Nat := 0
  mac : List Byte
  pip : List Byte
  deriving DecidableEq, Repr
def State.ctxRec (s : State) (c : Nat) : CtxRec :=
  if c ≥ 2 ^ 20 then
    let h := c - 2 ^ 20
    let d := kget s.diagPeer h []
    { st := 2, port := 16 + h, peer := fldBe d 0 2, peerCtx := (Config.diagPeerCtx h).toNat, mac := slice d 2 6,
      pip := List.replicate 12 0 ++ slice d 8 4 }
  else
    { st := s.ctxSt c, port := s.ctxPort c, alt := s.ctxFld c 2 1, cls := s.ctxClass c, peer := s.ctxPeer c, vlan := s.ctxFld c 6 2,
      peerCtx := s.ctxFld c 8 4 % 2 ^ 20, ip := s.ctxFld c 0x0C 1, mac := natBe 6 (s.ctxFld c 0x10 6),
      pip := if (s.ctxFld c 0x0C 1).testBit 6 then natBe 16 (s.ctxFld c 0x18 16) else natBe 16 (s.ctxFld c 0x24 4) }
/-- The port a context's packets use now, and their priority (R294, R302). -/
def State.ctxOut (s : State) (c : Nat) : Nat := if (s.ctx c).onAlt then (s.ctxRec c).alt % 32 else (s.ctxRec c).port
def CtxRec.prio (r : CtxRec) : Nat := if r.vlan.testBit 15 then bits r.vlan 12 3 else 0
/-- SRC of what leaves on a context: PAIR_NODE on a pair flow (R352). -/
def State.srcOf (s : State) (r : CtxRec) : Nat := if s.isPair r.peer then s.pairNode else s.fld .faNode 0 16 (r.port % 2)
/-- STATE of a context changes; the one of diagnostic mode stays open. -/
def State.putCtxSt (s : State) (c v : Nat) : State := if c ≥ 2 ^ 20 then s else s.setCtxSt c v

/-- A context is used: it is cached, the most recently used first, and the least recently used unpinned one makes room (R302). -/
def State.ctxUse (s : State) (c : Nat) : State :=
  let p := (s.ctxRec c).port % 2
  let l := kget s.ctxCache p []
  let pin := l.any fun (x : Nat × Bool) => x.1 == c && x.2
  let rest := l.filter fun (x : Nat × Bool) => x.1 != c
  let rest := if rest.length < Config.ctxCache then rest
    else
      match pick (fun (x : Nat × Bool) => !x.2) rest.reverse with
      | some (_, r) => r.reverse
      | none => rest
  { s with ctxCache := kput s.ctxCache p ((c, pin) :: rest) }

/-! ### Receiving -/

/-- A Faolo packet as received (R297), with the CE mark of its IP header. -/
structure Pkt where
  op : Nat
  first : Bool
  last : Bool
  ctx : Nat
  cls : Nat
  src : Nat
  dst : Nat
  psn : Nat
  status : Nat
  apsn : Nat
  ecn : Nat
  climit : Nat
  ts : Nat
  echo : Nat
  pay : List Byte
  ce : Bool := false
  /-- SA and IPv4 source of its frame -/
  mac : List Byte := []
  ip4 : List Byte := []
  deriving DecidableEq, Repr
/-- The header and payload in device order. -/
def pktOf (l : List Byte) : Pkt :=
  let v := fldBe l 0 1
  let w := fldBe l 4 4
  let n := fldBe l 2 2
  { op := fldBe l 1 1, first := v.testBit 1, last := v.testBit 0, ctx := w >>> 12, cls := bits w 6 6, src := fldBe l 8 2, dst := fldBe l 0xA 2,
    psn := fldBe l 0xC 3, status := fldBe l 0xF 1, apsn := fldBe l 0x10 3, ecn := fldBe l 0x13 1, climit := fldBe l 0x14 2,
    ts := fldBe l 0x18 4, echo := fldBe l 0x1C 4, pay := slice l 32 n }

/-- What a frame is: discarded for reason c (R295), a PFC frame's control bytes, or a packet. -/
inductive FrameIn where
  | bad (c : Nat)
  | pfc (body : List Byte)
  | pkt (p : Pkt)
  deriving DecidableEq, Repr

/-- Allocated opcodes (R298). -/
def opAlloc (o : Nat) : Bool := (1 ≤ o && o ≤ 0xB) || o == 0x10 || o == 0x11
/-- The UDP checksum holds: 0 stands for none on IPv4 (R295). -/
def udpOk (v6 : Bool) (src dst udp : List Byte) : Bool :=
  let len := udp.length
  if fldBe udp 6 2 == 0 then !v6
  else
    let pseudo := src ++ dst ++ (if v6 then natBe 4 len ++ natBe 4 17 else natBe 2 17 ++ natBe 2 len)
    foldSum (inetSum (pseudo ++ udp)) == 65535
/-- Checks 4 to 7 on the bytes after the IP header. -/
def State.udpIn (s : State) (port : Nat) (v6 : Bool) (proto tos : Nat) (src dst l4 mac : List Byte) : FrameIn :=
  let ulen := fldBe l4 4 2
  let udp := l4.take ulen
  let f := udp.drop 8
  if !(proto == 17 && fldBe l4 2 2 == s.fld .faUdp 0 16 (port % 2) && 8 ≤ ulen && udp.length == ulen && udpOk v6 src dst udp) then .bad 4
  else if f.length != 36 + fldBe f 2 2 then .bad 5
  else if (crc32c (f.take (f.length - 4))).toNat != fldBe f (f.length - 4) 4 then .bad 6
  else if fldBe f 0 1 >>> 4 != 1 || !opAlloc (fldBe f 1 1) then .bad 7
  else .pkt { pktOf f with ce := tos % 4 == 3, mac := mac, ip4 := lastN 4 src }
/-- Check 3 on the bytes after the EtherType, and the rest. -/
def State.ipIn (s : State) (port etype : Nat) (l mac : List Byte) : FrameIn :=
  let own := natBe 8 (s.port .poIpHi 0 64 port) ++ natBe 8 (s.port .poIpLo 0 64 port)
  let v6 := s.port .poMac 4 1 port == 1
  if etype == 0x0800 then
    if !(fldBe l 0 1 == 0x45 && fldBe l 6 2 % 0x4000 == 0 && !v6 && slice l 16 4 == own.drop 12) then .bad 3
    else s.udpIn port false (fldBe l 9 1) (fldBe l 1 1) (slice l 12 4) (slice l 16 4) (l.drop 20) mac
  else if etype == 0x86DD then
    if !(fldBe l 0 1 >>> 4 == 6 && !([0, 43, 44, 50, 51, 60, 135, 139, 140, 253, 254].contains (fldBe l 6 1)) && v6 && slice l 24 16 == own) then .bad 3
    else s.udpIn port true (fldBe l 6 1) (fldBe l 0 2 >>> 4) (slice l 8 16) (slice l 24 16) (l.drop 40) mac
  else .bad 3
/-- Checks 0 to 7 of R295. -/
def State.parse (s : State) (port : Nat) (frame : List Byte) : FrameIn :=
  let n := frame.length
  let body := frame.take (n - 4)
  if n > 9216 || n < 18 || (fcs body).toNat != fldLe frame (n - 4) 4 then .bad 0
  else
    let da := slice body 0 6
    let et := fldBe body 12 2
    if et == 0x8808 && fldBe body 14 2 == 0x0101 && da == natBe 6 0x0180C2000001 then .pfc (body.drop 16)
    else if da != natBe 6 (s.port .poAddr 0 48 port) then .bad 1
    else
      let mac := slice body 6 6
      if et == 0x8100 then
        if fldBe body 14 2 % 4096 != s.port .poVlan 0 12 port || fldBe body 16 2 == 0x8100 then .bad 2
        else s.ipIn port (fldBe body 16 2) (body.drop 18) mac
      else if s.port .poVlan 12 1 port == 0 then .bad 2
      else s.ipIn port et (body.drop 14) mac
/-- Key of the context a packet names. -/
def State.ctxKey (s : State) (port : Nat) (p : Pkt) : Nat := if s.diag then diagCtx (port - 16) else p.ctx
/-- Checks 8 to 10 of R295; none when they pass. The SYNC of a peer that has restarted reopens a FAILED context (R305). In diagnostic mode a SYNC names its own sender (R429). -/
def State.pktBad (s : State) (port : Nat) (p : Pkt) : Option Nat :=
  let r := s.ctxRec (s.ctxKey port p)
  if p.dst == 0 || !(p.dst == s.fld .faNode 0 16 (port % 2) || p.dst == s.fld .faNode 16 16 (port % 2)) then some 8
  else if if s.diag then p.ctx != 0 else !(r.st == 1 || r.st == 2 || (r.st == 3 && p.op == 0x0A && fldLe p.pay 0 4 != (s.ctx p.ctx).incarnation)) then some 9
  else if p.src == 0 || (p.src != r.peer && !(s.diag && p.op == 0x0A)) || p.cls != r.cls then some 10
  else none
/-- A frame is discarded for reason c. -/
def State.discard (s : State) (port c : Nat) : State := s.count .faDiscard 1 (port % 2) c

/-! ### Sending -/

/-- A frame leaves a port. -/
def State.sendFrame (s : State) (p : Nat) (frame : List Byte) : State :=
  { s.setPort .poTx 0 64 p (s.port .poTx 0 64 p + 1) with wire := s.wire ++ [(p, frame)] }
/-- The frame of a Faolo packet on context c from port p (R294). The IPv4 identification is free. -/
def State.buildFrame (s : State) (c p : Nat) (faolo : List Byte) : State × List Byte :=
  let r := s.ctxRec c
  let v6 := r.ip.testBit 6
  let tos := r.ip % 64 * 4 + 2
  let own := natBe 8 (s.port .poIpHi 0 64 p) ++ natBe 8 (s.port .poIpLo 0 64 p)
  let src := if v6 then own else own.drop 12
  let dst := if v6 then r.pip else r.pip.drop 12
  let ulen := 8 + faolo.length
  let head := natBe 2 (49152 + (if c < 2 ^ 20 then c % 16384 else 0)) ++ natBe 2 (s.fld .faUdp 0 16 (p % 2)) ++ natBe 2 ulen
  let pseudo := src ++ dst ++ (if v6 then natBe 4 ulen ++ natBe 4 17 else natBe 2 17 ++ natBe 2 ulen)
  let sum := inetChecksum (pseudo ++ head ++ faolo)
  let udp := head ++ natBe 2 (if sum == 0 then 65535 else sum) ++ faolo
  let (s, id) := s.freeNext
  let h4 (sum : Nat) : List Byte :=
    natBe 1 0x45 ++ natBe 1 tos ++ natBe 2 (20 + ulen) ++ natBe 2 (bfld id 0 16) ++ natBe 2 0x4000 ++ natBe 1 64 ++ natBe 1 17 ++ natBe 2 sum ++ src ++ dst
  let ip := if v6 then natBe 4 (6 * 2 ^ 28 + tos * 2 ^ 20) ++ natBe 2 ulen ++ natBe 1 17 ++ natBe 1 64 ++ src ++ dst else h4 (inetChecksum (h4 0))
  let tag := if r.vlan.testBit 15 then natBe 2 0x8100 ++ natBe 2 (bits r.vlan 12 3 * 8192 + r.vlan % 4096) else []
  let body := r.mac ++ natBe 6 (s.port .poAddr 0 48 p) ++ tag ++ natBe 2 (if v6 then 0x86DD else 0x0800) ++ ip ++ udp
  (s, body ++ natLe 4 (fcs body).toNat)
/-- A packet on context c leaves from port p, with what every packet carries (R297, R304, R306); its frame's length. -/
def State.emit (s : State) (c p op flags psn status : Nat) (pay : List Byte) : State × Nat :=
  let r := s.ctxRec c
  let C := s.ctx c
  let h := faoloHdr ((if C.ecn > 0 then 8 else 0) + flags) op pay.length r.peerCtx r.cls (s.srcOf r) r.peer psn status C.expPsn C.ecn
    (C.grant % 65536) (s.uptime % 2 ^ 32) C.tsEcho
  let body := h ++ pay
  let (s, f) := s.buildFrame c p (body ++ natBe 4 (crc32c body).toNat)
  let s := s.modCtx c fun C => { C with ecn := 0, apsnSent := C.expPsn, grantSent := C.grant }
  (s.sendFrame p f, f.length)
/-- A pause frame for one priority: XOFF with a free nonzero time, or XON (R300). -/
def State.sendPause (s : State) (p prio : Nat) (on : Bool) : State :=
  let (s, v) := s.freeNext
  let t := if on then v.toNat % 65535 + 1 else 0
  let body := natBe 6 0x0180C2000001 ++ natBe 6 (s.port .poAddr 0 48 p) ++ natBe 2 0x8808 ++ natBe 2 0x0101 ++ natBe 2 (2 ^ prio) ++
    (List.range 8).flatMap (fun k => natBe 2 (if k == prio then t else 0)) ++ List.replicate 26 0
  s.sendFrame p (body ++ natLe 4 (fcs body).toNat)
/-- Bytes in the ingress buffer that a port took in with a priority (R300). -/
def State.occupancy (s : State) (p prio : Nat) : Nat :=
  let mine (c : Nat) : Bool := (s.ctxRec c).prio == prio
  (s.ctxs.map fun (x : Nat × Ctx) => if mine x.1 then ((x.2.held.filter fun (k : RxPkt) => k.port == p).map fun (k : RxPkt) => k.pay.length).sum else 0).sum +
    (s.items.map fun (i : Item) => if i.origin == 0 && mine i.ctx then kget i.ports p 0 else 0).sum
/-- XOFF and XON as the occupancy of a port reaches its marks. -/
def State.pfcCheck (s : State) (p : Nat) : State :=
  (List.range 8).foldl (fun (s : State) k =>
    let key := p * 8 + k
    if !(s.port .poMac 5 8 p).testBit k || s.port .poLink 0 1 p == 0 then s
    else
      let n := s.occupancy p k
      if !s.xoff.contains key && n ≥ 1024 * s.port .poPfc 0 16 p && n > 0 then { s.sendPause p k true with xoff := insertNat key s.xoff }
      else if s.xoff.contains key && n ≤ 1024 * s.port .poPfc 16 16 p then { s.sendPause p k false with xoff := s.xoff.filter (· != key) }
      else s) s
/-- A PFC frame: classes named and their times; with no priority under PFC it is discarded with reason 1 (R300). -/
def State.pfcIn (s : State) (port : Nat) (body : List Byte) : State :=
  let vec := fldBe body 0 2
  let hit := (List.range 8).filter fun k => vec.testBit k && (s.port .poMac 5 8 port).testBit k
  if hit == [] then s.discard port 1
  else
    hit.foldl (fun (s : State) k =>
      { s with pause := kput s.pause (port * 8 + k) (s.uptime + fldBe body (2 + 2 * k) 2 * 512 * 1000000000 / s.lineRate port) }) s
def State.paused (s : State) (p prio : Nat) : Bool := s.uptime < kget s.pause (p * 8 + prio) 0
/-- Nanoseconds of the next n in which some priority of a port is paused (R300). -/
def State.pausedFor (s : State) (p n : Nat) : Nat := ((List.range 8).map fun k => min n (kget s.pause (p * 8 + k) 0 - s.uptime)).foldl max 0

end Sys2Proof.Machine
end

