-- ==== Sys2Proof/Machine/Window.lean ====
section
/-! DEFINITION. Writes to registers outside the tiles, with the actions some of them take, and accesses of every master under the
device address map (R6, R9, R11-R14, R32-R41, R223, R239, R316, R326, R351, R366, R374, R434, R453, R465, R470). -/

namespace Sys2Proof.Machine

/-- GUARD(g).ADDR and CTL: ADDR and LEN only in FREE; then ARM, COMPLETE and RELEASE in the order of their bits (R316). -/
def State.guardWrite (s : State) (g v mask : Nat) : State :=
  let free := s.guardSt g == 0
  let s := s.plainWrite .guCtl g 0 v (if free then mask else mask &&& (maskAll ^^^ (2 ^ 24 - 1)))
  let x := v &&& mask
  let s := if x.testBit 26 then s.guardArm g else s
  let s := if x.testBit 27 then s.guardComplete g else s
  if x.testBit 28 then s.guardRelease g else s
/-- A write of the masked bits of v to register k, instance (i, j): its fields under their access codes, or its action. -/
def State.regAct (s : State) (k : RegKind) (i j v mask : Nat) : State :=
  let x := v &&& mask
  match k with
  | .jArrive => if x.testBit 0 then s.arrive i else s
  | .jLossScale =>
    let s := s.plainWrite k i j v mask
    if x.testBit 16 then s.lossSet i else s
  | .guAddr => if s.guardSt i == 0 then s.plainWrite k i j v mask else s
  | .guCtl => s.guardWrite i v mask
  | .quHead => s.queueHead (i * 8192 + j) (v % 2 ^ 32)
  | .emReq =>
    if s.fld .emMigStatus 4 1 i == 1 then s
    else
      let w := maskIn (s.reg .emReq i) v mask
      (s.setReg .emReq w i).migWrite i w
  | .twCtl =>
    let s := if x.testBit 0 then s.takeover else s
    let s := if x.testBit 1 then s.baselineGo else s
    if x.testBit 2 then s.joinGo else s
  | .flCtl =>
    if !x.testBit 27 then s.plainWrite k i j v mask
    else if !s.serves || s.flashSt == 1 then s.flashGo (bits v 25 2)
    else (s.plainWrite k i j v mask).flashGo (bits v 25 2)
  | .attCtl => if x.testBit 0 then s.attGo else s
  | .evHead =>
    let s' := s.evHeadOp (v % 2 ^ 32)
    if s.ringLost != 0 && s'.ringLost == 0 then s'.forwards [(s.lostRec, s.reg .evTail)] else s'
  | .evScan =>
    if !x.testBit 25 then s.plainWrite k i j v mask
    else if s.fld .evScan 26 2 == 1 then s.scanGo
    else (s.plainWrite k i j v mask).scanGo
  | k => s.plainWrite k i j v mask
/-- The same, with the event of R9 for a CFG field after READY. -/
def State.regPut (s : State) (m : Master) (a v mask : Nat) : State :=
  match regAt a with
  | some (k, i, j) => (s.regAct k i j v mask).cfgCheck k i j mask m
  | none => s
/-- One 32-bit write of a register outside the tiles (R12, R14, R35). -/
def State.regWrite32 (s : State) (m : Master) (a v : Nat) : State :=
  let (w, L, ok) := write32 regWide s.latches m a v
  let s := { s with latches := L }
  match w with
  | some (b, x, mask) => s.regPut m b x mask
  | none => if ok then s else s.unmapped (RegKind.src a) a m
/-- A write of register space outside the tiles (R11-R14). -/
def State.regWrite (s : State) (m : Master) (a : Nat) (data : List Byte) : State :=
  if data.length == 4 && a % 4 == 0 then s.regWrite32 m a (leNat data)
  else if data.length == 8 && a % 8 == 0 then
    if regWide a == some true then { s with latches := write64 s.latches m a }.regPut m a (leNat data) maskAll
    else (s.regWrite32 m a (fldLe data 0 4)).regWrite32 m (a + 4) (fldLe data 4 4)
  else s
/-- The register writes that units have sent are carried out; those they bring about follow with the next command. -/
def State.settle (s : State) : State :=
  s.unitOut.foldl (fun s (x : Master × Nat × List Byte) => s.regWrite x.1 x.2.1 x.2.2) { s with unitOut := [] }

/-! ### Accesses -/

/-- MASTER_ACCESS of a GLD or GST in flight: served once, a repeated tag from the kept outcome (R95, R493). -/
def State.tileAccess (s : State) (t : TileId) (tag : Nat) : State :=
  let c := tileCode t
  match (s.tile c).op tag with
  | none => s
  | some o =>
    if !o.going || o.isSend || !s.opTurn c o then s
    else
      let unit := s.unitAt o.addr
      let kept := unit.bind fun u => (s.tile c).keptAns u tag
      match kept with
      | some a => s.modTile c fun T => T.answerOp tag unit a
      | none =>
        let m : Master := .task t (Fin.ofNat 8 o.slot)
        let (s, a) := match o.kind with
          | .gst d => (s.memWrite m o.addr d, OpAns.stored)
          | .gld _ size _ => let (s, l) := s.memRead m o.addr (2 ^ size); (s, OpAns.loaded l)
          | .send _ _ => (s, OpAns.stored)
        s.modTile c fun T => (unit.elim T fun u => T.keep u tag a).answerOp tag unit a
/-- MASTER_ACCESS of a stream request in flight (R166, R187); a REMOTE record's request leaves on its context. -/
def State.streamAccess (s : State) (t : TileId) (id : Nat) : State :=
  let c := tileCode t
  match (s.tile c).reqs.find? fun (r : StreamReq) => r.id == id with
  | none => s
  | some r =>
    if r.lost || r.resp.isSome || !s.packetTurn c id (s.reqDest c r) || !s.streamTurn c id r.reads then s
    else
      let m : Master := .stream t
      let src := ((s.reqDest c r).map (·.1)).getD c
      match r.kind with
      | .block n b =>
        let (s, l) := s.memRead m (listAddr r.desc n % 2 ^ 48 + 256 * b) 256
        s.answer c r src [l]
      | .gather recs =>
        let d := r.desc
        let (s, ls) := recs.foldl (fun (acc : State × List (List Byte)) (x : Nat × Nat) =>
          let (s, l) := acc.1.memRead m x.2 d.recsz
          (s, acc.2 ++ [l])) (s, [])
        s.answer c r src ls
      | .lookup _ _ => s
      | .remote recs bag =>
        let d := r.desc
        if (s.ctx (d.ctx % 2 ^ 20)).asks.contains (c, id) then s else s.remoteSend c r recs bag
/-- MASTER_ACCESS of a SCATTER record: written, and its acknowledgement is on its way (R168). -/
def State.scatterAccess (s : State) (t : TileId) (id : Nat) : State :=
  let c := tileCode t
  match pick (fun (w : StreamWr) => w.id == id) (s.tile c).outs with
  | none => s
  | some (w, rest) =>
    if !s.packetTurn c id (s.meshDest c w.addr) || !s.streamTurn c id [(w.addr, w.data.length)] then s
    else
      let src := ((s.meshDest c w.addr).map (·.1)).getD c
      let s := s.modTile c fun T => { T with outs := rest }
      (s.memWrite (.stream t) w.addr w.data).modTile c fun T => ackLeaves T src w.slot w.gen
/-- The packet of an access of a base die, port die or the management engine has been discarded: the access waits until it is sent again
(R467, R493). -/
def State.packetLost (s : State) (m : Master) (a : Nat) : Bool := s.unitLost.contains (Master.entry m, a, false)
/-- MASTER_ACCESS (R32): the bytes of a named read are answered in `rdata`. -/
def State.access (s : State) : Access → State
  | .read m a n => if s.packetLost m a.toNat then s else let (s, l) := s.memRead m a.toNat n; { s with rdata := l }
  | .write m a d => if s.packetLost m a.toNat then s else s.memWrite m a.toNat d
  | .tileOp t tag => s.tileAccess t tag
  | .streamReq t id => if ((s.tile (tileCode t)).outs.any fun (w : StreamWr) => w.id == id) then s.scatterAccess t id else s.streamAccess t id
/-- TWIN_WINDOW_ACCESS: an access that arrived over the twin link, to twin-window address a (R34). -/
def State.twinAccess (s : State) (m : Master) (a n : Nat) (data : Option (List Byte)) : State :=
  if !(s.twinReach && 0x400000000000 ≤ a && a < 0x800000000000) then s
  else
    -- what falls into this device's own twin window has come over the link already: unmapped
    let len := match data with
      | some d => d.length
      | none => n
    let k := min len (0x800000000000 - a)
    let s := match data with
      | some d => s.memWrite m (a - 0x400000000000) (d.take k)
      | none => let (s, l) := s.memRead m (a - 0x400000000000) k; { s with rdata := l ++ List.replicate (n - k) 0 }
    if k < len then s.unmapped (Master.entry m) 0x400000000000 m else s
/-- GRANULE_READ and GRANULE_WRITE at the base die that holds the granule (R273, R274); a write reaches the hot-row cache with
the memory, since the cache serves rows from it (R41). -/
def State.granuleRow (s : State) (m : Master) (a : Nat) (bad : List (Fin 68 × Byte)) : State :=
  match s.place a with
  | .hbm st loc => let (s, l, _) := s.granule m (a / 64 * 64) st (loc / 64 * 64) bad; { s with rdata := l }
  | .trip st => { s.unmapped (srcDie st) a m with rdata := List.replicate 64 0 }
  | _ => s
def State.granulePut (s : State) (m : Master) (a : Nat) (data : List Byte) (bad : List (Fin 68 × Byte)) : State :=
  match s.place a with
  | .hbm st loc => if data != [] && a % 64 + data.length ≤ 64 then s.granuleWrite m a st loc data bad else s
  | .trip st => s.unmapped (srcDie st) a m
  | _ => s

end Sys2Proof.Machine
end

