-- ==== Sys2Proof/Machine/Transport.lean ====
section
/-! DEFINITION. The Faolo transport: what a received packet does, sequence, credit and retransmission, what a port sends next,
and the timers of a context (R300-R316, R320, R354, R362, R429). -/

namespace Sys2Proof.Machine

/-- PSN a is before PSN b (R303). -/
def psnBefore (a b : Nat) : Bool := let d := (b + 2 ^ 24 - a % 2 ^ 24) % 2 ^ 24; 1 ≤ d && d ≤ 2 ^ 23 - 1
/-- Credit a packet takes when first sent (R306). -/
def pktUnits (op : Nat) (pay : List Byte) : Nat := if op == 1 || op == 3 || op == 4 || op == 0x10 || op == 0x11 then cdiv pay.length 4096 else 0
def sequenced (op : Nat) : Bool := op ≤ 6 || op == 0x10 || op == 0x11
/-- The master a context's packets act for (R310). -/
def State.remoteOf (s : State) (c : Nat) : Master :=
  let r := s.ctxRec c
  .remote (BitVec.ofNat 16 r.peer) (Fin.ofNat 2 r.port)

/-! ### Processing in PSN order -/

/-- WRITE (R311). -/
def State.writePkt (s : State) (c : Nat) (last : Bool) (pay : List Byte) : State :=
  let m := s.remoteOf c
  let s := s.memWrite m (fldLe pay 0 6) (pay.drop 16)
  let tok := fldLe pay 10 1
  if last && tok.testBit 7 then s.memWrite m (tileRegAddr (fldLe pay 8 2 % 4096) (0x200 + 4 * (tok % 64))) (natLe 4 1) else s
/-- READ (R312, R316): the answer joins the context's queue. A LENGTH outside its range is answered without data. -/
def State.readPkt (s : State) (c psn : Nat) (pay : List Byte) : State :=
  let a := fldLe pay 0 6
  let n := fldLe pay 8 4
  let g := fldLe pay 12 2
  let hdr (a gen : Nat) : List Byte := natLe 8 a ++ natLe 4 gen ++ natLe 4 psn
  let (s, st, gen, ok) := if g == 0xFFFF then (s, 0, 0, true) else if g ≥ 4096 then (s, 2, 0, false) else s.guardRead g a n
  if !ok || n == 0 || n > 16777216 then s.postVia none c { op := 3, status := st, pay := hdr a gen }
  else
    let (s, l) := s.memRead (s.remoteOf c) a n
    let s := if g != 0xFFFF && (fldLe pay 14 2).testBit 0 then s.guardRelease g else s
    let parts := chunks 8176 l
    parts.zipIdx.foldl (fun (s : State) (x : List Byte × Nat) =>
      s.postVia none c { op := 3, first := x.2 == 0, last := x.2 + 1 == parts.length, pay := hdr (a + 8176 * x.2) gen ++ x.1 }) s
/-- A packet that came from pair P goes on to the partner where that one computes outside LIVE(P) (R354). -/
def State.relayOn (s : State) (c op : Nat) (pay : List Byte) (first last : Bool := true) : State :=
  let P := s.ctxPeer c
  let live := s.liveOf (if op == 0x10 || op == 0x11 then some (fldLe pay 1 1 % 16) else none) P
  if s.isPair P && s.partnerComputes && live &&& (3 - s.roleBit) == 0 then
    (s.tell [TwMsg.relay c (relayPkt P s.pairNode op pay first last)]).count .twRelayed 1
  else s
/-- COLLECTIVE and SPARSE_EXCHANGE packets (R318-R321); none while its operation has not started. -/
def State.segPkt (s : State) (c op : Nat) (first last : Bool) (pay : List Byte) : Option State :=
  -- record bytes that one packet holds (R297)
  let room := 8176
  let kind := fldLe pay 0 1
  if op == 0x10 then
    if kind == 0 || kind ≥ 8 then some s else s.segIn c op pay
  else
    match kind with
    | 1 => some (s.lookupReq c last pay)
    | 2 =>
      let n := fldLe pay 0x0C 2
      let d := pay.drop 16
      some (s.remoteAnswer c (fldLe pay 8 4) ((List.range n).map fun i => slice d (i * (d.length / max n 1)) (d.length / max n 1)))
    | 3 =>
      let n := fldLe pay 0x0C 2
      let recsz := fldLe pay 2 2
      let (s, ls) := (List.range n).foldl (fun (acc : State × List (List Byte)) i =>
        let (s, l) := acc.1.memRead (s.remoteOf c) (fldLe pay (16 + 8 * i) 6) recsz
        (s, acc.2 ++ [l])) (s, [])
      let per := room / max 1 recsz
      let hdr (k n : Nat) : List Byte := sparseHdr 4 (fldLe pay 1 1) recsz (fldLe pay 4 4) (fldLe pay 8 4 + k) n 0 0
      let j := fldLe pay 1 1 % 16
      if per == 0 then
        -- a record longer than a packet is a message of several packets (DESIGN CHOICE, log entry 129)
        some (ls.zipIdx.foldl (fun (s : State) (x : List Byte × Nat) =>
          let ps := chunks room x.1
          ps.zipIdx.foldl (fun (s : State) (y : List Byte × Nat) =>
            s.postVia (some j) c { op := 0x11, first := y.2 == 0, last := y.2 + 1 == ps.length, pay := hdr x.2 1 ++ y.1 }) s) s)
      else
      some ((chunks per ls).zipIdx.foldl (fun (s : State) (x : List (List Byte) × Nat) =>
        s.postVia (some j) c { op := 0x11, pay := hdr (x.2 * per) x.1.length ++ x.1.flatten }) s)
    | 4 =>
      let recsz := fldLe pay 2 2
      if recsz > room then
        let l := (if first then [] else (s.ctx c).piece) ++ pay.drop 16
        let s := s.modCtx c fun C => { C with piece := if last then [] else l }
        some (if last then s.remoteAnswer c (fldLe pay 8 4) [slice l 0 recsz] else s)
      else
      some (s.remoteAnswer c (fldLe pay 8 4) ((List.range (fldLe pay 0x0C 2)).map fun i => slice pay (16 + i * recsz) recsz))
    | 5 | 6 | 7 => s.segIn c op pay
    | _ => some s
/-- A SEND of diagnostic mode is refused (R429). -/
def State.diagSend (s : State) (c : Nat) (first : Bool) (pay : List Byte) : State :=
  if first then s.answerItem c (fldLe pay 0 2) (fldLe pay 4 4) 2 0 else s
/-- One packet in PSN order; none while it must wait at EXP (R303). Another data packet between an item's packets breaks the
item (R313). -/
def State.procPkt (s : State) (c : Nat) (k : RxPkt) : Option State :=
  let s := if (k.op == 1 || k.op == 3 || k.op == 0x10 || k.op == 0x11) && (s.ctx c).rx.isSome then s.rxBreak c else s
  Option.map (fun s => s.relayOn c k.op k.pay k.first k.last) <| match k.op with
  | 1 => some (s.writePkt c k.last k.pay)
  | 2 => some (s.readPkt c k.psn k.pay)
  | 4 => if s.diag then some (s.diagSend c k.first k.pay) else s.sendPkt c k.first k.last k.pay
  | 5 | 6 => some (s.egressAnswer c k.pay)
  | 0x10 | 0x11 => if s.diag || s.early.isSome then some s else s.segPkt c k.op k.first k.last k.pay
  | _ => some s
/-- The units of a processed packet: an item's stay with it, others leave the buffer (R306). -/
def State.unitsDone (s : State) (c : Nat) (k : RxPkt) : State :=
  let u := pktUnits k.op k.pay
  match (if k.op == 4 then (s.ctx c).rx.bind fun r => r.item else none) with
  | some id =>
    if (s.itemAt (·.id == id)).isSome then
      s.modItem id fun i => { i with units := i.units + u, ports := kput i.ports k.port (kget i.ports k.port 0 + (k.pay.length - 16)) }
    else s.giveCredit c u
  | none => s.giveCredit c u
/-- EXP moves past the packet it names, with the ACK that is due after 16 (R304). -/
def State.expNext (s : State) (c : Nat) : State :=
  s.modCtx c fun C =>
    let e := (C.expPsn + 1) % 2 ^ 24
    let due := (e + 2 ^ 24 - C.apsnSent) % 2 ^ 24 ≥ 16 && !C.ctl.any (fun (x : Nat × List Byte) => x.1 == 7)
    { C with expPsn := e, held := C.held.filter (fun (k : RxPkt) => k.psn != C.expPsn), ctl := if due then C.ctl ++ [(7, [])] else C.ctl,
             sackWant := C.sackWant && C.held.any fun (k : RxPkt) => k.psn != C.expPsn }
/-- Process what stands at EXP, as far as it goes. -/
def State.drain (s : State) (c : Nat) : Nat → State
  | 0 => s
  | f + 1 =>
    let C := s.ctx c
    match C.held.find? fun (k : RxPkt) => k.psn == C.expPsn with
    | none => s
    | some k =>
      let whole := match C.rx with
        | some r => r.whole
        | none => false
      if whole then
        match C.rx.bind fun r => r.item with
        | some _ => s
        | none => ((s.modCtx c fun C => { C with rx := none }).expNext c).drain c f
      else
        match s.procPkt c k with
        | none => s
        | some s =>
          let s := s.unitsDone c k
          match (s.ctx c).rx with
          | some r => if r.whole && r.item.isSome then s else (s.expNext c).drain c f
          | none => (s.expNext c).drain c f
/-- Whatever waits in the ingress buffers goes on where it can, and XON leaves where that has emptied one (R300). After a fatal error
nothing is judged or sent any more (R460). -/
def State.pump (s : State) : State :=
  if s.fatal then s
  else
  let s := s.segRetry
  let s := s.ctxs.foldl (fun (s : State) (x : Nat × Ctx) => if (s.ctx x.1).held == [] then s else s.drain x.1 512) s
  if s.xoff == [] then s else (List.range 18).foldl (fun s p => s.pfcCheck p) s

/-! ### Receiving (R303-R307) -/

/-- What every packet brings: CE, APSN, the echo, credit. -/
def State.rxCommon (s : State) (c : Nat) (p : Pkt) : State :=
  let C := s.ctx c
  let freed := C.out.filter fun (t : TxPkt) => psnBefore t.psn p.apsn
  let C := { C with out := C.out.filter (fun (t : TxPkt) => !psnBefore t.psn p.apsn),
                    ecn := if p.ce then min 255 (C.ecn + 1) else C.ecn,
                    limit := if (p.climit + 2 ^ 16 - C.limit % 2 ^ 16) % 2 ^ 16 < 2 ^ 15 then p.climit else C.limit }
  let C := if p.echo == 0 then C else s.rttSample { C with marked := C.marked + p.ecn, acked := C.acked + freed.length } p.echo
  let C := if freed == [] then C else { C with retries := 0, rto := s.rtoOf C }
  let s := s.modCtx c fun _ => C
  freed.foldl (fun (s : State) (t : TxPkt) =>
    match (if t.op == 1 && t.last then t.egress else none).bind fun id => s.egress.find? fun (e : Egress) => e.id == id with
    | some e => s.egressDone e 0 0 0
    | none => s) s
/-- A sequenced packet (R303, R306, R307). LIVE takes effect on arrival (R319, R362). -/
def State.seqIn (s : State) (port c : Nat) (p : Pkt) : State :=
  let s := s.modCtx c fun C => { C with tsEcho := p.ts }
  let C := s.ctx c
  let d := (p.psn + 2 ^ 24 - C.expPsn) % 2 ^ 24
  let u := pktUnits p.op p.pay
  if d < 256 then
    if C.held.any fun (k : RxPkt) => k.psn == p.psn then s
    else if C.recv + u > C.grant then s.discard port 12
    else
      let gap := (List.range d).any fun i => !C.held.any fun (k : RxPkt) => k.psn == (C.expPsn + i) % 2 ^ 24
      let k : RxPkt := { op := p.op, first := p.first, last := p.last, status := p.status, psn := p.psn, pay := p.pay, port := port }
      let s := s.modCtx c fun C => { C with held := C.held ++ [k], recv := C.recv + u, sackWant := C.sackWant || gap }
      let s := if p.op == 0x10 && fldLe p.pay 0 1 == 8 && s.isPair p.src then
          s.liveIn p.src (fldLe p.pay 1 1 % 16) (fldLe p.pay 4 4) (bits (fldLe p.pay 0x0F 1) 5 2)
        else s
      s.drain c 512
  else if psnBefore p.psn C.expPsn then s.postCtl c 7 []
  else s.discard port 11
/-- SACK (R304, R305). -/
def State.sackIn (s : State) (c : Nat) (pay : List Byte) : State :=
  let base := fldLe pay 0 4 % 2 ^ 24
  let map := fldLe pay 4 32
  let top := if map == 0 then 0 else Nat.log2 map
  s.modCtx c fun C =>
    { C with out := C.out.map fun (t : TxPkt) =>
        let k := (t.psn + 2 ^ 24 - base) % 2 ^ 24
        let recent := match t.resentAt with
          | some x => s.uptime < x + f32Floor C.srtt
          | none => false
        if k < top && !map.testBit k && !recent then { t with again := true } else t }
/-- The context's sequence, receive and credit state is cleared, and the limit is the peer's GRANT (R302). What it had not been
acknowledged is sent anew. -/
def State.ctxClear (s : State) (c inc grant : Nat) : State :=
  let own := if c ≥ 2 ^ 20 then (Config.diagCredit (c - 2 ^ 20)).toNat + 1 else s.ctxFld c 0x28 4
  let lost := match (s.ctx c).rx with
    | some r => if r.whole then none else r.item
    | none => none
  let s := match lost.bind fun id => s.itemAt (·.id == id) with
    | some i => s.dropItem i
    | none => s
  let s := { s with items := s.items.map fun (i : Item) => if i.ctx == c && i.origin == 0 then { i with units := 0 } else i }
  s.modCtx c fun C =>
    { C with queue := C.out.map (fun (t : TxPkt) => { t with again := false, resentAt := none }) ++ C.queue, out := [], nextPsn := 0, expPsn := 0,
             held := [], sent := 0, limit := grant % 65536, recv := 0, grant := own, grantSent := own, apsnSent := 0, sackWant := false,
             sackAt := none, ecn := 0, tsEcho := 0, retries := 0, rto := s.rtoOf C, rx := none, bag := none, piece := [], incarnation := inc }
/-- SYNC (R302). -/
def State.syncIn (s : State) (c : Nat) (p : Pkt) : State :=
  let inc := fldLe p.pay 0 4
  let s := if s.diag then { s with diagPeer := kput s.diagPeer (c - 2 ^ 20) (natBe 2 p.src ++ p.mac ++ p.ip4) } else s
  let new := inc != (s.ctx c).incarnation
  let s := if new then s.ctxClear c inc (fldLe p.pay 4 4) else s
  let own := if c ≥ 2 ^ 20 then natLe 4 (s.reg .flogInc) ++ natLe 4 ((Config.diagCredit (c - 2 ^ 20)).toNat + 1) ++ natLe 8 0 else s.syncPay c
  let s := s.postCtl c 0x0B own
  if new then
    let s := if (s.ctxRec c).st == 3 then s.setFld .faCtxState 0 21 (s.fld .faCtxState 0 21 ((s.ctxRec c).port % 2) - 1) ((s.ctxRec c).port % 2) else s
    (s.putCtxSt c 1).postCtl c 0x0A own
  else s
/-- SYNC_ACK (R302). -/
def State.syncAckIn (s : State) (c : Nat) (p : Pkt) : State :=
  let inc := fldLe p.pay 0 4
  let s := if inc != (s.ctx c).incarnation then s.ctxClear c inc (fldLe p.pay 4 4) else s
  s.putCtxSt c 2
/-- A packet that passed every check. -/
def State.pktIn (s : State) (port : Nat) (p : Pkt) : State :=
  let c := s.ctxKey port p
  let s := (s.ctxUse c).rxCommon c p
  if p.op == 8 then s.sackIn c p.pay
  else if p.op == 0x0A then s.syncIn c p
  else if p.op == 0x0B then s.syncAckIn c p
  else if sequenced p.op then s.seqIn port c p
  else s
/-- A port takes frames in and sends: the link is up, and Ryrax serves (R293, R407, R429, R431); after a fatal error none does (R460). -/
def State.takes (s : State) (port : Nat) : Bool :=
  s.port .poLink 0 1 port == 1 && !s.fatal && (s.ready || ((s.diag || s.early.isSome) && 16 ≤ port))
/-- A received frame, for the row that names the packets `want`: a frame that fails checks 0 to 7 is nobody's packet and is
discarded under any of these rows; one that passes them belongs to the row of its opcode and kind. -/
def State.frameIn (s : State) (port : Nat) (frame : List Byte) (want : Pkt → Bool) : State :=
  if !s.takes port then s
  else
    let s' := s.setPort .poRx 0 64 port (s.port .poRx 0 64 port + 1)
    match s.parse port frame with
    | .bad c => s'.discard port c
    | .pfc _ => s
    | .pkt p =>
      if !want p then s
      else
        match s'.pktBad port p with
        | some c => s'.discard port c
        | none => (s'.pktIn port p).pfcCheck port
/-- PFC_FRAME. -/
def State.pfcRow (s : State) (port : Nat) (frame : List Byte) : State :=
  if !s.takes port then s
  else
    let s' := s.setPort .poRx 0 64 port (s.port .poRx 0 64 port + 1)
    match s.parse port frame with
    | .bad c => s'.discard port c
    | .pfc l => s'.pfcIn port l
    | .pkt _ => s
/-- Packets by opcode, and by KIND of their operation header. -/
def isOp (o : Nat) (p : Pkt) : Bool := p.op == o
def isColl (k : Nat) (p : Pkt) : Bool := p.op == 0x10 && fldLe p.pay 0 1 == k
def isSparse (k : Nat) (p : Pkt) : Bool := p.op == 0x11 && fldLe p.pay 0 1 == k
/-- Packets whose KIND is allocated to no row are taken with the lowest kind: they have no effect beyond the transport's. -/
def oddKind (n : Nat) (p : Pkt) : Bool := fldLe p.pay 0 1 == 0 || fldLe p.pay 0 1 > n
/-- RELAY (R353, R354): a packet this pair sends leaves on this device's own context; one received for it is processed. -/
def State.relayIn (s : State) (c : Nat) (l : List Byte) : State :=
  let p := pktOf l
  if s.twin != 2 && s.twin != 3 && s.twin != 5 then s
  else if p.src == s.pairNode then s.post c { op := p.op, first := p.first, last := p.last, pay := p.pay }
  else
    match p.op with
    | 1 => s.writePkt c p.last p.pay
    | 2 => s.readPkt c p.psn p.pay
    | 3 => s
    | 4 => (s.sendPkt c p.first p.last p.pay).getD s
    | 5 | 6 => s.egressAnswer c p.pay
    | _ =>
      match s.segPkt c p.op p.first p.last p.pay with
      | some s => s
      | none => s.segKeep c p.op p.pay

/-! ### Sending (R303-R309, R336) -/

/-- The packet at the head of a context's queue may leave: window, rate, credit. -/
def State.due (s : State) (c : Nat) : Bool :=
  let C := s.ctx c
  match C.queue with
  | [] => false
  | t :: _ => (s.ctxRec c).st == 2 && C.out.length < 256 && C.dueAt ≤ s.uptime && pktUnits t.op t.pay ≤ (C.limit + 2 ^ 16 - C.sent % 2 ^ 16) % 2 ^ 16
/-- A retransmission is due on a context. -/
def State.againDue (s : State) (c : Nat) : Bool := (s.ctxRec c).st == 2 && (s.ctx c).out.any fun (t : TxPkt) => t.again
/-- Deadline of the sequenced packet that a context sends next: a retransmission, else the head of its queue. -/
def State.headDeadline (s : State) (c : Nat) : Option Nat :=
  match (((s.ctx c).out.find? fun (t : TxPkt) => t.again).or (s.ctx c).queue.head?).bind fun t => t.egress with
  | some id => (s.egress.find? fun (e : Egress) => e.id == id).bind fun e => e.deadline
  | none => none
def flagBits (first last : Bool) : Nat := 2 * first.toNat + last.toNat
/-- An unsequenced packet of a context leaves: a SACK that is due, else the oldest that waits. -/
def State.sackDue (s : State) (c : Nat) : Bool :=
  let C := s.ctx c
  C.sackWant && (match C.sackAt with
    | some t => t + 1000 ≤ s.uptime
    | none => true)
def State.sendCtl (s : State) (c p : Nat) : State :=
  let C := s.ctx c
  if s.sackDue c then
    let map := (C.held.map fun (k : RxPkt) => 2 ^ ((k.psn + 2 ^ 24 - C.expPsn) % 2 ^ 24)).sum
    (s.emit c p 8 3 C.nextPsn 0 (natLe 4 C.expPsn ++ natLe 32 map)).1.modCtx c fun C => { C with sackWant := false, sackAt := some s.uptime }
  else
    match C.ctl with
    | [] => s
    | (op, pay) :: r => ((s.modCtx c fun C => { C with ctl := r }).emit c p op 3 C.nextPsn 0 pay).1
/-- A retransmitted copy leaves (R305). -/
def State.sendAgain (s : State) (c p : Nat) : State :=
  match (s.ctx c).out.find? fun (t : TxPkt) => t.again with
  | none => s
  | some t =>
    let (s, _) := s.emit c p t.op (4 + flagBits t.first t.last) t.psn t.status t.pay
    (s.count .faRetx 1 (p % 2)).modCtx c fun C =>
      { C with out := replaceFirst (fun (x : TxPkt) => x.psn == t.psn) (fun x => { x with again := false, resentAt := some s.uptime, sentAt := s.uptime }) C.out }
/-- The last packet of an egress transfer has been handed to the MAC: late, if its bound has passed (R333, R336). -/
def State.handOver (s : State) (id : Nat) : State :=
  match s.egress.find? fun (e : Egress) => e.id == id with
  | none => s
  | some e =>
    if e.handed then s
    else
    let s := { s with egress := replaceFirst (fun (x : Egress) => x.id == id) (fun x => { x with handed := true }) s.egress }
    match e.deadline with
    | some d =>
      if d < s.uptime then
        let s := s.setQ .quLate 0 64 e.queue (s.q .quLate 0 64 e.queue + 1)
        if s.void then s else s.event (srcPort (s.qDie e.queue)) 0x0801
          (natLe 2 e.queue ++ natLe 2 0 ++ natLe 4 e.msn ++ natLe 8 (s.uptime - d))
      else s
    | none => s
/-- A sequenced packet leaves for the first time. -/
def State.sendNew (s : State) (c p : Nat) : State :=
  match (s.ctx c).queue with
  | [] => s
  | t :: rest =>
    let C := s.ctx c
    let (s, n) := s.emit c p t.op (flagBits t.first t.last) C.nextPsn t.status t.pay
    let gap := cdiv (8000000000 * n) (max 1 (f32Floor C.rate))
    let s := s.modCtx c fun C =>
      { C with queue := rest, out := C.out ++ [{ t with psn := C.nextPsn, sentAt := s.uptime }], nextPsn := (C.nextPsn + 1) % 2 ^ 24,
               sent := (C.sent + pktUnits t.op t.pay) % 2 ^ 16, dueAt := max s.uptime C.dueAt + gap }
    match (if t.last then t.egress else none) with
    | some id => s.handOver id
    | none => s
/-- Among promised contexts, the head packet of the earliest deadline; packets without one come after, lower contexts first. -/
def State.promisedNext (s : State) (l : List Nat) : Option Nat :=
  let key (c : Nat) : Nat × Nat := match s.headDeadline c with
    | some d => (0, d)
    | none => (1, c)
  l.foldl (fun (b : Option Nat) c => match b with
    | none => some c
    | some x => if (key c).1 < (key x).1 || ((key c).1 == (key x).1 && (key c).2 < (key x).2) then some c else some x) none
/-- An unsequenced packet or a retransmission of one of the contexts l leaves from port p; none where nothing of that kind is due. -/
def State.sendOld (s : State) (l : List Nat) (p : Nat) : Option State :=
  let live (c : Nat) : Bool := let st := (s.ctxRec c).st; st == 1 || st == 2
  match l.find? fun c => live c && ((s.ctx c).ctl != [] || s.sackDue c) with
  | some c => some ((s.ctxUse c).sendCtl c p)
  | none => (l.find? s.againDue).map fun c => (s.ctxUse c).sendAgain c p
/-- The promised contexts l: unsequenced packets, then the sequenced packet of the earliest deadline (R336). -/
def State.sendPromised (s : State) (l : List Nat) (p : Nat) : Option State :=
  let live (c : Nat) : Bool := let st := (s.ctxRec c).st; st == 1 || st == 2
  match l.find? fun c => live c && ((s.ctx c).ctl != [] || s.sackDue c) with
  | some c => some ((s.ctxUse c).sendCtl c p)
  | none => (s.promisedNext (l.filter fun c => s.againDue c || s.due c)).map fun c =>
      if s.againDue c then (s.ctxUse c).sendAgain c p else (s.ctxUse c).sendNew c p
/-- The unpromised contexts l that are due send in turns of 8,192 bytes (R309). -/
def State.sendTurn (s : State) (l : List Nat) (p : Nat) : State :=
  let due := l.filter s.due
  let t := kget s.turn p 0
  let cur := t / 65536
  let next := match due.find? fun c => c == cur && t % 65536 < 8192 with
    | some c => some (c, t % 65536)
    | none => ((due.find? fun c => c > cur).or due.head?).map fun c => (c, 0)
  match next with
  | none => s
  | some (c, used) =>
    let n := match (s.ctx c).queue with
      | x :: _ => x.pay.length
      | [] => 0
    { (s.ctxUse c).sendNew c p with turn := kput s.turn p (c * 65536 + min 65535 (used + n)) }
/-- PACKET_TRANSMIT: the contexts of promised classes first, and the others only when none of those is due (R309, R336). A FENCED
device sends no pair packet (R351). -/
def State.transmit (s : State) (p : Nat) : State :=
  if !s.takes p then s
  else
    let all := (s.ctxs.map fun (x : Nat × Ctx) => x.1).filter fun c =>
      s.ctxOut c == p && !s.paused p (s.ctxRec c).prio && !(s.twin == 4 && s.isPair (s.ctxPeer c))
    let promised (c : Nat) : Bool := s.clsRate (s.ctxRec c).cls != 0
    let rest := all.filter fun c => !promised c
    match (s.sendPromised (all.filter promised) p).or (s.sendOld rest p) with
    | some t => t
    | none => s.sendTurn rest p

/-! ### Timers of a context -/

/-- A context that exists for the transport: SYNCING or OPEN. -/
def State.ctxLive (s : State) (c : Nat) : Bool := let st := (s.ctxRec c).st; st == 1 || st == 2
/-- SYNC_RESEND. -/
def State.syncResend (s : State) (c : Nat) : State := if (s.ctxRec c).st == 1 then s.postCtl c 0x0A (s.syncPay c) else s
/-- DELAYED_ACK. -/
def State.delayedAck (s : State) (c : Nat) : State :=
  if s.ctxLive c && (s.ctx c).expPsn != (s.ctx c).apsnSent then s.postCtl c 7 [] else s
/-- CREDIT_TIMER. -/
def State.creditTimer (s : State) (c : Nat) : State :=
  if s.ctxLive c && (s.ctx c).grant != (s.ctx c).grantSent then s.postCtl c 9 [] else s
/-- The context becomes FAILED (R305): its transfers end, and an item it was still receiving is dropped. -/
def State.ctxFail (s : State) (c : Nat) : State :=
  let peer := (s.ctxRec c).peer
  let port := (s.ctxRec c).port
  let s := s.putCtxSt c 3
  let s := s.addFld .faCtxState 0 21 1 (port % 2)
  let s := s.event (srcPort (port % 2)) 0x0703 (natLe 4 c ++ natLe 2 peer)
  let s := (s.egress.filter fun (e : Egress) => e.started && fldLe e.desc 4 4 == c).foldl (fun (s : State) e => s.egressDone e 3 0 0) s
  let s := match ((s.ctx c).rx.bind fun r => if r.whole then none else r.item).bind fun id => s.itemAt (·.id == id) with
    | some i => s.dropItem i
    | none => s
  s.modCtx c fun C => { C with queue := [], out := [], ctl := [], held := [], rx := none }
/-- RETRANSMIT_TIMEOUT (R305). -/
def State.rtoFire (s : State) (c : Nat) : State :=
  let C := s.ctx c
  if C.out == [] || (s.ctxRec c).st != 2 then s
  else if C.retries + 1 ≥ s.ccRetry then s.ctxFail c
  else
    s.modCtx c fun C =>
      { C with retries := C.retries + 1, rto := min (2 * C.rto) 10000000, out := match C.out with
                 | t :: r => { t with again := true } :: r
                 | [] => [] }
/-- PORT_FAILOVER (R302). -/
def State.failover (s : State) (c : Nat) : State :=
  let r := s.ctxRec c
  if s.port .poLink 0 1 r.port == 1 then s.modCtx c fun C => { C with onAlt := false }
  else if r.alt.testBit 7 && s.ctxLive c then s.modCtx c fun C => { C with onAlt := true }
  else s
/-- CONTEXT_FETCH (R302). `ue`: the cache cannot correct the context it holds, which becomes FAILED (R459). -/
def State.ctxFetch (s : State) (c : Nat) (ue : Bool) : State :=
  if !s.ctxLive c then s
  else if ue && ((kget s.ctxCache ((s.ctxRec c).port % 2) []).any fun (x : Nat × Bool) => x.1 == c) then s.ctxFail c
  else s.ctxUse c

end Sys2Proof.Machine
end

