-- ==== Sys2Proof/Machine/Clock.lean ====
section
/-! DEFINITION. What the clock does when no command waits: one step of 5 ns, in which the uptime counter advances (R469). Token buckets,
tile cycle counters, pause counters and held-back egress bounds advance with it (R109, R300, R329, R336, R401). -/

namespace Sys2Proof.Machine

/-- The next packet of a transfer is held back by the peer (R336). -/
def State.heldBack (s : State) (e : Egress) : Bool :=
  let c := fldLe e.desc 4 4
  let C := s.ctx c
  let p := s.ctxOut c
  e.started && !e.handed &&
    (s.paused p (s.ctxRec c).prio || s.port .poLink 0 1 p == 0 ||
     (match C.queue with
      | t :: _ =>
        pktUnits t.op t.pay > (C.limit + 2 ^ 16 - C.sent % 2 ^ 16) % 2 ^ 16 ||
          (s.uptime < C.dueAt && f32Gt (f32Nat (s.lineRate p)) C.rate)
      | [] => false))
/-- TOKENS of queue q after 5 ns: RATE × 0.1 Gbit/s, up to BURST, in units of 0.1 bit (R329). -/
def State.refill (s : State) (q : Nat) : State :=
  s.setQ .quTokens 0 64 q (min (s.q .quTokens 0 64 q + 5 * s.qRate q) (80 * s.clsBurst (s.qClass q)))
/-- CYCLES of a tile after 5 ns at its level: 2 × (16 − GATE) / DIV, kept in 1/120 cycle. -/
def tileTick (lv : Nat) (T : Tile) : Tile :=
  let (d, g) := levelClk lv
  let n := T.cycFrac + 240 * (16 - g) / d
  { T with cycles := T.cycles + n / 120, cycFrac := n % 120, hot := false }
/-- One idle step. -/
def State.tick (s : State) : State :=
  if !s.pllLocked then s
  else
    let was := s
    let s := { s with uptime := s.uptime + 5 }
    if !(s.on && s.ready) then s
    else
      let s := ((List.range 16384).filter fun q => s.qOpen q && s.qPromised q).foldl State.refill s
      let s := (List.range 2304).foldl (fun (s : State) c => s.modTile c (tileTick (s.level (s.groupOf c)))) s
      let s := (List.range 18).foldl (fun (s : State) p =>
        if was.pausedFor p 5 == 0 then s else s.setPort .poPaused 0 64 p (s.port .poPaused 0 64 p + was.pausedFor p 5)) s
      { s with egress := s.egress.map fun (e : Egress) =>
          if s.heldBack e then { e with deadline := e.deadline.map (· + 5) } else e }

end Sys2Proof.Machine
end

