-- ==== Sys2Proof/Machine/Telemetry.lean ====
section
/-! DEFINITION. What the management engine and the base dies sample and report: event records and their forwarding, laggards, stack
temperatures, patrol scrubs; the pins the state determines; the I3C target's address; the test access port (R121, R275, R281-R283, R341,
R468, R471, R481, R484, R485, R488-R490). -/

namespace Sys2Proof.Machine

/-! ### Events -/

/-- EVENT_RECORD. -/
def State.eventRecord (s : State) (src : Nat) : State :=
  let (s, l) := s.recordOp src
  s.forwards l

/-! ### Laggards (R121) -/

/-- Twice the median of a list: the two middle values of an even number count half each. -/
def median2 (l : List Nat) : Nat :=
  let o := l.foldl (fun (o : List Nat) x => o.takeWhile (· < x) ++ x :: o.dropWhile (· < x)) []
  let n := o.length
  if n % 2 == 1 then 2 * o.getD (n / 2) 0 else o.getD (n / 2 - 1) 0 + o.getD (n / 2) 0
/-- The physical row of logical row r on die d (R22). -/
def State.physRow (s : State) (d r : Nat) : Nat :=
  let a := s.fld .rowMap 0 5 d
  let b := s.fld .rowMap 8 5 d
  ((List.range 20).filter fun p => p != a && p != b).getD r 0
def State.lagMark (s : State) (c : Nat) : State :=
  let d := dieOfTile c
  let row := s.physRow d (c / 64 % 18)
  ((s.modTile c fun T => { T with lag := true }).event srcMgmt 0x0203 (natLe 2 c ++ natLe 1 d ++ natLe 1 row)).flog 2 (natLe 1 d ++ natLe 1 row)
/-- LAG_SAMPLE. -/
def State.lagSample (s : State) : State :=
  let min' := let m := s.fld .lagCfg 16 8; if m == 0 then 8 else m
  let count := let n := s.fld .lagCfg 24 4; if n == 0 then 3 else n
  let adv (c : Nat) : Nat := ((s.tile c).progress - (s.tile c).lagPrev).toNat
  let tiles := (List.range 2304).map fun c => (c, s.groupOf c, adv c)
  let med := (List.range 64).map fun g => median2 ((tiles.filter fun x => x.2.1 == g).map fun x => x.2.2)
  tiles.foldl (fun (s : State) (x : Nat × Nat × Nat) =>
    let m := med.getD x.2.1 0
    let T := s.tile x.1
    let n := if m < 2 * min' then T.lagCount else if 4 * x.2.2 < m then T.lagCount + 1 else 0
    if T.progress == T.lagPrev && n == T.lagCount then s
    else
      let s := s.setTile x.1 { T with lagPrev := T.progress, lagCount := n }
      if n ≥ count && !T.lag then s.lagMark x.1 else s) s

/-! ### Stacks (R275, R281-R283, R341) -/

/-- Some of the n 4 KiB granules from base lie in stack st (R271): 31 granules in a row hold a whole aligned group of
16, which meets every stack of its region, so no more need be looked at. -/
def State.ringIn (s : State) (base n st : Nat) : Bool :=
  (List.range (min n 31)).any fun k => (s.resolve (base + 4096 * k)).any fun x => x.1 == st
/-- Stack st holds a ring of an open promised queue, part of a spill region, or the journal. -/
def State.stackPromised (s : State) (st : Nat) : Bool :=
  ((List.range 16384).any fun q => s.qOpen q && s.qPromised q && s.qKind q != 3 &&
      s.ringIn (s.q .quRing 0 48 q) (s.qSize q / 4096) st) ||
    ((List.range 2).any fun p => s.spillSize p > 0) || (st < 2 && s.journalOk)
/-- The stack trips (R283). -/
def State.stackTrip (s : State) (st t : Nat) : State :=
  let s := (s.setFld .stStatus 0 2 3 st).event (srcDie st) 0x0605 (natLe 1 t)
  if s.stackPromised st then s.promiseVoid 2 st else s
/-- STACK_TEMP_SAMPLE: from the end of AVS on (R494). -/
def State.stackTemp (s : State) (st t logic : Nat) : State :=
  if !s.stackSampled st then s
  else
  let s := s.sampleDram { dram := [(st, (t, logic))] }
  let state := s.fld .stStatus 0 2 st
  if !s.on || state ≥ 2 then s
  else
    let old := s.fld .stStatus 15 3 st
    let held (k th : Nat) : Bool := t ≥ th || (old ≥ k && t + 3 > th)
    let n := if held 3 99 then 3 else if held 2 97 then 2 else if held 1 95 then 1 else 0
    let wasCap := s.fld .stStatus 18 1 st == 1
    let cap := t ≥ 100 || (wasCap && t > 97)
    let refresh := if t > 85 then 1 else if t ≤ 82 then 0 else s.fld .stStatus 14 1 st
    let s := ((s.setFld .stStatus 15 3 n st).setFld .stStatus 18 1 cap.toNat st).setFld .stStatus 14 1 refresh st
    let s := ((List.range 4).filter fun k => old < k && k ≤ n).foldl (fun (s : State) k => s.event (srcDie st) 0x0603 (natLe 1 t ++ natLe 1 k)) s
    let s := if cap && !wasCap then s.event (srcDie st) 0x0604 (natLe 1 t) else s
    if t ≥ 105 then s.stackTrip st t else s
/-- Symbols of granules of stack st go bad; a granule beyond the DRAM is none. -/
def State.strikes (s : State) (st : Nat) (bad : List (Nat × List (Fin 68 × Byte))) : State :=
  bad.foldl (fun s x => if x.1 < 3 * 2 ^ 29 then s.strike (st * 2 ^ 31 + x.1) x.2 else s) s
/-- PATROL_SCRUB: one pass over a stack, which finds what has gone bad; `later` goes bad behind the pass. A granule in a band no region
takes has no device address: that value is free. -/
def State.scrubPass (s : State) (st : Nat) (bad later : List (Nat × List (Fin 68 × Byte))) : State :=
  if s.fld .stStatus 0 2 st ≥ 2 then s
  else
    let s := s.strikes st bad
    let gs := sortNat ((s.poison ++ s.upset.map (·.1)).filter fun g => st * 2 ^ 31 ≤ g && g < (st + 1) * 2 ^ 31)
    let s := gs.foldl (fun (s : State) g =>
      let loc := (g - st * 2 ^ 31) * 64
      let (s, a) : State × Nat := match s.devAddr st loc with
        | some a => (s, a)
        | none => let (s, v) := s.freeNext; (s, v.toNat % 2 ^ 48)
      (s.checked (.baseDie (Fin.ofNat 16 st)) a st loc).1) s
    (s.addFld .stScrubDone 0 32 1 st).strikes st later

/-! ### Pins and I3C -/

/-- ONFI_WP_N of a channel is high only while a flush writes it, from step 5 of R384 on (R485). -/
def State.onfiWpN (s : State) (c : Fin 2) : Bool := s.flush.isSome && s.onfi.contains c && s.flushAt + 30000 ≤ s.uptime
/-- The target's static address (R471). -/
def i3cStatic : BitVec 7 := 0x3A
/-- The target takes a dynamic address when it has none (log entry 100). -/
def State.dynAddr (s : State) (a : BitVec 7) : State := if s.pwrgood && s.i3cAddr.isNone then { s with i3cAddr := some a } else s
/-- SETDASA names the target by its static address (R471); between an HDR entry and exit the bus is not listened to (R487). -/
def State.setdasa (s : State) (x : I3cAssign) : State := if x.hdr || x.static != i3cStatic then s else s.dynAddr x.dyn

/-! ### Test access (R488-R490) -/

/-- What Capture-IR reads. -/
def State.irCapture (s : State) : BitVec 8 := if s.jtagX then 5 else 1
/-- Select an instruction that leaves the pins alone. -/
def State.jtagFree (s : State) (ir : BitVec 8) (refused : Bool) : State := ({ s with jtagIr := ir, jtagX := refused, jtagPins := false }).startGo
/-- EXTEST, CLAMP, HIGHZ, EXTEST_PULSE and EXTEST_TRAIN (R489). -/
def State.jtagPin (s : State) (ir : BitVec 8) : State :=
  if !s.resetN && s.flush.isNone then { s with jtagIr := ir, jtagX := false, jtagPins := true } else s.jtagFree 0xFF true
/-- The boundary-scan register, 675 cells. -/
def scanCells (l : List Bool) : List Bool := let t := l.take 675; t ++ List.replicate (675 - t.length) false
/-- The data register the current instruction selects, as Capture-DR loads it: IDCODE, the boundary cells with what stands outside, the
same with the lanes' test receivers, of which those of a twin lane without a powered partner read a fault (R490), or one bit. -/
def State.drCapture (s : State) : List Bool :=
  if s.jtagIr == 1 then (List.range 32).map Config.idcode.getLsbD
  else if s.jtagIr == 2 || s.jtagIr == 3 then scanCells s.outside.pins
  else if s.jtagIr == 6 || s.jtagIr == 7 then (List.range 675).map fun k =>
    if Config.scanTwin k && !s.outside.partner then Config.scanFault k else s.outside.lanes.getD k false
  else [false]
/-- t is what loading an instruction makes of s: the bits Capture-IR read leave on TDO, then those of the data register (log entry 130). -/
def State.scanned (s t : State) : State := { t with tdo := (List.range 8).map s.irCapture.getLsbD ++ t.drCapture }
/-- SAMPLE/PRELOAD: the cells capture what stands outside and take what is shifted in. -/
def State.samplePreload (s : State) (x : BoundaryScan) : State :=
  { s with cells := scanCells x.shift, outside := x.outside }.jtagFree 2 false
/-- A code loaded: one of R488, or BYPASS. -/
def State.jtagCode (s : State) (code : BitVec 8) : State :=
  let c := code.toNat
  if c == 1 || c == 2 then s.jtagFree code false else if 3 ≤ c && c ≤ 7 then s.jtagPin code else s.jtagFree 0xFF false

/-! ### The low-speed pins (R481) -/

/-- What a pin shows. -/
inductive Level where
  | low | high
  /-- released, or high impedance -/
  | z
  deriving DecidableEq, Repr
/-- The pins that Ryrax drives. -/
inductive Pin where
  | ready | faultN | thermtripN | pmbScl | pmbSda | avsClk (b : Fin 2) | avsMdata (b : Fin 2) | i3cSda | xspiCsN (k : Fin 2) | xspiRstN | xspiClk
  | xspiDq (n : Fin 8) | onfiCeN (c k : Fin 2) | onfiWpN (c : Fin 2)
  /-- any other ONFI output, and a DQ or DQS of a channel -/
  | onfiOut (c : Fin 2) | onfiDq (c : Fin 2)
  | tdo
  deriving DecidableEq, Repr
/-- A number for each pin, by which its cells are found. -/
def Pin.num : Pin → Nat
  | .ready => 0 | .faultN => 1 | .thermtripN => 2 | .pmbScl => 3 | .pmbSda => 4 | .avsClk b => 5 + b | .avsMdata b => 7 + b | .i3cSda => 9
  | .xspiCsN k => 10 + k | .xspiRstN => 12 | .xspiClk => 13 | .xspiDq n => 14 + n | .onfiCeN c k => 22 + 2 * c + k | .onfiWpN c => 26 + c
  | .onfiOut c => 28 + c | .onfiDq c => 30 + c | .tdo => 32
/-- The In reset column of R481. -/
def Pin.idle : Pin → Level
  | .ready | .avsClk _ | .avsMdata _ | .xspiRstN | .xspiClk | .onfiWpN _ | .onfiOut _ => .low
  | .xspiCsN _ | .onfiCeN _ _ => .high
  | .faultN | .thermtripN | .pmbScl | .pmbSda | .i3cSda | .xspiDq _ | .onfiDq _ | .tdo => .z
def levelOf (b : Bool) : Level := if b then .high else .low
/-- The device is in reset, or waits in it for its first start (R481). -/
def State.pinsIdle (s : State) : Bool := !s.pwrgood || (!s.resetN && s.flush.isNone) || (!s.xspiUp && s.flush.isNone)
/-- What a pin's function shows; none while its level is that of a transfer on its bus. -/
def State.pinFn (s : State) (p : Pin) : Option Level :=
  match p with
  | .ready => some (levelOf s.ready)
  | .faultN => some (if s.faultN then .z else .low)
  | .thermtripN => some (if s.thermN then .z else .low)
  | .xspiRstN => some (levelOf (s.pwrgood && s.xspiUp))
  | .onfiWpN c => some (levelOf (s.onfiWpN c))
  | .onfiCeN c _ => if s.pinsIdle || !s.onfiWpN c then some .high else none
  | .tdo => some .z
  | p => if s.pinsIdle then some p.idle else none
/-- What a pin shows: its function, or under an instruction that controls pins high impedance or what the cells make it drive (R488, R489). -/
def State.pin (s : State) (p : Pin) : Option Level :=
  if s.jtagPins && p != .tdo then
    some (if s.jtagIr == 5 then .z else match Config.scanDrive p.num s.cells with
      | some b => levelOf b
      | none => .z)
  else s.pinFn p

end Sys2Proof.Machine
end

