-- ==== Sys2Proof/Machine/Rows.lean ====
section
/-! DEFINITION. What the meanings of the commands share: which units run now, and what a command sets going in others. -/

namespace Sys2Proof.Machine

/-- What a command answers. -/
abbrev Out := Host.Outcome State Fault Refusal

/-- What no command changes but a loss of power and the lock of the root PLL: the commands that wait, the uptime counter and what
it counts from (R469), and mask ROM (R422). -/
def State.during (s t : State) : State :=
  { t with pending := s.pending, uptime := s.uptime, pllLocked := s.pllLocked, pwrgood := s.pwrgood, rom := s.rom }
/-- An event of a unit that runs only while its power, clocks and resets let it (R407, R408). -/
def State.live (s : State) (f : State → State) : State := if s.on then f s else s
/-- The same for an event that may let waiting packets go on, or write registers of other units. -/
def State.busy (s : State) (f : State → State) : State := if s.on then (f s).pump.settle else s
/-- An event of tile t. -/
def State.tileRow (s : State) (t : TileId) (f : Tile → Tile × List TileOut) : State := s.live fun s => s.onTile (tileCode t) f
/-- A message over the twin link: it comes only while a half is up (R347, R348). -/
def State.twinRow (s : State) (f : State → State) : State := if s.twinOn && s.halvesUp != 0 && !s.fatal then s.busy f else s
/-- An event of a unit that does not run in diagnostic mode (R429). -/
def State.chip (s : State) (f : State → State) : State := s.live fun s => if s.diag then s else f s
/-- What a queue manager judges and accepts: nothing after a fatal error (R460). -/
def State.judges (s : State) (f : State → State) : State := s.busy fun s => if s.fatal then s else f s

/-- What happens when no command waits: the clock, and the end of a warm start that is due. -/
def State.idle (s : State) : State := s.tick.startDue

/-- SCAN_COMPLETE (R165). -/
def scanCompleteOp (T : Tile) : Tile :=
  match T.scanBusy with
  | some n => ({ T with scanBusy := none } : Tile).incToken n 1
  | none => T
/-- STREAM_RESPONSE: the response to a request, or a record by multicast (R166, R183). -/
def streamResponseOp (T : Tile) (id : Nat) : Tile :=
  match T.mcIn.find? fun (m : McRec) => m.id == id with
  | some m =>
    -- what one source sends of a leader generation arrives in the order in which it was sent (R185)
    if (T.mcIn.takeWhile fun x => x.id != id).any fun x => x.src == m.src && x.leader == m.leader && x.lslot == m.lslot && x.lgen == m.lgen
    then T else mcResponseOp T m
  | none =>
    match T.reqs.find? fun (r : StreamReq) => r.id == id with
    | some r =>
      match r.resp with
      | some l => if r.lost || !T.answerTurn r.sent then T else responseOp T r l
      | none => T
    | none => T
/-- STREAM_TIMEOUT: an answer that is on its way is late (R170). -/
def streamTimeoutOp (T : Tile) (id : Nat) : Tile × List TileOut :=
  match T.reqs.find? fun (r : StreamReq) => r.id == id with
  | some r => timeoutOp T r
  | none => (T, [])
/-- ENTDAA: the target sends its 48-bit provisional ID, of which R471 fixes bits [31:16]; the rest is free. -/
def State.entdaa (s : State) (x : I3cAssign) : State :=
  if s.pwrgood && s.i3cAddr.isNone && !x.hdr then
    let (s, v) := s.freeNext
    { s.dynAddr x.dyn with i3cOut := natBe 6 (setBits (bfld v 0 48) 16 16 0x2304) }
  else s

end Sys2Proof.Machine
end

