-- ==== Sys2Proof/Machine/ExecBus.lean ====
section
/-! DEFINITION. The meanings of the commands of accesses and the mesh. -/

namespace Sys2Proof.Machine

/-- REGISTER_WRITE (R6, R9, R11-R14): the write reaches its register under the access codes of its fields. -/
def execRegisterWrite (m : Master) (a : Addr) (data : List Byte) (s : State) : Out :=
  .next (s.during (s.busy fun s => s.memWrite m a.toNat data))
/-- MASTER_ACCESS (R32-R41). -/
def execMasterAccess (acc : Access) (s : State) : Out :=
  .next (s.during (s.busy fun s => s.access acc))
/-- TWIN_WINDOW_ACCESS (R34). -/
def execTwinWindowAccess (m : Master) (a : Addr) (len : Nat) (data : Option (List Byte)) (s : State) : Out :=
  .next (s.during (s.busy fun s => s.twinAccess m a.toNat len data))
/-- GRANULE_READ (R274). -/
def execGranuleRead (m : Master) (a : Addr) (bad : List (Fin 68 × Byte)) (s : State) : Out :=
  .next (s.during (s.chip fun s => s.granuleRow m a.toNat bad))
/-- GRANULE_WRITE (R41, R273). -/
def execGranuleWrite (m : Master) (a : Addr) (data : GranuleStore) (s : State) : Out :=
  .next (s.during (s.chip fun s => s.granulePut m a.toNat data.data data.bad))
/-- MESH_PACKET_RECEIVE (R467): a good packet goes on; transit leaves nothing in the state. -/
def execMeshPacketReceive (site : TileId) (port : Fin 7) (vc : Fin 4) (crcOk : Bool) (pkt : PktRef) (s : State) : Out :=
  .next (s.during (s.chip fun s => if crcOk then s else s.meshBad (tileCode site) port.val vc.val pkt))
/-- OPERATION_RESEND (R493). -/
def execOperationResend (pkt : PktRef) (s : State) : Out :=
  .next (s.during (s.chip fun s => s.opResend pkt))

end Sys2Proof.Machine
end

