-- ==== Sys2Proof/Machine/ExecCloche.lean ====
section
/-! DEFINITION. The meanings of the commands of the Cloche. -/

namespace Sys2Proof.Machine

/-- JOURNAL_ENTRY_COMPLETE (R379). -/
def execJournalEntryComplete (c : BitVec 20) (msn : BitVec 32) (s : State) : Out :=
  .next (s.during (s.judges fun s => s.journalDone c.toNat msn.toNat))
/-- CLOCHE_FLUSH (R384, R385). -/
def execClocheFlush (s : State) : Out :=
  .next (s.during (s.pfail))
/-- FLUSH_COMPLETE (R384-R387). -/
def execFlushComplete (nand : NandDone) (us : BitVec 32) (s : State) : Out :=
  .next (s.during (s.flushed (s.flushDone nand.channels us.toNat nand.bad)))

end Sys2Proof.Machine
end

