-- ==== Sys2Proof/Machine/ExecColl.lean ====
section
/-! DEFINITION. The meanings of the commands of buckets, collectives and the vote. -/

namespace Sys2Proof.Machine

/-- SEGMENT_RECORD (R242). -/
def execSegmentRecord (i : Nat) (s : State) : Out :=
  .next (s.during (s.busy fun s => s.segmentRecord i))
/-- END_MARKER (R242, R243). -/
def execEndMarker (i : Nat) (s : State) : Out :=
  .next (s.during (s.busy fun s => s.endMarker i))
/-- REPORT (R243, R260). A COLLECTIVE packet of an unallocated KIND is taken here and has no effect of its own. -/
def execReport (port : Fin 18) (frame : List Byte) (s : State) : Out :=
  .next (s.during (s.busy fun s => s.frameIn port.val frame (fun p => isColl 1 p || (isOp 0x10 p && oddKind 8 p))))
/-- PARTIAL (R246, R260). -/
def execPartialSeg (port : Fin 18) (frame : List Byte) (s : State) : Out :=
  .next (s.during (s.busy fun s => s.frameIn port.val frame (isColl 2)))
/-- RESULT (R246, R260). -/
def execResult (port : Fin 18) (frame : List Byte) (s : State) : Out :=
  .next (s.during (s.busy fun s => s.frameIn port.val frame (isColl 3)))
/-- VOTE (R251). -/
def execVote (port : Fin 18) (frame : List Byte) (s : State) : Out :=
  .next (s.during (s.busy fun s => s.frameIn port.val frame (isColl 4)))
/-- COUNTS (R260). -/
def execCounts (port : Fin 18) (frame : List Byte) (s : State) : Out :=
  .next (s.during (s.busy fun s => s.frameIn port.val frame (isColl 5)))
/-- DATA (R260). -/
def execData (port : Fin 18) (frame : List Byte) (s : State) : Out :=
  .next (s.during (s.busy fun s => s.frameIn port.val frame (isColl 6)))
/-- SHARDSUM (R258). -/
def execShardsum (port : Fin 18) (frame : List Byte) (s : State) : Out :=
  .next (s.during (s.busy fun s => s.frameIn port.val frame (isColl 7)))
/-- LIVE (R362). -/
def execLive (port : Fin 18) (frame : List Byte) (s : State) : Out :=
  .next (s.during (s.busy fun s => s.frameIn port.val frame (isColl 8)))
/-- VOTE_CAST (R251). -/
def execVoteCast (job : Fin 16) (s : State) : Out :=
  .next (s.during (s.busy fun s => s.voteCast job.val))
/-- VOTE_TIMEOUT (R254). -/
def execVoteTimeout (job : Fin 16) (s : State) : Out :=
  .next (s.during (s.busy fun s => s.voteTimeout job.val))
/-- ARRIVALS_TIMEOUT (R255). -/
def execArrivalsTimeout (q : Fin 16384) (s : State) : Out :=
  .next (s.during (s.busy fun s => s.arrivalsTimeout q.val))
/-- SEGMENT_TIMEOUT (R255). -/
def execSegmentTimeout (job : Fin 16) (s : State) : Out :=
  .next (s.during (s.busy fun s => s.segmentTimeout job.val))
/-- BUCKET_RELEASE (R247-R249). -/
def execBucketRelease (job : Fin 16) (b : Fin 256) (s : State) : Out :=
  .next (s.during (s.busy fun s => s.bucketRelease job.val b.val))

end Sys2Proof.Machine
end

