-- ==== Sys2Proof/Machine/ExecEmb.lean ====
section
/-! DEFINITION. The meanings of the commands of the embedding engines. -/

namespace Sys2Proof.Machine

/-- LOOKUP_REQUEST (R191-R202, R224). -/
def execLookupRequest (t : TileId) (id : Nat) (s : State) : Out :=
  .next (s.during (s.live fun s => s.lookupOp (tileCode t) id))
/-- PUSH_RECORD (R204-R208). -/
def execPushRecord (i : Nat) (s : State) : Out :=
  .next (s.during (s.live fun s => s.pushRecord i))
/-- MIG_MOVE: the 64-bit write of R223. -/
def execMigMove (m : Master) (die : Fin 16) (table : BitVec 16) (index : BitVec 40) (target : Fin 16) (s : State) : Out :=
  .next (s.during (s.busy fun s => s.memWrite m (RegKind.emReq.at die.val) (natLe 8 (table.toNat + index.toNat * 2 ^ 16 + target.val * 2 ^ 56 + 1 * 2 ^ 60))))
/-- MIG_PIN (R223, R227). -/
def execMigPin (m : Master) (die : Fin 16) (table : BitVec 16) (index : BitVec 40) (s : State) : Out :=
  .next (s.during (s.busy fun s => s.memWrite m (RegKind.emReq.at die.val) (natLe 8 (table.toNat + index.toNat * 2 ^ 16 + 2 * 2 ^ 60))))
/-- MIG_UNPIN (R223, R227). -/
def execMigUnpin (m : Master) (die : Fin 16) (table : BitVec 16) (index : BitVec 40) (s : State) : Out :=
  .next (s.during (s.busy fun s => s.memWrite m (RegKind.emReq.at die.val) (natLe 8 (table.toNat + index.toNat * 2 ^ 16 + 3 * 2 ^ 60))))
/-- MIG_RETURN (R223, R225). -/
def execMigReturn (m : Master) (die : Fin 16) (table : BitVec 16) (index : BitVec 40) (s : State) : Out :=
  .next (s.during (s.busy fun s => s.memWrite m (RegKind.emReq.at die.val) (natLe 8 (table.toNat + index.toNat * 2 ^ 16 + 4 * 2 ^ 60))))
/-- MIG_STATUS_ANSWER (R223). -/
def execMigStatusAnswer (die : Fin 16) (s : State) : Out :=
  .next (s.during (s.live fun s => s.migAnswer die.val))

end Sys2Proof.Machine
end

