-- ==== Sys2Proof/Machine/ExecEngine.lean ====
section
/-! DEFINITION. The meanings of the commands of the matrix and vector engines. -/

namespace Sys2Proof.Machine

/-- MWLD issues: its operands are latched and it joins the matrix queue (R124, R129, R136). -/
def execMwld (t : TileId) (busy : BitVec 8) (s : State) : Out :=
  .next (s.during (s.tileRow t (tileIssue .mwld matIssue busy)))
/-- MMA issues: its operands are latched and it joins the matrix queue (R124, R129, R137). -/
def execMma (t : TileId) (busy : BitVec 8) (s : State) : Out :=
  .next (s.during (s.tileRow t (tileIssue .mma matIssue busy)))
/-- MBWD issues: its operands are latched and it joins the matrix queue (R124, R129, R139). -/
def execMbwd (t : TileId) (busy : BitVec 8) (s : State) : Out :=
  .next (s.during (s.tileRow t (tileIssue .mbwd matIssue busy)))
/-- MORTH issues: its operands are latched and it joins the matrix queue (R124, R129, R140). -/
def execMorth (t : TileId) (busy : BitVec 8) (s : State) : Out :=
  .next (s.during (s.tileRow t (tileIssue .morth matIssue busy)))
/-- MATRIX_START (R129-R132). -/
def execMatrixStart (t : TileId) (loadPath : Bool) (s : State) : Out :=
  .next (s.during (s.tileRow t fun T => (matStart T loadPath, [])))
/-- MATRIX_COMPLETE (R132, R136-R140). -/
def execMatrixComplete (t : TileId) (loadPath : Bool) (s : State) : Out :=
  .next (s.during (s.tileRow t fun T => (matComplete T loadPath, [])))
/-- VADD issues: its operands are latched and it joins the vector queue (R124, R129, R144). -/
def execVadd (t : TileId) (busy : BitVec 8) (s : State) : Out :=
  .next (s.during (s.tileRow t (tileIssue .vadd vecIssue busy)))
/-- VMUL issues: its operands are latched and it joins the vector queue (R124, R129, R144). -/
def execVmul (t : TileId) (busy : BitVec 8) (s : State) : Out :=
  .next (s.during (s.tileRow t (tileIssue .vmul vecIssue busy)))
/-- VFMA issues: its operands are latched and it joins the vector queue (R124, R129, R144). -/
def execVfma (t : TileId) (busy : BitVec 8) (s : State) : Out :=
  .next (s.during (s.tileRow t (tileIssue .vfma vecIssue busy)))
/-- VCMP issues: its operands are latched and it joins the vector queue (R124, R129, R146). -/
def execVcmp (t : TileId) (busy : BitVec 8) (s : State) : Out :=
  .next (s.during (s.tileRow t (tileIssue .vcmp vecIssue busy)))
/-- VSEL issues: its operands are latched and it joins the vector queue (R124, R129, R146). -/
def execVsel (t : TileId) (busy : BitVec 8) (s : State) : Out :=
  .next (s.during (s.tileRow t (tileIssue .vsel vecIssue busy)))
/-- VMINMAX issues: its operands are latched and it joins the vector queue (R124, R129, R146). -/
def execVminmax (t : TileId) (busy : BitVec 8) (s : State) : Out :=
  .next (s.during (s.tileRow t (tileIssue .vminmax vecIssue busy)))
/-- VRED issues: its operands are latched and it joins the vector queue (R124, R129, R147). -/
def execVred (t : TileId) (busy : BitVec 8) (s : State) : Out :=
  .next (s.during (s.tileRow t (tileIssue .vred vecIssue busy)))
/-- VMOV issues: its operands are latched and it joins the vector queue (R124, R129, R146). -/
def execVmov (t : TileId) (busy : BitVec 8) (s : State) : Out :=
  .next (s.during (s.tileRow t (tileIssue .vmov vecIssue busy)))
/-- VSIEVE issues: its operands are latched and it joins the vector queue (R124, R129, R149). -/
def execVsieve (t : TileId) (busy : BitVec 8) (s : State) : Out :=
  .next (s.during (s.tileRow t (tileIssue .vsieve vecIssue busy)))
/-- VEXPAND issues: its operands are latched and it joins the vector queue (R124, R129, R150). -/
def execVexpand (t : TileId) (busy : BitVec 8) (s : State) : Out :=
  .next (s.during (s.tileRow t (tileIssue .vexpand vecIssue busy)))
/-- VUPD issues: its operands are latched and it joins the vector queue (R124, R129, R148). -/
def execVupd (t : TileId) (busy : BitVec 8) (s : State) : Out :=
  .next (s.during (s.tileRow t (tileIssue .vupd vecIssue busy)))
/-- CVT issues: its operands are latched and it joins the vector queue (R124, R129, R151). -/
def execCvt (t : TileId) (busy : BitVec 8) (s : State) : Out :=
  .next (s.during (s.tileRow t (tileIssue .cvt vecIssue busy)))
/-- CVTQ issues: its operands are latched and it joins the vector queue (R124, R129, R154). -/
def execCvtq (t : TileId) (busy : BitVec 8) (s : State) : Out :=
  .next (s.during (s.tileRow t (tileIssue .cvtq vecIssue busy)))
/-- CVTDQ issues: its operands are latched and it joins the vector queue (R124, R129, R155). -/
def execCvtdq (t : TileId) (busy : BitVec 8) (s : State) : Out :=
  .next (s.during (s.tileRow t (tileIssue .cvtdq vecIssue busy)))
/-- VECTOR_START (R129, R156). -/
def execVectorStart (t : TileId) (s : State) : Out :=
  .next (s.during (s.tileRow t fun T => (vecStart T, [])))
/-- VECTOR_COMPLETE (R132, R143-R155). -/
def execVectorComplete (t : TileId) (i : Nat) (s : State) : Out :=
  .next (s.during (s.tileRow t fun T => (vecComplete T i, [])))

end Sys2Proof.Machine
end

