-- ==== Sys2Proof/Machine/ExecFaolo.lean ====
section
/-! DEFINITION. The meanings of the commands of the ports, the Faolo transport and guard entries. -/

namespace Sys2Proof.Machine

/-- LINK_DOWN (R293). -/
def execLinkDown (fall : LinkFall) (s : State) : Out :=
  .next (s.during (s.live fun s => if s.diag && fall.port.val < 16 then s else s.linkDown fall.port.val fall.fec))
/-- LINK_UP (R291, R293). -/
def execLinkUp (port : Fin 18) (rate : Fin 4) (peer : LinkPeer) (s : State) : Out :=
  .next (s.during (s.live fun s => if s.diag && port.val < 16 then s else s.linkUp port.val rate.val peer.xr peer.fec))
/-- XR_FALLBACK (R292). -/
def execXrFallback (port : Fin 18) (s : State) : Out :=
  .next (s.during (s.live fun s => s.xrFall port.val))
/-- PFC_FRAME (R300). -/
def execPfcFrame (port : Fin 18) (frame : List Byte) (s : State) : Out :=
  .next (s.during (s.live fun s => s.pfcRow port.val frame))
/-- WRITE (R310, R311). -/
def execWrite (port : Fin 18) (frame : List Byte) (s : State) : Out :=
  .next (s.during (s.busy fun s => s.frameIn port.val frame (isOp 1)))
/-- READ (R312, R316). -/
def execRead (port : Fin 18) (frame : List Byte) (s : State) : Out :=
  .next (s.during (s.busy fun s => s.frameIn port.val frame (isOp 2)))
/-- READ_RESP (R312): Ryrax asks no peer for a READ on these contexts, so the data go nowhere. -/
def execReadResp (port : Fin 18) (frame : List Byte) (s : State) : Out :=
  .next (s.during (s.busy fun s => s.frameIn port.val frame (isOp 3)))
/-- FAOLO_SEND (R313, R314, R330). -/
def execFaoloSend (port : Fin 18) (frame : List Byte) (s : State) : Out :=
  .next (s.during (s.busy fun s => s.frameIn port.val frame (isOp 4)))
/-- ACCEPT (R315, R336). -/
def execAccept (port : Fin 18) (frame : List Byte) (s : State) : Out :=
  .next (s.during (s.busy fun s => s.frameIn port.val frame (isOp 5)))
/-- REFUSE (R315, R336). -/
def execRefuse (port : Fin 18) (frame : List Byte) (s : State) : Out :=
  .next (s.during (s.busy fun s => s.frameIn port.val frame (isOp 6)))
/-- ACK (R304, R305). -/
def execAck (port : Fin 18) (frame : List Byte) (s : State) : Out :=
  .next (s.during (s.busy fun s => s.frameIn port.val frame (isOp 7)))
/-- SACK (R304, R305). -/
def execSack (port : Fin 18) (frame : List Byte) (s : State) : Out :=
  .next (s.during (s.busy fun s => s.frameIn port.val frame (isOp 8)))
/-- CREDIT (R306). -/
def execCredit (port : Fin 18) (frame : List Byte) (s : State) : Out :=
  .next (s.during (s.busy fun s => s.frameIn port.val frame (isOp 9)))
/-- SYNC (R302). -/
def execSync (port : Fin 18) (frame : List Byte) (s : State) : Out :=
  .next (s.during (s.busy fun s => s.frameIn port.val frame (isOp 10)))
/-- SYNC_ACK (R302). -/
def execSyncAck (port : Fin 18) (frame : List Byte) (s : State) : Out :=
  .next (s.during (s.busy fun s => s.frameIn port.val frame (isOp 11)))
/-- SYNC_RESEND (R302). -/
def execSyncResend (c : CtxId) (s : State) : Out :=
  .next (s.during (s.live fun s => s.syncResend c.val))
/-- DELAYED_ACK (R304). -/
def execDelayedAck (c : CtxId) (s : State) : Out :=
  .next (s.during (s.live fun s => s.delayedAck c.val))
/-- CREDIT_TIMER (R306). -/
def execCreditTimer (c : CtxId) (s : State) : Out :=
  .next (s.during (s.live fun s => s.creditTimer c.val))
/-- RETRANSMIT_TIMEOUT (R305). -/
def execRetransmitTimeout (c : CtxId) (s : State) : Out :=
  .next (s.during (s.busy fun s => s.rtoFire c.val))
/-- RATE_UPDATE (R308). -/
def execRateUpdate (c : CtxId) (s : State) : Out :=
  .next (s.during (s.live fun s => s.rateUpdate c.val))
/-- PACKET_TRANSMIT (R303-R309, R336). -/
def execPacketTransmit (port : Fin 18) (s : State) : Out :=
  .next (s.during (s.live fun s => s.transmit port.val))
/-- PORT_FAILOVER (R302). -/
def execPortFailover (c : CtxId) (s : State) : Out :=
  .next (s.during (s.live fun s => s.failover c.val))
/-- CONTEXT_FETCH (R302, R459). -/
def execContextFetch (c : CtxRead) (s : State) : Out :=
  .next (s.during (s.live fun s => s.ctxFetch c.ctx.val c.ue))
/-- LOOKUP_REQ (R200, R320). A SPARSE_EXCHANGE packet of an unallocated KIND is taken here and has no effect of its own. -/
def execLookupReq (port : Fin 18) (frame : List Byte) (s : State) : Out :=
  .next (s.during (s.busy fun s => s.frameIn port.val frame (fun p => isSparse 1 p || (isOp 0x11 p && oddKind 7 p))))
/-- LOOKUP_RESP (R161, R320). -/
def execLookupResp (port : Fin 18) (frame : List Byte) (s : State) : Out :=
  .next (s.during (s.busy fun s => s.frameIn port.val frame (isSparse 2)))
/-- GATHER_REQ (R320). -/
def execGatherReq (port : Fin 18) (frame : List Byte) (s : State) : Out :=
  .next (s.during (s.busy fun s => s.frameIn port.val frame (isSparse 3)))
/-- GATHER_RESP (R161, R320). -/
def execGatherResp (port : Fin 18) (frame : List Byte) (s : State) : Out :=
  .next (s.during (s.busy fun s => s.frameIn port.val frame (isSparse 4)))
/-- L1_REPORT (R213, R320, R321). -/
def execL1Report (port : Fin 18) (frame : List Byte) (s : State) : Out :=
  .next (s.during (s.busy fun s => s.frameIn port.val frame (isSparse 5)))
/-- L1_RESULT (R213, R320). -/
def execL1Result (port : Fin 18) (frame : List Byte) (s : State) : Out :=
  .next (s.during (s.busy fun s => s.frameIn port.val frame (isSparse 6)))
/-- L1_END (R321). -/
def execL1End (port : Fin 18) (frame : List Byte) (s : State) : Out :=
  .next (s.during (s.busy fun s => s.frameIn port.val frame (isSparse 7)))
/-- GUARD_ARM (R316): LEN is written as it stands. -/
def execGuardArm (m : Master) (g : Fin 4096) (s : State) : Out :=
  .next (s.during (s.busy fun s => s.memWrite m (RegKind.guCtl.at g.val) (natLe 8 (s.fld .guCtl 0 24 g.val + 2 ^ 26))))
/-- GUARD_COMPLETE (R316, R317). -/
def execGuardComplete (m : Master) (g : Fin 4096) (s : State) : Out :=
  .next (s.during (s.busy fun s => s.memWrite m (RegKind.guCtl.at g.val) (natLe 8 (s.fld .guCtl 0 24 g.val + 2 ^ 27))))
/-- GUARD_RELEASE (R316, R317). -/
def execGuardRelease (m : Master) (g : Fin 4096) (s : State) : Out :=
  .next (s.during (s.busy fun s => s.memWrite m (RegKind.guCtl.at g.val) (natLe 8 (s.fld .guCtl 0 24 g.val + 2 ^ 28))))

end Sys2Proof.Machine
end

