-- ==== Sys2Proof/Machine/ExecJob.lean ====
section
/-! DEFINITION. The meanings of the commands of the commands of a job. -/

namespace Sys2Proof.Machine

/-- SWEEP_UPDATE (R214-R222, R252). -/
def execSweepUpdate (job : Fin 16) (s : State) : Out :=
  .next (s.during (s.busy fun s => s.sweepUpdate job.val))
/-- MASTER_SCRUB (R70). -/
def execMasterScrub (master working : Addr) (inFlight : Bool) (s : State) : Out :=
  .next (s.during (s.busy fun s => s.masterScrub master.toNat working.toNat inFlight))
/-- STEP_START (R236, R237). -/
def execStepStart (q : Fin 16384) (s : State) : Out :=
  .next (s.during (s.busy fun s => s.stepStart q.val))
/-- SWEEP (R209-R213, R238). -/
def execSweep (q : Fin 16384) (s : State) : Out :=
  .next (s.during (s.busy fun s => s.sweepCmd q.val))
/-- COMMIT (R256, R365). -/
def execCommit (q : Fin 16384) (s : State) : Out :=
  .next (s.during (s.busy fun s => s.commitCmd q.val))
/-- FENCE (R233). -/
def execFenceCommand (q : Fin 16384) (s : State) : Out :=
  .next (s.during (s.busy fun s => s.fenceCmd q.val))
/-- COLLECTIVE with OP ALL_GATHER (R259, R260). -/
def execAllGather (q : Fin 16384) (s : State) : Out :=
  .next (s.during (s.busy fun s => s.collCmd q.val 0))
/-- COLLECTIVE with OP ALL_TO_ALL (R259, R260). -/
def execAllToAll (q : Fin 16384) (s : State) : Out :=
  .next (s.during (s.busy fun s => s.collCmd q.val 1))
/-- COLLECTIVE with OP ALL_REDUCE (R259, R260). -/
def execAllReduce (q : Fin 16384) (s : State) : Out :=
  .next (s.during (s.busy fun s => s.collCmd q.val 2))
/-- COLLECTIVE with OP REDUCE_SCATTER (R259, R260). -/
def execReduceScatter (q : Fin 16384) (s : State) : Out :=
  .next (s.during (s.busy fun s => s.collCmd q.val 3))
/-- ARRIVE (R239). -/
def execArrive (m : Master) (job : Fin 16) (s : State) : Out :=
  .next (s.during (s.busy fun s => s.memWrite m (RegKind.jArrive.at job.val) (natLe 4 1)))
/-- LOSS_SCALE_SET (R74): v gives the other fields of the write. -/
def execLossScaleSet (m : Master) (job : Fin 16) (v : BitVec 32) (s : State) : Out :=
  .next (s.during (s.busy fun s => s.memWrite m (RegKind.jLossScale.at job.val) (natLe 4 (v ||| 0x10000#32).toNat)))
/-- JOB_KEY_MULTICAST (R153, R237). -/
def execJobKeyMulticast (t : TileId) (s : State) : Out :=
  .next (s.during (s.live fun s => s.keyArrive (tileCode t)))

end Sys2Proof.Machine
end

