-- ==== Sys2Proof/Machine/ExecLoad.lean ====
section
/-! DEFINITION. The meanings of the commands of program images and the laggard sample. -/

namespace Sys2Proof.Machine

/-- LOAD (R116, R119, R232-R235). -/
def execLoad (q : Fin 16384) (s : State) : Out :=
  .next (s.during (s.busy fun s => s.loadCmd q.val))
/-- CHUNK (R112-R114). -/
def execChunk (t : TileId) (c : Nat) (s : State) : Out :=
  .next (s.during (s.busy fun s => s.chunkOp (tileCode t) c))
/-- SEAL (R115). -/
def execSeal (t : TileId) (s : State) : Out :=
  .next (s.during (s.busy fun s => s.sealOp (tileCode t)))
/-- IMAGE_HASH_DONE (R115). -/
def execImageHashDone (t : TileId) (s : State) : Out :=
  .next (s.during (s.tileRow t fun T => (hashDone T, [])))
/-- LOADER_REPLY (R116). -/
def execLoaderReply (t : TileId) (s : State) : Out :=
  .next (s.during (s.busy fun s => s.loaderReply (tileCode t)))
/-- LOADER_ROUND_TIMEOUT (R116). -/
def execLoaderRoundTimeout (s : State) : Out :=
  .next (s.during (s.busy fun s => s.roundTimeout))
/-- START (R117). -/
def execStart (t : TileId) (s : State) : Out :=
  .next (s.during (s.busy fun s => s.finalOp (tileCode t) 1))
/-- ABANDON (R118). -/
def execAbandon (t : TileId) (s : State) : Out :=
  .next (s.during (s.busy fun s => s.finalOp (tileCode t) 2))
/-- LAG_SAMPLE (R121). -/
def execLagSample (s : State) : Out :=
  .next (s.during (s.live fun s => if s.ready then s.lagSample else s))

end Sys2Proof.Machine
end

