-- ==== Sys2Proof/Machine/ExecMgmt.lean ====
section
/-! DEFINITION. The meanings of the commands of flash, attestation, events, I3C and test access. -/

namespace Sys2Proof.Machine

/-- FLASH_ERASE (R434). LEN is written as it stands. -/
def execFlashErase (m : Master) (s : State) : Out :=
  .next (s.during (s.busy fun s => s.memWrite m RegKind.flCtl.at (natLe 4 (s.fld .flCtl 0 25 + 1 * 2 ^ 25 + 2 ^ 27))))
/-- FLASH_PROGRAM (R434). LEN is written as it stands. -/
def execFlashProgram (m : Master) (s : State) : Out :=
  .next (s.during (s.busy fun s => s.memWrite m RegKind.flCtl.at (natLe 4 (s.fld .flCtl 0 25 + 2 * 2 ^ 25 + 2 ^ 27))))
/-- FLASH_READ (R434). LEN is written as it stands. -/
def execFlashRead (m : Master) (s : State) : Out :=
  .next (s.during (s.busy fun s => s.memWrite m RegKind.flCtl.at (natLe 4 (s.fld .flCtl 0 25 + 3 * 2 ^ 25 + 2 ^ 27))))
/-- FLASH_DONE (R434). -/
def execFlashDone (how : FlashEnd) (s : State) : Out :=
  .next (s.during (s.busy fun s => s.flashDone how))
/-- ATTEST_REQUEST (R453). -/
def execAttestRequest (m : Master) (s : State) : Out :=
  .next (s.during (s.busy fun s => s.memWrite m RegKind.attCtl.at (natLe 4 1)))
/-- ATTEST_DONE (R453-R456). -/
def execAttestDone (s : State) : Out :=
  .next (s.during (s.busy fun s => s.attDone))
/-- FIELD_LOG_APPEND (R450). -/
def execFieldLogAppend (s : State) : Out :=
  .next (s.during (s.live fun s => s.flogAppend))
/-- EVENT_RECORD (R465, R466, R468, R472). -/
def execEventRecord (src : BitVec 16) (s : State) : Out :=
  .next (s.during (s.live fun s => s.eventRecord src.toNat))
/-- EVENT_HEAD_WRITE (R465). -/
def execEventHeadWrite (m : Master) (v : BitVec 32) (s : State) : Out :=
  .next (s.during (s.busy fun s => s.memWrite m RegKind.evHead.at (natLe 4 v.toNat)))
/-- FLAG_SCAN (R470): v gives RECT and CLEAR. -/
def execFlagScan (m : Master) (v : BitVec 64) (s : State) : Out :=
  .next (s.during (s.busy fun s => s.memWrite m RegKind.evScan.at (natLe 8 (v ||| 0x2000000#64).toNat)))
/-- FLAG_SCAN_DONE (R470). -/
def execFlagScanDone (s : State) : Out :=
  .next (s.during (s.live fun s => s.scanDone))
/-- IBI_TIMER (R472). -/
def execIbiTimer (s : State) : Out :=
  .next (s.during (s.ibiTimer))
/-- I3C_PRIVATE_WRITE (R471). -/
def execI3cPrivateWrite (xfer : I3cWrite) (s : State) : Out :=
  .next (s.during (s.i3cWrite xfer))
/-- I3C_PRIVATE_READ (R471). -/
def execI3cPrivateRead (xfer : I3cRead) (s : State) : Out :=
  .next (s.during (s.i3cRead xfer))
/-- SETDASA (R471). -/
def execSetdasa (asg : I3cAssign) (s : State) : Out :=
  .next (s.during (s.setdasa asg))
/-- ENTDAA (R471). -/
def execEntdaa (asg : I3cAssign) (s : State) : Out :=
  .next (s.during (s.entdaa asg))
/-- IDCODE (R488). -/
def execIdcode (s : State) : Out :=
  .next (s.during (s.scanned (s.jtagFree 1 false)))
/-- SAMPLE/PRELOAD (R488). -/
def execSamplePreload (scan : BoundaryScan) (s : State) : Out :=
  .next (s.during (s.scanned (s.samplePreload scan)))
/-- EXTEST (R488, R489). -/
def execExtest (s : State) : Out :=
  .next (s.during (s.scanned (s.jtagPin 3)))
/-- CLAMP (R488, R489). -/
def execClamp (s : State) : Out :=
  .next (s.during (s.scanned (s.jtagPin 4)))
/-- HIGHZ (R488, R489). -/
def execHighz (s : State) : Out :=
  .next (s.during (s.scanned (s.jtagPin 5)))
/-- EXTEST_PULSE (R489, R490). -/
def execExtestPulse (s : State) : Out :=
  .next (s.during (s.scanned (s.jtagPin 6)))
/-- EXTEST_TRAIN (R489, R490). -/
def execExtestTrain (s : State) : Out :=
  .next (s.during (s.scanned (s.jtagPin 7)))
/-- BYPASS and every other code loaded (R488). -/
def execBypass (code : BitVec 8) (s : State) : Out :=
  .next (s.during (s.scanned (s.jtagCode code)))
/-- TAP_RESET (R489). -/
def execTapReset (s : State) : Out :=
  .next (s.during (s.jtagFree 1 false))

end Sys2Proof.Machine
end

