-- ==== Sys2Proof/Machine/ExecPower.lean ====
section
/-! DEFINITION. The meanings of the commands of power, clocks, resets, starts and fatal errors. -/

namespace Sys2Proof.Machine

/-- POWER_ON_RESET (R407). -/
def execPowerOnReset (s : State) : Out :=
  .next (s.powerOff)
/-- ROOT_PLL_LOCK (R398, R469). -/
def execRootPllLock (s : State) : Out :=
  .next (s.pllLock)
/-- COLD_RESET (R407-R410). -/
def execColdReset (s : State) : Out :=
  .next (s.during (s.coldResetOp))
/-- WARM_RESET (R408). -/
def execWarmReset (s : State) : Out :=
  .next (s.during (s.warmResetOp))
/-- COLD_START (R426-R428). -/
def execColdStart (env : StartEnv) (s : State) : Out :=
  .next (s.during (s.coldStart env))
/-- WARM_START (R430, R431). -/
def execWarmStart (env : StartEnv) (s : State) : Out :=
  .next (s.during (s.warmStart env))
/-- AVS_COMPLETE (R395). -/
def execAvsComplete (r : Fin 25) (how : AvsEnd) (s : State) : Out :=
  .next (s.during (s.live fun s => s.avsDone r.val how))
/-- VOLTAGE_LOWER (R395). -/
def execVoltageLower (r : Fin 25) (done : Bool) (s : State) : Out :=
  .next (s.during (s.live fun s => s.voltLower r.val done))
/-- THERMAL_TICK (R403, R404). -/
def execThermalTick (temps : Readings) (s : State) : Out :=
  .next (s.during (if s.samples then s.thermTick temps else s))
/-- POWER_TICK (R405). -/
def execPowerTick (rd : Readings) (s : State) : Out :=
  .next (s.during (if s.samples then s.powTick rd else s))
/-- THERM_TRIP (R406). -/
def execThermTrip (die : Fin 22) (celsius : BitVec 8) (s : State) : Out :=
  .next (s.during (s.flushed (s.trip die.val celsius.toNat)))
/-- PLL_UNLOCK (R460). -/
def execPllUnlock (s : State) : Out :=
  .next (s.during (s.flushed (s.fatalStop 0x0F02 [])))
/-- MGMT_MEM_UE (R460). -/
def execMgmtMemUe (offset : BitVec 32) (s : State) : Out :=
  .next (s.during (s.flushed (s.fatalStop 0x0F03 (natLe 4 offset.toNat))))
/-- WATCHDOG (R460). -/
def execWatchdog (s : State) : Out :=
  .next (s.during (s.watchdogOp))

end Sys2Proof.Machine
end

