-- ==== Sys2Proof/Machine/ExecQueue.lean ====
section
/-! DEFINITION. The meanings of the commands of queues and egress. -/

namespace Sys2Proof.Machine

/-- ITEM_ACCEPT (R331, R358). -/
def execItemAccept (c : BitVec 20) (msn : BitVec 32) (s : State) : Out :=
  .next (s.during (s.judges fun s => s.itemAccept c.toNat msn.toNat))
/-- ITEM_DELIVER (R324, R325, R332, R333, R459). -/
def execItemDeliver (p : DieDelivery) (s : State) : Out :=
  .next (s.during (s.busy fun s => s.itemDeliver p.die.val p.ue))
/-- EGRESS_TRANSFER (R335, R336). -/
def execEgressTransfer (c : BitVec 20) (msn : BitVec 32) (s : State) : Out :=
  .next (s.during (s.busy fun s => s.egressTransfer c.toNat msn.toNat))
/-- QUEUE_HEAD_WRITE (R326). -/
def execQueueHeadWrite (m : Master) (q : Fin 16384) (v : BitVec 32) (s : State) : Out :=
  .next (s.during (s.busy fun s => s.memWrite m (RegKind.quHead.at (q.val / 8192) (q.val % 8192)) (natLe 4 v.toNat)))

end Sys2Proof.Machine
end

