-- ==== Sys2Proof/Machine/ExecStack.lean ====
section
/-! DEFINITION. The meanings of the commands of the memory stacks. -/

namespace Sys2Proof.Machine

/-- PATROL_SCRUB (R275). -/
def execPatrolScrub (st : Fin 16) (finds : ScrubFinds) (s : State) : Out :=
  .next (s.during (s.chip fun s => s.scrubPass st.val finds.bad finds.later))
/-- STACK_TEMP_SAMPLE (R281-R283). -/
def execStackTempSample (st : Fin 16) (dram logic : BitVec 8) (s : State) : Out :=
  .next (s.during (if s.samples then s.stackTemp st.val dram.toNat logic.toNat else s))

end Sys2Proof.Machine
end

