-- ==== Sys2Proof/Machine/ExecStream.lean ====
section
/-! DEFINITION. The meanings of the commands of streams and multicast. -/

namespace Sys2Proof.Machine

/-- SARM (R162-R164, R174). -/
def execSarm (t : TileId) (busy : BitVec 8) (s : State) : Out :=
  .next (s.during (s.tileRow t (tileIssue .sarm sarmIssue busy)))
/-- SREL (R167). -/
def execSrel (t : TileId) (busy : BitVec 8) (s : State) : Out :=
  .next (s.during (s.tileRow t (tileIssue .srel srelIssue busy)))
/-- SCAN (R165, R178). -/
def execScan (t : TileId) (busy : BitVec 8) (s : State) : Out :=
  .next (s.during (s.tileRow t (tileIssue .scan scanIssue busy)))
/-- SCAN_COMPLETE (R165). -/
def execScanComplete (t : TileId) (s : State) : Out :=
  .next (s.during (s.tileRow t fun T => (scanCompleteOp T, [])))
/-- SSTAT (R163). -/
def execSstat (t : TileId) (busy : BitVec 8) (s : State) : Out :=
  .next (s.during (s.tileRow t (tileIssue .sstat sstatIssue busy)))
/-- STREAM_REQUEST (R166, R169, R187). -/
def execStreamRequest (t : TileId) (q : Fin 32) (s : State) : Out :=
  .next (s.during (s.tileRow t fun T => (requestOp T q.val, [])))
/-- STREAM_RESPONSE (R166, R168). -/
def execStreamResponse (t : TileId) (id : Nat) (s : State) : Out :=
  .next (s.during (s.tileRow t fun T => (streamResponseOp T id, [])))
/-- STREAM_SEND (R167, R168, R203, R241). -/
def execStreamSend (t : TileId) (q : Fin 32) (s : State) : Out :=
  .next (s.during (s.live fun s => s.streamSend (tileCode t) q.val))
/-- STREAM_ACK (R168, R184, R495). -/
def execStreamAck (t : TileId) (q : Fin 32) (s : State) : Out :=
  .next (s.during (s.tileRow t fun T => (ackOp T q.val, [])))
/-- STREAM_TIMEOUT (R170). -/
def execStreamTimeout (t : TileId) (id : Nat) (s : State) : Out :=
  .next (s.during (s.tileRow t fun T => streamTimeoutOp T id))
/-- SHADOW_TAKE_EFFECT (R174). -/
def execShadowTakeEffect (t : TileId) (q : Fin 32) (s : State) : Out :=
  .next (s.during (s.tileRow t fun T => (shadowOp T q.val, [])))
/-- CHAIN_ACTIVATE (R177). -/
def execChainActivate (t : TileId) (q : Fin 32) (s : State) : Out :=
  .next (s.during (s.tileRow t fun T => (chainOp T q.val, [])))
/-- ARM_CREDIT (R183, R184). -/
def execArmCredit (t : TileId) (q : Fin 32) (s : State) : Out :=
  .next (s.during (s.live fun s => s.armCredit (tileCode t) q.val))
/-- ARM_CREDIT_RESEND (R184). -/
def execArmCreditResend (t : TileId) (q : Fin 32) (s : State) : Out :=
  .next (s.during (s.live fun s => s.armCreditResend (tileCode t) q.val))
/-- RELEASE_CREDIT (R184). -/
def execReleaseCredit (t : TileId) (q : Fin 32) (s : State) : Out :=
  .next (s.during (s.live fun s => s.releaseCredit (tileCode t) q.val))
/-- DETACH (R186). -/
def execDetach (t : TileId) (q : Fin 32) (s : State) : Out :=
  .next (s.during (s.live fun s => s.detach (tileCode t) q.val))
/-- CANCEL_MARKER (R186). -/
def execCancelMarker (t : TileId) (q : Fin 32) (s : State) : Out :=
  .next (s.during (s.live fun s => s.cancelMarker (tileCode t) q.val))

end Sys2Proof.Machine
end

