-- ==== Sys2Proof/Machine/ExecTile.lean ====
section
/-! DEFINITION. The meanings of the commands of the tile sequencer, its operations in flight, messages and tokens. -/

namespace Sys2Proof.Machine

/-- NOP (R92). -/
def execNop (t : TileId) (busy : BitVec 8) (s : State) : Out :=
  .next (s.during (s.tileRow t (tileIssue .nop nopOp busy)))
/-- ALU (R93). -/
def execAlu (t : TileId) (busy : BitVec 8) (s : State) : Out :=
  .next (s.during (s.tileRow t (tileIssue .alu aluOp busy)))
/-- ALUI (R93). -/
def execAlui (t : TileId) (busy : BitVec 8) (s : State) : Out :=
  .next (s.during (s.tileRow t (tileIssue .alui aluiOp busy)))
/-- ADDR (R94). -/
def execAddr (t : TileId) (busy : BitVec 8) (s : State) : Out :=
  .next (s.during (s.tileRow t (tileIssue .addr addrOp busy)))
/-- LD (R95). -/
def execLd (t : TileId) (busy : BitVec 8) (s : State) : Out :=
  .next (s.during (s.tileRow t (tileIssue .ld ldOp busy)))
/-- ST (R95). -/
def execSt (t : TileId) (busy : BitVec 8) (s : State) : Out :=
  .next (s.during (s.tileRow t (tileIssue .st stOp busy)))
/-- GLD (R95). -/
def execGld (t : TileId) (busy : BitVec 8) (s : State) : Out :=
  .next (s.during (s.tileRow t (tileIssue .gld (gldOp (tileCode t)) busy)))
/-- GLD_RESPONSE (R85, R95). -/
def execGldResponse (t : TileId) (tag : Nat) (s : State) : Out :=
  .next (s.during (s.tileRow t fun T => (gldResponseOp T tag, [])))
/-- GST (R95). -/
def execGst (t : TileId) (busy : BitVec 8) (s : State) : Out :=
  .next (s.during (s.tileRow t (tileIssue .gst (gstOp (tileCode t)) busy)))
/-- GST_ACK (R85). -/
def execGstAck (t : TileId) (tag : Nat) (s : State) : Out :=
  .next (s.during (s.tileRow t fun T => (gstAckOp T tag, [])))
/-- FENCE (R96). -/
def execFence (t : TileId) (busy : BitVec 8) (s : State) : Out :=
  .next (s.during (s.tileRow t (tileIssue .fence fenceOp busy)))
/-- BR (R97). -/
def execBr (t : TileId) (busy : BitVec 8) (s : State) : Out :=
  .next (s.during (s.tileRow t (tileIssue .br brOp busy)))
/-- JMP function J (R98). -/
def execJ (t : TileId) (busy : BitVec 8) (s : State) : Out :=
  .next (s.during (s.tileRow t (tileIssue .j jOp busy)))
/-- JMP function JAL (R98). -/
def execJal (t : TileId) (busy : BitVec 8) (s : State) : Out :=
  .next (s.during (s.tileRow t (tileIssue .jal jalOp busy)))
/-- JMP function JR (R98). -/
def execJr (t : TileId) (busy : BitVec 8) (s : State) : Out :=
  .next (s.during (s.tileRow t (tileIssue .jr jrOp busy)))
/-- TREG (R99). -/
def execTreg (t : TileId) (busy : BitVec 8) (s : State) : Out :=
  .next (s.during (s.tileRow t (tileIssue .treg (tregOp t) busy)))
/-- TASK SPAWN (R82, R101). -/
def execSpawn (t : TileId) (busy : BitVec 8) (s : State) : Out :=
  .next (s.during (s.tileRow t (tileIssue .spawn spawnOp busy)))
/-- TASK KILL (R81, R101). -/
def execKill (t : TileId) (busy : BitVec 8) (s : State) : Out :=
  .next (s.during (s.tileRow t (tileIssue .kill killOp busy)))
/-- TASK YIELD (R88, R101). -/
def execYield (t : TileId) (busy : BitVec 8) (s : State) : Out :=
  .next (s.during (s.tileRow t (tileIssue .yield yieldOp busy)))
/-- TOK TSET (R83, R102). -/
def execTset (t : TileId) (busy : BitVec 8) (s : State) : Out :=
  .next (s.during (s.tileRow t (tileIssue .tset tsetOp busy)))
/-- TOK TSETR (R83, R102). -/
def execTsetr (t : TileId) (busy : BitVec 8) (s : State) : Out :=
  .next (s.during (s.tileRow t (tileIssue .tsetr tsetrOp busy)))
/-- TOK TADD (R83, R102). -/
def execTadd (t : TileId) (busy : BitVec 8) (s : State) : Out :=
  .next (s.during (s.tileRow t (tileIssue .tadd taddOp busy)))
/-- TOK TTAKE (R84, R102). -/
def execTtake (t : TileId) (busy : BitVec 8) (s : State) : Out :=
  .next (s.during (s.tileRow t (tileIssue .ttake ttakeOp busy)))
/-- TOK TREAD (R102). -/
def execTread (t : TileId) (busy : BitVec 8) (s : State) : Out :=
  .next (s.during (s.tileRow t (tileIssue .tread treadOp busy)))
/-- TOK PROGRESS (R102). -/
def execProgress (t : TileId) (busy : BitVec 8) (s : State) : Out :=
  .next (s.during (s.tileRow t (tileIssue .progress progressOp busy)))
/-- SEND (R104-R106). -/
def execSend (t : TileId) (busy : BitVec 8) (s : State) : Out :=
  .next (s.during (s.tileRow t (tileIssue .send sendOp busy)))
/-- MESSAGE_ARRIVAL (R103, R104, R493): the packet of tile t that carries the tag. -/
def execMessageArrival (t : TileId) (tag : Nat) (s : State) : Out :=
  .next (s.during (s.live fun s => s.messageArrival (tileCode t) tag))
/-- SEND_ACCEPTED (R85, R105). -/
def execSendAccepted (t : TileId) (tag : Nat) (s : State) : Out :=
  .next (s.during (s.tileRow t fun T => (sendAcceptedOp T tag, [])))
/-- SEND_REFUSED (R104). -/
def execSendRefused (t : TileId) (tag : Nat) (s : State) : Out :=
  .next (s.during (s.tileRow t fun T => (sendRefusedOp T tag, [])))
/-- MESSAGE_RESEND (R104). -/
def execMessageResend (t : TileId) (tag : Nat) (s : State) : Out :=
  .next (s.during (s.tileRow t fun T => (messageResendOp T tag, [])))
/-- RECV (R107). -/
def execRecv (t : TileId) (busy : BitVec 8) (s : State) : Out :=
  .next (s.during (s.tileRow t (tileIssue .recv recvOp busy)))
/-- MBOX CFG (R108). -/
def execMboxCfg (t : TileId) (busy : BitVec 8) (s : State) : Out :=
  .next (s.during (s.tileRow t (tileIssue .mboxCfg mboxCfgOp busy)))
/-- MBOX STAT (R108). -/
def execMboxStat (t : TileId) (busy : BitVec 8) (s : State) : Out :=
  .next (s.during (s.tileRow t (tileIssue .mboxStat mboxStatOp busy)))
/-- HALT (R100). -/
def execHalt (t : TileId) (busy : BitVec 8) (s : State) : Out :=
  .next (s.during (s.tileRow t (tileIssue .halt haltOp busy)))
/-- TOKEN_WRITE (R83, R109). -/
def execTokenWrite (m : Master) (t : TileId) (tok : Fin 64) (v : BitVec 32) (s : State) : Out :=
  .next (s.during (s.busy fun s => s.memWrite m (tileRegAddr (tileCode t) (0x100 + 4 * tok.val)) (natLe 4 v.toNat)))
/-- TOKEN_INC (R83, R109). -/
def execTokenInc (m : Master) (t : TileId) (tok : Fin 64) (v : BitVec 32) (s : State) : Out :=
  .next (s.during (s.busy fun s => s.memWrite m (tileRegAddr (tileCode t) (0x200 + 4 * tok.val)) (natLe 4 v.toNat)))
/-- UNALLOCATED_OPCODE (R80, R91). -/
def execUnallocatedOpcode (t : TileId) (busy : BitVec 8) (s : State) : Out :=
  .next (s.during (s.tileRow t (tileIssue .unalloc unallocOp busy)))

end Sys2Proof.Machine
end

