-- ==== Sys2Proof/Machine/ExecTwin.lean ====
section
/-! DEFINITION. The meanings of the commands of the twin. -/

namespace Sys2Proof.Machine

/-- TWIN_HEARTBEAT (R347). -/
def execTwinHeartbeat (h : Fin 2) (s : State) : Out :=
  .next (s.during (s.chip fun s => s.heartbeat h.val))
/-- TWIN_HALF_DOWN (R347, R351). -/
def execTwinHalfDown (h : Fin 2) (s : State) : Out :=
  .next (s.during (s.busy fun s => s.halfDown h.val))
/-- TWIN_HALF_UP (R347). -/
def execTwinHalfUp (h : Fin 2) (s : State) : Out :=
  .next (s.during (s.chip fun s => s.halfUp h.val))
/-- PAIRING (R350). -/
def execPairing (msg : PairMsg) (s : State) : Out :=
  .next (s.during (s.twinRow fun s => s.pairIn msg))
/-- ITEM (R357). -/
def execItem (q : Fin 16384) (c : BitVec 20) (msn _ord : BitVec 32) (bytes : List Byte) (s : State) : Out :=
  .next (s.during (s.twinRow fun s => s.itemIn q.val c.toNat msn.toNat bytes))
/-- ITEM_ACK (R358). -/
def execItemAck (q : Fin 16384) (c : BitVec 20) (msn ord : BitVec 32) (s : State) : Out :=
  .next (s.during (s.twinRow fun s => s.itemAckIn q.val c.toNat msn.toNat ord.toNat))
/-- ITEM_NAK (R358). -/
def execItemNak (q : Fin 16384) (c : BitVec 20) (msn : BitVec 32) (s : State) : Out :=
  .next (s.during (s.twinRow fun s => s.itemNakIn q.val c.toNat msn.toNat))
/-- ORDER (R358). -/
def execOrder (q : Fin 16384) (c : BitVec 20) (msn ord : BitVec 32) (s : State) : Out :=
  .next (s.during (s.twinRow fun s => s.orderIn q.val c.toNat msn.toNat ord.toNat))
/-- DROP (R357). -/
def execDrop (q : Fin 16384) (c : BitVec 20) (msn : BitVec 32) (s : State) : Out :=
  .next (s.during (s.twinRow fun s => s.dropIn q.val c.toNat msn.toNat))
/-- EVIDENCE (R361). -/
def execEvidence (job : Fin 16) (step : BitVec 32) (ofl nv : Bool) (s : State) : Out :=
  .next (s.during (s.twinRow fun s => s.evidenceIn job.val step.toNat ofl nv))
/-- DEVICE_DIGEST (R365-R369). -/
def execDeviceDigest (job : Fin 16) (step : BitVec 32) (dd : List Byte) (rep : Repair) (s : State) : Out :=
  .next (s.during (s.twinRow fun s => s.digestIn job.val step.toNat dd rep))
/-- COMMIT_NOTICE (R370-R372). -/
def execCommitNotice (job : Fin 16) (step : BitVec 32) (exp : BitVec 8) (clean : BitVec 16) (dv : BitVec 32) (heads : List (Nat × BitVec 32)) (dir : List (Fin 4096 × Option DirEnt)) (dd : List Byte) (s : State) : Out :=
  .next (s.during (s.twinRow fun s => s.noticeIn job.val step.toNat exp.toNat clean.toNat dv.toNat (heads.map fun (x : Nat × BitVec 32) => (x.1, x.2.toNat)) (dirIn dir) dd))
/-- SHADOW_DELTA (R370). -/
def execShadowDelta (table : BitVec 16) (index : BitVec 64) (a : Addr) (slot : List Byte) (s : State) : Out :=
  .next (s.during (s.twinRow fun s => s.deltaIn table.toNat index.toNat a.toNat slot))
/-- TAKEOVER_NOTICE (R351). -/
def execTakeoverNotice (s : State) : Out :=
  .next (s.during (s.twinRow fun s => s.takeoverNotice))
/-- STEP_ABANDON (R362). -/
def execStepAbandon (job : Fin 16) (step : BitVec 32) (s : State) : Out :=
  .next (s.during (s.twinRow fun s => s.abandonIn job.val step.toNat))
/-- RELAY (R353, R354). -/
def execRelay (c : BitVec 20) (packet : List Byte) (s : State) : Out :=
  .next (s.during (s.twinRow fun s => s.relayIn c.toNat packet))
/-- TAKEOVER (R351). -/
def execTakeover (m : Master) (s : State) : Out :=
  .next (s.during (s.busy fun s => s.memWrite m (RegKind.twCtl.at) (natLe 4 1)))
/-- BASELINE (R366). -/
def execBaseline (m : Master) (s : State) : Out :=
  .next (s.during (s.busy fun s => s.memWrite m (RegKind.twCtl.at) (natLe 4 2)))
/-- JOIN (R374). -/
def execJoin (m : Master) (s : State) : Out :=
  .next (s.during (s.busy fun s => s.memWrite m (RegKind.twCtl.at) (natLe 4 4)))
/-- REJOIN_COMPLETE (R374). -/
def execRejoinComplete (peer : List (Fin 16 × List Byte × Repair)) (copy : RejoinCopy) (s : State) : Out :=
  .next (s.during (s.busy fun s => s.rejoinDone peer copy))
/-- CATCHUP (R373). -/
def execCatchup (job : Fin 16) (step : BitVec 32) (exp : BitVec 8) (clean : BitVec 16) (dv : BitVec 32) (dd : List Byte) (copies : List (Addr × List Byte)) (unretained : Bool) (s : State) : Out :=
  .next (s.during (s.busy fun s => s.catchup job.val step.toNat exp.toNat clean.toNat dv.toNat dd copies unretained))

end Sys2Proof.Machine
end

