-- ==== Sys2Proof/Machine/Dispatch.lean ====
section
/-! DEFINITION. The meaning of every command: one arm per constructor of Instr. -/

namespace Sys2Proof.Machine

def exec (i : Instr) (s : State) : Host.Outcome State Fault Refusal :=
  match i with
  | .registerWrite m a data => Sys2Proof.Machine.execRegisterWrite m a data s
  | .masterAccess acc => Sys2Proof.Machine.execMasterAccess acc s
  | .twinWindowAccess m a len data => Sys2Proof.Machine.execTwinWindowAccess m a len data s
  | .granuleRead m a bad => Sys2Proof.Machine.execGranuleRead m a bad s
  | .granuleWrite m a data => Sys2Proof.Machine.execGranuleWrite m a data s
  | .meshPacketReceive site port vc crcOk pkt => Sys2Proof.Machine.execMeshPacketReceive site port vc crcOk pkt s
  | .operationResend pkt => Sys2Proof.Machine.execOperationResend pkt s
  | .nop t busy => Sys2Proof.Machine.execNop t busy s
  | .alu t busy => Sys2Proof.Machine.execAlu t busy s
  | .alui t busy => Sys2Proof.Machine.execAlui t busy s
  | .addr t busy => Sys2Proof.Machine.execAddr t busy s
  | .ld t busy => Sys2Proof.Machine.execLd t busy s
  | .st t busy => Sys2Proof.Machine.execSt t busy s
  | .gld t busy => Sys2Proof.Machine.execGld t busy s
  | .gldResponse t tag => Sys2Proof.Machine.execGldResponse t tag s
  | .gst t busy => Sys2Proof.Machine.execGst t busy s
  | .gstAck t tag => Sys2Proof.Machine.execGstAck t tag s
  | .fence t busy => Sys2Proof.Machine.execFence t busy s
  | .br t busy => Sys2Proof.Machine.execBr t busy s
  | .j t busy => Sys2Proof.Machine.execJ t busy s
  | .jal t busy => Sys2Proof.Machine.execJal t busy s
  | .jr t busy => Sys2Proof.Machine.execJr t busy s
  | .treg t busy => Sys2Proof.Machine.execTreg t busy s
  | .spawn t busy => Sys2Proof.Machine.execSpawn t busy s
  | .kill t busy => Sys2Proof.Machine.execKill t busy s
  | .yield t busy => Sys2Proof.Machine.execYield t busy s
  | .tset t busy => Sys2Proof.Machine.execTset t busy s
  | .tsetr t busy => Sys2Proof.Machine.execTsetr t busy s
  | .tadd t busy => Sys2Proof.Machine.execTadd t busy s
  | .ttake t busy => Sys2Proof.Machine.execTtake t busy s
  | .tread t busy => Sys2Proof.Machine.execTread t busy s
  | .progress t busy => Sys2Proof.Machine.execProgress t busy s
  | .send t busy => Sys2Proof.Machine.execSend t busy s
  | .messageArrival t tag => Sys2Proof.Machine.execMessageArrival t tag s
  | .sendAccepted t tag => Sys2Proof.Machine.execSendAccepted t tag s
  | .sendRefused t tag => Sys2Proof.Machine.execSendRefused t tag s
  | .messageResend t tag => Sys2Proof.Machine.execMessageResend t tag s
  | .recv t busy => Sys2Proof.Machine.execRecv t busy s
  | .mboxCfg t busy => Sys2Proof.Machine.execMboxCfg t busy s
  | .mboxStat t busy => Sys2Proof.Machine.execMboxStat t busy s
  | .halt t busy => Sys2Proof.Machine.execHalt t busy s
  | .tokenWrite m t tok v => Sys2Proof.Machine.execTokenWrite m t tok v s
  | .tokenInc m t tok v => Sys2Proof.Machine.execTokenInc m t tok v s
  | .load q => Sys2Proof.Machine.execLoad q s
  | .chunk t c => Sys2Proof.Machine.execChunk t c s
  | .seal t => Sys2Proof.Machine.execSeal t s
  | .imageHashDone t => Sys2Proof.Machine.execImageHashDone t s
  | .loaderReply t => Sys2Proof.Machine.execLoaderReply t s
  | .loaderRoundTimeout => Sys2Proof.Machine.execLoaderRoundTimeout s
  | .start t => Sys2Proof.Machine.execStart t s
  | .abandon t => Sys2Proof.Machine.execAbandon t s
  | .lagSample => Sys2Proof.Machine.execLagSample s
  | .mwld t busy => Sys2Proof.Machine.execMwld t busy s
  | .mma t busy => Sys2Proof.Machine.execMma t busy s
  | .mbwd t busy => Sys2Proof.Machine.execMbwd t busy s
  | .morth t busy => Sys2Proof.Machine.execMorth t busy s
  | .matrixStart t loadPath => Sys2Proof.Machine.execMatrixStart t loadPath s
  | .matrixComplete t loadPath => Sys2Proof.Machine.execMatrixComplete t loadPath s
  | .vadd t busy => Sys2Proof.Machine.execVadd t busy s
  | .vmul t busy => Sys2Proof.Machine.execVmul t busy s
  | .vfma t busy => Sys2Proof.Machine.execVfma t busy s
  | .vcmp t busy => Sys2Proof.Machine.execVcmp t busy s
  | .vsel t busy => Sys2Proof.Machine.execVsel t busy s
  | .vminmax t busy => Sys2Proof.Machine.execVminmax t busy s
  | .vred t busy => Sys2Proof.Machine.execVred t busy s
  | .vmov t busy => Sys2Proof.Machine.execVmov t busy s
  | .vsieve t busy => Sys2Proof.Machine.execVsieve t busy s
  | .vexpand t busy => Sys2Proof.Machine.execVexpand t busy s
  | .vupd t busy => Sys2Proof.Machine.execVupd t busy s
  | .cvt t busy => Sys2Proof.Machine.execCvt t busy s
  | .cvtq t busy => Sys2Proof.Machine.execCvtq t busy s
  | .cvtdq t busy => Sys2Proof.Machine.execCvtdq t busy s
  | .vectorStart t => Sys2Proof.Machine.execVectorStart t s
  | .vectorComplete t idx => Sys2Proof.Machine.execVectorComplete t idx s
  | .sarm t busy => Sys2Proof.Machine.execSarm t busy s
  | .srel t busy => Sys2Proof.Machine.execSrel t busy s
  | .scan t busy => Sys2Proof.Machine.execScan t busy s
  | .scanComplete t => Sys2Proof.Machine.execScanComplete t s
  | .sstat t busy => Sys2Proof.Machine.execSstat t busy s
  | .streamRequest t q => Sys2Proof.Machine.execStreamRequest t q s
  | .streamResponse t id => Sys2Proof.Machine.execStreamResponse t id s
  | .streamSend t q => Sys2Proof.Machine.execStreamSend t q s
  | .streamAck t q => Sys2Proof.Machine.execStreamAck t q s
  | .streamTimeout t id => Sys2Proof.Machine.execStreamTimeout t id s
  | .shadowTakeEffect t q => Sys2Proof.Machine.execShadowTakeEffect t q s
  | .chainActivate t q => Sys2Proof.Machine.execChainActivate t q s
  | .armCredit t q => Sys2Proof.Machine.execArmCredit t q s
  | .armCreditResend t q => Sys2Proof.Machine.execArmCreditResend t q s
  | .releaseCredit t q => Sys2Proof.Machine.execReleaseCredit t q s
  | .detach t q => Sys2Proof.Machine.execDetach t q s
  | .cancelMarker t q => Sys2Proof.Machine.execCancelMarker t q s
  | .lookupRequest t id => Sys2Proof.Machine.execLookupRequest t id s
  | .pushRecord idx => Sys2Proof.Machine.execPushRecord idx s
  | .migMove m k table index target => Sys2Proof.Machine.execMigMove m k table index target s
  | .migPin m k table index => Sys2Proof.Machine.execMigPin m k table index s
  | .migUnpin m k table index => Sys2Proof.Machine.execMigUnpin m k table index s
  | .migReturn m k table index => Sys2Proof.Machine.execMigReturn m k table index s
  | .sweepUpdate job => Sys2Proof.Machine.execSweepUpdate job s
  | .masterScrub master working inFlight => Sys2Proof.Machine.execMasterScrub master working inFlight s
  | .stepStart q => Sys2Proof.Machine.execStepStart q s
  | .sweep q => Sys2Proof.Machine.execSweep q s
  | .commit q => Sys2Proof.Machine.execCommit q s
  | .fenceCommand q => Sys2Proof.Machine.execFenceCommand q s
  | .allGather q => Sys2Proof.Machine.execAllGather q s
  | .allToAll q => Sys2Proof.Machine.execAllToAll q s
  | .allReduce q => Sys2Proof.Machine.execAllReduce q s
  | .reduceScatter q => Sys2Proof.Machine.execReduceScatter q s
  | .arrive m job => Sys2Proof.Machine.execArrive m job s
  | .lossScaleSet m job v => Sys2Proof.Machine.execLossScaleSet m job v s
  | .segmentRecord idx => Sys2Proof.Machine.execSegmentRecord idx s
  | .endMarker idx => Sys2Proof.Machine.execEndMarker idx s
  | .report port frame => Sys2Proof.Machine.execReport port frame s
  | .partialSeg port frame => Sys2Proof.Machine.execPartialSeg port frame s
  | .result port frame => Sys2Proof.Machine.execResult port frame s
  | .vote port frame => Sys2Proof.Machine.execVote port frame s
  | .counts port frame => Sys2Proof.Machine.execCounts port frame s
  | .data port frame => Sys2Proof.Machine.execData port frame s
  | .shardsum port frame => Sys2Proof.Machine.execShardsum port frame s
  | .live port frame => Sys2Proof.Machine.execLive port frame s
  | .voteCast job => Sys2Proof.Machine.execVoteCast job s
  | .voteTimeout job => Sys2Proof.Machine.execVoteTimeout job s
  | .arrivalsTimeout q => Sys2Proof.Machine.execArrivalsTimeout q s
  | .segmentTimeout job => Sys2Proof.Machine.execSegmentTimeout job s
  | .bucketRelease job b => Sys2Proof.Machine.execBucketRelease job b s
  | .patrolScrub k finds => Sys2Proof.Machine.execPatrolScrub k finds s
  | .stackTempSample k dram logic => Sys2Proof.Machine.execStackTempSample k dram logic s
  | .linkDown fall => Sys2Proof.Machine.execLinkDown fall s
  | .linkUp port rate peer => Sys2Proof.Machine.execLinkUp port rate peer s
  | .xrFallback port => Sys2Proof.Machine.execXrFallback port s
  | .pfcFrame port frame => Sys2Proof.Machine.execPfcFrame port frame s
  | .write port frame => Sys2Proof.Machine.execWrite port frame s
  | .read port frame => Sys2Proof.Machine.execRead port frame s
  | .readResp port frame => Sys2Proof.Machine.execReadResp port frame s
  | .faoloSend port frame => Sys2Proof.Machine.execFaoloSend port frame s
  | .accept port frame => Sys2Proof.Machine.execAccept port frame s
  | .refuse port frame => Sys2Proof.Machine.execRefuse port frame s
  | .ack port frame => Sys2Proof.Machine.execAck port frame s
  | .sack port frame => Sys2Proof.Machine.execSack port frame s
  | .credit port frame => Sys2Proof.Machine.execCredit port frame s
  | .sync port frame => Sys2Proof.Machine.execSync port frame s
  | .syncAck port frame => Sys2Proof.Machine.execSyncAck port frame s
  | .syncResend c => Sys2Proof.Machine.execSyncResend c s
  | .delayedAck c => Sys2Proof.Machine.execDelayedAck c s
  | .creditTimer c => Sys2Proof.Machine.execCreditTimer c s
  | .retransmitTimeout c => Sys2Proof.Machine.execRetransmitTimeout c s
  | .rateUpdate c => Sys2Proof.Machine.execRateUpdate c s
  | .packetTransmit port => Sys2Proof.Machine.execPacketTransmit port s
  | .portFailover c => Sys2Proof.Machine.execPortFailover c s
  | .contextFetch c => Sys2Proof.Machine.execContextFetch c s
  | .lookupReq port frame => Sys2Proof.Machine.execLookupReq port frame s
  | .lookupResp port frame => Sys2Proof.Machine.execLookupResp port frame s
  | .gatherReq port frame => Sys2Proof.Machine.execGatherReq port frame s
  | .gatherResp port frame => Sys2Proof.Machine.execGatherResp port frame s
  | .l1Report port frame => Sys2Proof.Machine.execL1Report port frame s
  | .l1Result port frame => Sys2Proof.Machine.execL1Result port frame s
  | .l1End port frame => Sys2Proof.Machine.execL1End port frame s
  | .guardArm m g => Sys2Proof.Machine.execGuardArm m g s
  | .guardComplete m g => Sys2Proof.Machine.execGuardComplete m g s
  | .guardRelease m g => Sys2Proof.Machine.execGuardRelease m g s
  | .itemAccept c msn => Sys2Proof.Machine.execItemAccept c msn s
  | .itemDeliver p => Sys2Proof.Machine.execItemDeliver p s
  | .egressTransfer c msn => Sys2Proof.Machine.execEgressTransfer c msn s
  | .queueHeadWrite m q v => Sys2Proof.Machine.execQueueHeadWrite m q v s
  | .twinHeartbeat h => Sys2Proof.Machine.execTwinHeartbeat h s
  | .twinHalfDown h => Sys2Proof.Machine.execTwinHalfDown h s
  | .pairing msg => Sys2Proof.Machine.execPairing msg s
  | .item q c msn ord bytes => Sys2Proof.Machine.execItem q c msn ord bytes s
  | .itemAck q c msn ord => Sys2Proof.Machine.execItemAck q c msn ord s
  | .itemNak q c msn => Sys2Proof.Machine.execItemNak q c msn s
  | .order q c msn ord => Sys2Proof.Machine.execOrder q c msn ord s
  | .drop q c msn => Sys2Proof.Machine.execDrop q c msn s
  | .evidence job step ofl nv => Sys2Proof.Machine.execEvidence job step ofl nv s
  | .deviceDigest job step dd rep => Sys2Proof.Machine.execDeviceDigest job step dd rep s
  | .commitNotice job step exp clean dv heads dir dd => Sys2Proof.Machine.execCommitNotice job step exp clean dv heads dir dd s
  | .shadowDelta table index a slot => Sys2Proof.Machine.execShadowDelta table index a slot s
  | .takeoverNotice => Sys2Proof.Machine.execTakeoverNotice s
  | .stepAbandon job step => Sys2Proof.Machine.execStepAbandon job step s
  | .relay c packet => Sys2Proof.Machine.execRelay c packet s
  | .takeover m => Sys2Proof.Machine.execTakeover m s
  | .baseline m => Sys2Proof.Machine.execBaseline m s
  | .join m => Sys2Proof.Machine.execJoin m s
  | .rejoinComplete peer copy => Sys2Proof.Machine.execRejoinComplete peer copy s
  | .catchup job step exp clean dv dd copies unretained => Sys2Proof.Machine.execCatchup job step exp clean dv dd copies unretained s
  | .journalEntryComplete c msn => Sys2Proof.Machine.execJournalEntryComplete c msn s
  | .clocheFlush => Sys2Proof.Machine.execClocheFlush s
  | .flushComplete nand us => Sys2Proof.Machine.execFlushComplete nand us s
  | .powerOnReset => Sys2Proof.Machine.execPowerOnReset s
  | .rootPllLock => Sys2Proof.Machine.execRootPllLock s
  | .coldReset => Sys2Proof.Machine.execColdReset s
  | .warmReset => Sys2Proof.Machine.execWarmReset s
  | .coldStart env => Sys2Proof.Machine.execColdStart env s
  | .warmStart env => Sys2Proof.Machine.execWarmStart env s
  | .avsComplete r how => Sys2Proof.Machine.execAvsComplete r how s
  | .voltageLower r done => Sys2Proof.Machine.execVoltageLower r done s
  | .thermalTick temps => Sys2Proof.Machine.execThermalTick temps s
  | .powerTick rd => Sys2Proof.Machine.execPowerTick rd s
  | .thermTrip die celsius => Sys2Proof.Machine.execThermTrip die celsius s
  | .pllUnlock => Sys2Proof.Machine.execPllUnlock s
  | .mgmtMemUe offset => Sys2Proof.Machine.execMgmtMemUe offset s
  | .watchdog => Sys2Proof.Machine.execWatchdog s
  | .flashErase m => Sys2Proof.Machine.execFlashErase m s
  | .flashProgram m => Sys2Proof.Machine.execFlashProgram m s
  | .flashRead m => Sys2Proof.Machine.execFlashRead m s
  | .flashDone how => Sys2Proof.Machine.execFlashDone how s
  | .attestRequest m => Sys2Proof.Machine.execAttestRequest m s
  | .attestDone => Sys2Proof.Machine.execAttestDone s
  | .fieldLogAppend => Sys2Proof.Machine.execFieldLogAppend s
  | .eventRecord src => Sys2Proof.Machine.execEventRecord src s
  | .eventHeadWrite m v => Sys2Proof.Machine.execEventHeadWrite m v s
  | .flagScan m v => Sys2Proof.Machine.execFlagScan m v s
  | .flagScanDone => Sys2Proof.Machine.execFlagScanDone s
  | .ibiTimer => Sys2Proof.Machine.execIbiTimer s
  | .i3cPrivateWrite xfer => Sys2Proof.Machine.execI3cPrivateWrite xfer s
  | .i3cPrivateRead xfer => Sys2Proof.Machine.execI3cPrivateRead xfer s
  | .setdasa asg => Sys2Proof.Machine.execSetdasa asg s
  | .entdaa asg => Sys2Proof.Machine.execEntdaa asg s
  | .idcode => Sys2Proof.Machine.execIdcode s
  | .samplePreload scan => Sys2Proof.Machine.execSamplePreload scan s
  | .extest => Sys2Proof.Machine.execExtest s
  | .clamp => Sys2Proof.Machine.execClamp s
  | .highz => Sys2Proof.Machine.execHighz s
  | .extestPulse => Sys2Proof.Machine.execExtestPulse s
  | .extestTrain => Sys2Proof.Machine.execExtestTrain s
  | .bypass code => Sys2Proof.Machine.execBypass code s
  | .tapReset => Sys2Proof.Machine.execTapReset s
  | .twinHalfUp h => Sys2Proof.Machine.execTwinHalfUp h s
  | .migStatusAnswer k => Sys2Proof.Machine.execMigStatusAnswer k s
  | .jobKeyMulticast t => Sys2Proof.Machine.execJobKeyMulticast t s
  | .unallocatedOpcode t busy => Sys2Proof.Machine.execUnallocatedOpcode t busy s

end Sys2Proof.Machine
end

