-- ==== Sys2Proof/Safety.lean ====
section
/-! DEFINITION. The terms the claims use: what a safe run keeps, which instruction a tile runs next, and what a command leaves
alone. No command stops the machine, so a safe run is one whose states stay well-formed. -/

namespace Sys2Proof

open Machine

/-! ### Outcomes and invariants -/

/-- Every byte store of the device is in canonical form: DRAM, its snapshot, flash and the ingress SRAM. -/
def Machine.State.memsWf (s : State) : Bool :=
  Memory.wf s.hbm && Memory.wf s.dirMem && flWf s.flash && Memory.wf s.ingress

/-- No packet, segment or register write waits inside the device for another event, no packet of a unit waits to be sent again, and no
port has paused its peer. -/
abbrev Machine.State.still (s : State) : Prop :=
  s.segWait = [] ∧ s.unitOut = [] ∧ (∀ x ∈ s.ctxs, (s.ctx x.1).held = []) ∧ s.xoff = [] ∧ s.unitLost = []

/-- No symbol of granule g of DRAM has gone bad since it was last written or corrected (R274). -/
abbrev Machine.State.sound (s : State) (g : Nat) : Prop := ∀ x ∈ s.upset, x.1 ≠ g

/-- Power is good exactly while the root PLL is locked (R398), the uptime counter counts in 5 ns (R469), and without power everything
that power holds is at its value after reset (R407). -/
abbrev Machine.State.clocked (s : State) : Prop :=
  s.pwrgood = s.pllLocked ∧ s.uptime % 5 = 0 ∧ (s.pwrgood = false → s.powerOff = s)

/-- The instructions of the test access port, which its own clock runs (R488). -/
def Instr.ofTap : Instr → Bool
  | .idcode | .samplePreload _ | .extest | .clamp | .highz | .extestPulse | .extestTrain | .bypass _ | .tapReset => true
  | _ => false

/-- A command of a unit that may let waiting packets go on has brought s to u by itself; s' is the state once those packets and the
register writes that units have sent have been carried out. On a device in which nothing waits, s' is u. -/
def Brings (s u s' : State) : Prop := s' = s.during u.pump.settle

/-- An instance of a register kind that exists. -/
abbrev Machine.RegKind.valid (k : RegKind) (i j : Nat) : Prop := i < k.row.n1 ∧ j < k.row.n2 ∧ (k.isPort = true → j % 2 = i)

/-- The registers whose write is an action of its own (R74, R223, R239, R316, R326, R351, R434, R453, R465, R470). -/
def Machine.RegKind.acts (k : RegKind) : Bool :=
  k == .jArrive || k == .jLossScale || k == .guAddr || k == .guCtl || k == .quHead || k == .emReq || k == .twCtl || k == .flCtl ||
    k == .attCtl || k == .evHead || k == .evScan

/-- The whole address map answers: the device is not in diagnostic mode (R429) and not in a warm start before READY (R431). -/
abbrev Machine.State.plain (s : State) : Prop := s.diag = false ∧ s.early = none

/-- The device runs in normal operation, and nothing waits inside it for another event. -/
abbrev Machine.State.calm (s : State) : Prop := s.on = true ∧ s.still ∧ s.plain

/-- Nothing changes but the registers listed, and the halves that masters have latched or held (R12, R14). -/
def OnlyRegs (s s' : State) (l : List (RegKind × Nat × Nat)) : Prop :=
  s' = { s with regs := s'.regs, latches := s'.latches } ∧
    ∀ (k : RegKind) (i j : Nat), k.valid i j → (k, i, j) ∉ l → s'.reg k i j = s.reg k i j

/-! ### A tile's next instruction (R79-R91) -/

/-- In the sequencer's next cycle task k of tile t runs word w, an instruction of row r that is not faulty; `busy` names the
slots that R86 and R89 hold back. -/
abbrev Issues (s : State) (t : TileId) (busy : BitVec 8) (r : TRow) (k : Nat) (w : IWord) : Prop :=
  s.on = true ∧ (s.tile (tileCode t)).pickSlot busy = some k ∧ (s.tile (tileCode t)).fetch k = w ∧ w.row = r ∧
    faultOf (s.tile (tileCode t)) k w = none

/-- Nothing changes but tile c. -/
def OnlyTile (s s' : State) (c : Nat) : Prop := s' = { s with tiles := s'.tiles } ∧ ∀ d, d ≠ c → s'.tile d = s.tile d

/-- The counts once the wait token has been consumed (R83 step 3). -/
def waitTaken (T : Tile) (w : IWord) (n : Nat) : BitVec 16 := if n = w.wait ∧ n ≠ 0 then T.token n - 1 else T.token n
/-- Counts C with the signal token raised, held at 65,535, and TOKEN_OVF, which records that it was held (R83 step 2, R85). -/
def signalled (w : IWord) (C : Nat → BitVec 16) (n : Nat) : BitVec 16 :=
  if n = w.sig ∧ n ≠ 0 then BitVec.ofNat 16 (min ((C n).toNat + 1) 65535) else C n
def signalOvf (w : IWord) (C : Nat → BitVec 16) (o : BitVec 64) : BitVec 64 :=
  if w.sig ≠ 0 ∧ C w.sig = 65535 then o ||| (1#64 <<< w.sig) else o

/-- T after task k has issued word w: the sequencer's bookkeeping of R88; slots and tokens are taken from T'. -/
def Machine.Tile.issued (T T' : Tile) (k : Nat) (w : IWord) : Tile :=
  { T with slots := T'.slots, tokens := T'.tokens, tokenOvf := T'.tokenOvf, last := k, hot := true, yielded := w.row == .yield,
           run := if T.hot && !T.yielded && T.last == k then T.run + 1 else 1 }

/-- What a slot holds, as a reader of its registers sees it. -/
def SlotHas (K : Slot) (st : SlotSt) (pc : BitVec 13) (S : Nat → BitVec 32) (A : Nat → BitVec 48) (code : BitVec 16) : Prop :=
  K.st = st ∧ K.pc = pc ∧ (∀ n, K.sreg n = S n) ∧ (∀ n, K.areg n = A n) ∧ K.code = code

/-- Slot k has the given PC and registers, its state and CODE are as before, and no other slot has changed. -/
def OneSlot (T : Tile) (k : Nat) (pc : BitVec 13) (S : Nat → BitVec 32) (A : Nat → BitVec 48) (T' : Tile) : Prop :=
  (∀ j, j ≠ k → T'.slot j = T.slot j) ∧ SlotHas (T'.slot k) (T.slot k).st pc S A (T.slot k).code

/-- Word w of task k of tile t has issued: its tokens are C and TOKEN_OVF is O, the slots are as `P` says, `X` is the change to the
rest of the tile, and nothing else has changed. -/
def Issued (s s' : State) (t : TileId) (k : Nat) (w : IWord) (C : Nat → BitVec 16) (O : BitVec 64) (X : Tile → Tile)
    (P : Tile → Prop) : Prop :=
  let T' := s'.tile (tileCode t)
  OnlyTile s s' (tileCode t) ∧ T' = X ((s.tile (tileCode t)).issued T' k w) ∧ (∀ n, T'.token n = C n) ∧ T'.tokenOvf = O ∧ P T'

/-- The same for an instruction that has also completed: its token is signalled (R85). -/
def Done (s s' : State) (t : TileId) (k : Nat) (w : IWord) (X : Tile → Tile) (P : Tile → Prop) : Prop :=
  let T := s.tile (tileCode t)
  Issued s s' t k w (signalled w (waitTaken T w)) (signalOvf w (waitTaken T w) T.tokenOvf) X P
/-- The same for an instruction that leaves every slot but its own alone. -/
def Ran (s s' : State) (t : TileId) (k : Nat) (w : IWord) (X : Tile → Tile) (pc : BitVec 13) (S : Nat → BitVec 32)
    (A : Nat → BitVec 48) : Prop :=
  Done s s' t k w X (OneSlot (s.tile (tileCode t)) k pc S A)

/-- The registers S with s[d] set to v; s0 stays as it is (R78). -/
def setAt {α : Type} (S : Nat → α) (d : Nat) (v : α) : Nat → α := fun n => if n = d then v else S n
def setS (S : Nat → BitVec 32) (d : Nat) (v : BitVec 32) : Nat → BitVec 32 := if d = 0 then S else setAt S d v

/-- The functions of R93 on integers; the register takes the result modulo 2^32. -/
def aluResult (fn : Nat) (a b : BitVec 32) : Int :=
  match fn with
  | 0 => a.toInt + b.toInt
  | 1 => a.toInt - b.toInt
  | 2 => (a.toNat &&& b.toNat : Nat)
  | 3 => (a.toNat ||| b.toNat : Nat)
  | 4 => (a.toNat ^^^ b.toNat : Nat)
  | 5 => a.toNat * 2 ^ (b.toNat % 32)
  | 6 => a.toNat / 2 ^ (b.toNat % 32)
  | 7 => a.toInt / 2 ^ (b.toNat % 32)
  | 8 => a.toInt * b.toInt
  | 9 => a.toNat * b.toNat / 2 ^ 32
  | 10 => if a.toInt < b.toInt then 1 else 0
  | 11 => if a.toNat < b.toNat then 1 else 0
  | 12 => min a.toInt b.toInt
  | 13 => max a.toInt b.toInt
  | 14 => min a.toNat b.toNat
  | _ => max a.toNat b.toNat

/-- The conditions of R97. -/
def branchTaken (cond : Nat) (a b : BitVec 32) : Prop :=
  match cond with
  | 0 => a = b
  | 1 => a ≠ b
  | 2 => a.toInt < b.toInt
  | 3 => b.toInt ≤ a.toInt
  | 4 => a.toNat < b.toNat
  | 5 => b.toNat ≤ a.toNat
  | _ => True

/-- The value of n bytes from b, little-endian, as two's complement when `signed` (R16, R95). -/
def bytesValue (l : List Byte) (signed : Bool) : Int :=
  if signed ∧ 2 ^ (8 * l.length - 1) ≤ leNat l then (leNat l : Int) - 2 ^ (8 * l.length) else leNat l

/-- The command of an instruction of each row of the tile instruction table. -/
def rowCmd (t : TileId) (busy : BitVec 8) : TRow → Instr
  | .nop => .nop t busy | .alu => .alu t busy | .alui => .alui t busy | .addr => .addr t busy | .ld => .ld t busy
  | .st => .st t busy | .gld => .gld t busy | .gst => .gst t busy | .fence => .fence t busy | .br => .br t busy
  | .j => .j t busy | .jal => .jal t busy | .jr => .jr t busy | .treg => .treg t busy | .spawn => .spawn t busy
  | .kill => .kill t busy | .yield => .yield t busy | .tset => .tset t busy | .tsetr => .tsetr t busy | .tadd => .tadd t busy
  | .ttake => .ttake t busy | .tread => .tread t busy | .progress => .progress t busy | .send => .send t busy
  | .recv => .recv t busy | .mboxCfg => .mboxCfg t busy | .mboxStat => .mboxStat t busy | .halt => .halt t busy
  | .mwld => .mwld t busy | .mma => .mma t busy | .mbwd => .mbwd t busy | .morth => .morth t busy
  | .vadd => .vadd t busy | .vmul => .vmul t busy | .vfma => .vfma t busy | .vcmp => .vcmp t busy | .vsel => .vsel t busy
  | .vminmax => .vminmax t busy | .vred => .vred t busy | .vmov => .vmov t busy | .vsieve => .vsieve t busy
  | .vexpand => .vexpand t busy | .vupd => .vupd t busy | .cvt => .cvt t busy | .cvtq => .cvtq t busy | .cvtdq => .cvtdq t busy
  | .sarm => .sarm t busy | .srel => .srel t busy | .scan => .scan t busy | .sstat => .sstat t busy
  | .unalloc => .unallocatedOpcode t busy

/-! ### Engines (R126, R132-R157) -/

/-- The tile once writes of an engine have been made, in order. -/
def Machine.Tile.wrote (T : Tile) (ws : List EngWr) : Tile := ws.foldl (fun U w => U.opndPut w.at' w.off w.data) T

/-- A write of an engine changes the byte at tile-window offset a: registers of the register file, or the operand cache, which wraps. -/
def Machine.EngWr.hits (w : EngWr) (a : Nat) : Prop :=
  match w.at' with
  | .reg o => rfBase + o + w.off ≤ a ∧ a < rfBase + o + w.off + w.data.length
  | .oc o => ∃ i, i < w.data.length ∧ a = (o + w.off + i) % ocSize
  | .scal _ => False

/-- What instruction e of tile T writes and raises, in `groups` groups: group g makes the writes W gives and raises the flags F gives, both
of the tile as the groups before it have left it (R145). -/
def InGroups (T : Tile) (e : EngOp) (groups : Nat) (W : Tile → Nat → List EngWr) (F : Tile → Nat → Flags) : Prop :=
  ∃ ws : List (List EngWr), e.wr = ws.flatten ∧ ws.length = groups ∧
    (∀ g, g < groups → ws[g]? = some (W (T.wrote (ws.take g).flatten) g)) ∧
    e.fl = (((List.range groups).map fun g => F (T.wrote (ws.take g).flatten) g).foldl Flags.or fNone).bits

/-- Groups of `per` elements: element i of n in group g is the value and the flags R gives; the values, of `size` bytes, go to operand x. -/
def Elementwise (T : Tile) (e : EngOp) (cnt per : Nat) (x : Opnd) (size : Nat) (R : Tile → Nat → Nat → Nat → Nat × Flags) : Prop :=
  InGroups T e (cdiv cnt per)
    (fun U g => [{ at' := x, off := g * per * size,
                   data := elemBytes size ((List.range (min per (cnt - g * per))).map fun i => (R U g (min per (cnt - g * per)) i).1) }])
    (fun U g => ((List.range (min per (cnt - g * per))).map fun i => (R U g (min per (cnt - g * per)) i).2).foldl Flags.or fNone)

/-- One element of the element-wise instructions (R143, R144, R146): from encodings a, b, c of the source formats. -/
def elementResult (r : TRow) (fmt var a b c : Nat) : Nat × Flags :=
  let src : Fmt := if fmt = 0 ∨ fmt = 3 then .fp32 else .bf16
  let dst : Fmt := if fmt = 1 then .bf16 else .fp32
  let x := src.decode a
  let y := src.decode b
  let z := dst.decode c
  let mask (t : Bool) : Nat × Flags := (if t then (if fmt = 1 then 0xFFFF else 0xFFFFFFFF) else 0, fNone)
  match r, var with
  | .vadd, 0 => dst.add x y
  | .vadd, _ => dst.sub x y
  | .vmul, _ => dst.mul x y
  | .vfma, 0 => dst.fma x y z
  | .vfma, 1 => dst.fma x y z.neg
  | .vfma, 2 => dst.fma x.neg y z
  | .vfma, _ => dst.fma x.neg y z.neg
  | .vcmp, 0 => mask (if fmt = 3 then a == b else feqX x y)
  | .vcmp, 1 => mask (if fmt = 3 then decide (a < b) else fltX x y && !feqX x y)
  | .vcmp, 2 => mask (if fmt = 3 then decide (a ≤ b) else fltX x y || feqX x y)
  | .vcmp, _ => mask (if fmt = 3 then a != b else !feqX x y)
  | .vsel, _ => (if c = 0 then b else a, fNone)
  | .vminmax, v => ((dst.encode .rne false (fminmax (v == 1) x y)).1, fNone)
  | _, _ => (a, fNone)

/-- A square block of matrix results: element (i, j) is a row of x times a column of y, plus old(i, j) (R133). -/
def dotBlock (x y : Nat → Nat → FVal) (old : Option (Nat → Nat → FVal)) (i j : Nat) : Nat × Flags :=
  dot ((List.range 32).map fun k => (x i k, y k j)) (old.map fun o => o i j)
/-- The FP32 block at an operand as the tile holds it. -/
def Machine.Tile.blockAt (T : Tile) (x : Opnd) (i j : Nat) : FVal := cellAt (fp32s (T.block x 4)) i j
/-- Encodings of `rows` rows of 32 elements, and the flags of all of them. -/
def blockBits (rows : Nat) (R : Nat → Nat → Nat × Flags) : List Byte :=
  elemBytes 4 ((List.range (rows * 32)).map fun e => (R (e / 32) (e % 32)).1)
def blockFlags (rows : Nat) (R : Nat → Nat → Nat × Flags) : Flags :=
  ((List.range (rows * 32)).map fun e => (R (e / 32) (e % 32)).2).foldl Flags.or fNone
/-- f19() of R140. -/
def f19Of (rnd : Bool) (raw : Nat) : FVal := Fmt.f19.decode (if rnd then (f19Rne raw).1 else raw)
/-- The step of R140: x_new from the encodings of X and the coefficients a, b, c. -/
def morthBlock (rnd : Bool) (a b c : FVal) (x : Nat → Nat → Nat) (i j : Nat) : Nat :=
  let x19 := fun i j => f19Of rnd (x i j)
  let am := fun i j => (dotBlock x19 (fun k j => x19 j k) none i j).1
  let s := fun i j => (rne32 (fmulX b (Fmt.fp32.decode (am i j)))).1
  let p := fun i j => (dotBlock (fun i k => f19Of rnd (am i k)) (fun k j => f19Of rnd (am k j)) none i j).1
  let bm := fun i j => if c.isZero then s i j else (rne32 (fmaMat c (Fmt.fp32.decode (p i j)) (Fmt.fp32.decode (s i j)))).1
  let q := (dotBlock (fun i k => f19Of rnd (bm i k)) x19 none i j).1
  (rne32 (fmaMat a (Fmt.fp32.decode (x i j)) (Fmt.fp32.decode q))).1

/-! ### Numbers (R42, R54) -/

/-- The number a finite value stands for. -/
def Machine.FVal.value : FVal → Rat
  | .fin n m e => (if n then -1 else 1) * (m : Rat) * (2 : Rat) ^ e
  | _ => 0

/-- An encoding of the format: a number of the container's width, with its unused low bits zero (R42, R43). -/
abbrev Machine.Fmt.code (f : Fmt) (x : Nat) : Prop := x < 2 ^ (8 * f.bytes) ∧ x % 2 ^ f.low = 0

/-! ### Rows of frames and of the twin link -/

/-- The rows of received frames, each with the packets that are its own: by opcode (R298), by KIND of a COLLECTIVE segment (R318) and of a
sparse exchange (R320); a packet of an unallocated KIND goes with the first row of its opcode. -/
def frameRows : List ((Fin 18 → List Byte → Instr) × (Pkt → Bool)) :=
  [(.write, isOp 1), (.read, isOp 2), (.readResp, isOp 3), (.faoloSend, isOp 4), (.accept, isOp 5), (.refuse, isOp 6), (.ack, isOp 7),
   (.sack, isOp 8), (.credit, isOp 9), (.sync, isOp 10), (.syncAck, isOp 11)] ++
  [(.report, fun p => isColl 1 p || (isOp 0x10 p && oddKind 8 p)), (.partialSeg, isColl 2), (.result, isColl 3), (.vote, isColl 4),
   (.counts, isColl 5), (.data, isColl 6), (.shardsum, isColl 7), (.live, isColl 8)] ++
  [(.lookupReq, fun p => isSparse 1 p || (isOp 0x11 p && oddKind 7 p)), (.lookupResp, isSparse 2), (.gatherReq, isSparse 3),
   (.gatherResp, isSparse 4), (.l1Report, isSparse 5), (.l1Result, isSparse 6), (.l1End, isSparse 7)]

/-- The messages of the twin link (R346). -/
def Instr.ofTwinLink : Instr → Bool
  | .pairing _ | .item _ _ _ _ _ | .itemAck _ _ _ _ | .itemNak _ _ _ | .order _ _ _ _ | .drop _ _ _ | .evidence _ _ _ _ | .deviceDigest _ _ _ _
  | .commitNotice _ _ _ _ _ _ _ _ | .shadowDelta _ _ _ _ | .takeoverNotice | .stepAbandon _ _ | .relay _ _ => true
  | _ => false

end Sys2Proof
end

