-- ==== Sys2Proof/WellFormed.lean ====
section
/-! DEFINITION. Operands a sender can give: what the manual limits about a command beyond the types of its operands. `exec` gives
every command a next state whether or not it is well-formed; well-formedness says which commands the manual describes. -/

namespace Sys2Proof

/-- No element twice. -/
def distinctList {α : Type} [DecidableEq α] : List α → Bool
  | [] => true
  | x :: r => !r.contains x && distinctList r

/-- An access of n bytes that a master issues: 1 byte to 16 MiB. -/
def accessLen (n : Nat) : Bool := 1 ≤ n && n ≤ 16777216
/-- A write that stays inside one 64-byte granule (R273). -/
def inGranule (a : Addr) (n : Nat) : Bool := 1 ≤ n && a.toNat % 64 + n ≤ 64
/-- Symbols in error are named once (R274). -/
def symbolsOk (bad : List (Fin 68 × Byte)) : Bool := distinctList (bad.map fun e => e.1)
/-- A digest (R364, R365). -/
def digestOk (d : List Byte) : Bool := d.length == 32

/-- Well-formed commands. -/
def Instr.wf : Instr → Bool
  | .registerWrite _ _ bs => accessLen bs.length
  | .masterAccess (.read _ _ n) => accessLen n
  | .masterAccess (.write _ _ bs) => accessLen bs.length
  | .twinWindowAccess _ a n bs =>
    0x400000000000 ≤ a.toNat && a.toNat < 0x800000000000 &&
      (match bs with
       | some d => accessLen d.length && d.length == n
       | none => accessLen n)
  | .granuleRead _ _ bad => symbolsOk bad
  | .granuleWrite _ a d => inGranule a d.data.length && symbolsOk d.bad
  | .patrolScrub _ f =>
    distinctList (f.bad.map fun g => g.1) && distinctList (f.later.map fun g => g.1) && (f.bad ++ f.later).all fun g => symbolsOk g.2
  | .item _ _ _ _ bytes => 1 ≤ bytes.length && bytes.length ≤ 16777216
  | .deviceDigest _ _ dd _ => digestOk dd
  | .commitNotice _ _ _ _ _ _ _ dd => digestOk dd
  | .catchup _ _ _ _ _ dd _ _ => digestOk dd
  | .relay _ packet => 32 ≤ packet.length
  | .flushComplete n _ => distinctList n.channels && n.channels != []
  | .linkUp port rate _ => rate.val != 3 || port.val < 16
  | .samplePreload x => x.shift.length == 675
  | .thermTrip _ celsius => 115 ≤ celsius.toNat
  | _ => true

end Sys2Proof
end

