-- ==== Sys2Proof/Certificates/Slice0/Obligations.lean ====
section
/-! DEFINITION. What the model claims of the hardware, for the provers. -/

open Sys2Proof Sys2Proof.Machine

/-! ### The machine -/

/-- A step takes the command at the front of the queue and is that command's effect with the rest of the queue; commands run first in,
first out. That commands wait in a queue, and that each is one step, is the model's choice (log entry 1): the spec's device takes them as
they come. -/
def Obligations.StepRunsFront : Prop :=
  ∀ (s : State) (c : Instr) (rest : List Instr), s.pending = c :: rest → step s = exec c { s with pending := rest }

/-- R469: while no command waits the clock runs: 5 ns of uptime, once the root PLL has locked. Without its lock nothing happens. R469 gives
the counter's rate; that an idle step is one tick of it, and that time passes in no other step, is the model's choice (log entry 3). A warm
start on its way to READY, which an idle step ends (log entry 74), is left to ResetsAndStarts. -/
def Obligations.IdleTick : Prop :=
  ∀ s : State, s.pending = [] → s.early = none →
    (s.pllLocked = false → step s = .next s) ∧
    (s.pllLocked = true → ∃ t, step s = .next t ∧ t.uptime = s.uptime + 5 ∧ t.pending = [] ∧ t.hbm = s.hbm ∧ t.items = s.items ∧
      (s.on && s.ready = false → t = { s with uptime := s.uptime + 5 }))

/-- No command stops the machine, none adds to the queue or alters mask ROM (R422), and only the loss of power and the lock of the root PLL
touch the clock and the power (R407, R469). That nothing adds to the queue is the model's choice (log entry 1); that no other command touches
clock and power is read from the spec (log entry 105). -/
def Obligations.CommandsKeepTheClock : Prop :=
  ∀ (c : Instr) (s : State), ∃ t, exec c s = .next t ∧ t.pending = s.pending ∧ t.rom = s.rom ∧
    (c ≠ .powerOnReset → c ≠ .rootPllLock → t.uptime = s.uptime ∧ t.pllLocked = s.pllLocked ∧ t.pwrgood = s.pwrgood)

/-- R398, R407, R469: an invariant of every step. Power is good exactly while the root PLL is locked; the uptime counter counts in 5 ns; and
while power is not good, everything that power holds is as State.reset has it. That lock and PWRGOOD come and go together is the model's
choice (log entry 105): R398 locks the PLL a time after power is good, and an unlock of R460 leaves PWRGOOD high. -/
def Obligations.ClockInvariant : Prop :=
  ∀ s : State, s.clocked → ∃ t, step s = .next t ∧ t.clocked

/-- The state after reset meets that invariant (R407, R408): no power, no lock, no image. What the spec leaves open there is the model's choice:
memory that nothing has written (log entry 2), the tiles before a program reaches them (log entry 7), and registers before a start, which
stand at their values after start (log entry 8). -/
def Obligations.ResetIsClocked : Prop :=
  State.reset.clocked ∧ State.reset.pwrgood = false ∧ State.reset.ready = false ∧ State.reset.on = false ∧ State.reset.still ∧
    State.reset.memsWf = true ∧ (∀ c, State.reset.tile c = {}) ∧ (∀ k i j, State.reset.reg k i j = k.dflt % 2 ^ 64)

/-- R407, R408: without power no unit acts: every command but the two that bring power, the fall of PFAIL_N, which only gives the pins back
(R489), and the instructions of the test access port leaves the state as it is. -/
def Obligations.UnpoweredInert : Prop :=
  ∀ (c : Instr) (s : State), s.clocked → s.pwrgood = false → c.ofTap = false → c ≠ .powerOnReset → c ≠ .rootPllLock →
    exec c s = .next (if c = .clocheFlush then { s with pfailN := false, jtagPins := false } else s)

/-- R37, R303: on a device in which nothing waits for another event, nothing is carried out beside a command's own effect. -/
def Obligations.StillDevice : Prop :=
  ∀ u : State, u.still → u.pump.settle = u

/-! ### Accesses and registers -/

/-- R6, R9, R11: a write of the whole of a register that has no action of its own sets its RW fields, clears the W1C bits written as 1 and
leaves every other field; a write that reaches a CFG field after READY is also recorded. No other register changes. R83, R109: a write of
TOKEN(n) sets the count to the low 16 bits written, one of TOKEN_INC(n) adds them, held at 65,535 with TOKEN_OVF; token 0 stays 0. -/
def Obligations.RegisterWrites : Prop :=
  (∀ (s : State) (m : Master) (k : RegKind) (i j : Nat) (data : List Byte),
    s.calm → k.valid i j → k.acts = false →
    data.length = (if k.row.wide then 8 else 4) →
      ∃ u, exec (.registerWrite m (BitVec.ofNat 48 (k.at i j)) data) s =
          .next (if s.ready && k.row.flds.any (fun f => f.acc == .cfg) then u.cfgIgnored (RegKind.src (k.at i j)) (k.at i j) m else u) ∧
        u = { s with regs := u.regs, latches := u.latches } ∧
        (∀ (q : RegKind) (a b : Nat), q.valid a b → (q, a, b) ≠ (k, i, j) → u.reg q a b = s.reg q a b) ∧
        ∀ b, b < 64 → (u.reg k i j).testBit b =
          match (k.row.flds.find? fun f => decide (f.lo ≤ b ∧ b < f.lo + f.w)).map Fld.acc with
          | some .rw => (leNat data).testBit b
          | some .w1c => (s.reg k i j).testBit b && !(leNat data).testBit b
          | _ => (s.reg k i j).testBit b) ∧
  (∀ (s : State) (m : Master) (t : TileId) (tok : Fin 64) (v : BitVec 32),
    let T := s.tile (tileCode t)
    let add := (T.token tok).toNat + v.toNat % 65536
    s.calm →
    (∃ s', exec (.tokenWrite m t tok v) s = .next s' ∧ OnlyTile s s' (tileCode t) ∧
      let T' := s'.tile (tileCode t)
      T' = { T with tokens := T'.tokens } ∧ ∀ n, T'.token n = if n = tok.val ∧ n ≠ 0 then BitVec.ofNat 16 v.toNat else T.token n) ∧
    (∃ s', exec (.tokenInc m t tok v) s = .next s' ∧ OnlyTile s s' (tileCode t) ∧
      let T' := s'.tile (tileCode t)
      T' = { T with tokens := T'.tokens, tokenOvf := T'.tokenOvf } ∧
      (∀ n, T'.token n = if n = tok.val ∧ n ≠ 0 then BitVec.ofNat 16 (min add 65535) else T.token n) ∧
      T'.tokenOvf = if tok.val ≠ 0 ∧ add > 65535 then T.tokenOvf ||| (1#64 <<< tok.val) else T.tokenOvf))

/-- R16, R35, R36, R273: an access by a master to memory within one granule writes exactly its bytes, and answers the bytes read; one that
no unit answers is recorded, a read as zeros. R34: while the twin can be reached, an access that came over the twin link to its window is
the same access at the same place of this device, and what would run into this device's own window is unmapped; otherwise nothing arrives. -/
def Obligations.MasterAccesses : Prop :=
  (∀ (s : State) (m : Master) (a : Addr) (d : List Byte) (n st loc : Nat),
    s.on = true → s.still →
    (s.place a.toNat = .hbm st loc → s.sound (physOf st loc / 64) → d ≠ [] → a.toNat % 64 + d.length ≤ 64 →
      ∃ s', exec (.masterAccess (.write m a d)) s = .next s' ∧ mgets s'.hbm (physOf st loc) d.length = d ∧
        (∀ p, ¬ (physOf st loc ≤ p ∧ p < physOf st loc + d.length) → mget s'.hbm p = mget s.hbm p) ∧
        (physOf st loc / 64 ∉ s.poison → s' = { s with hbm := s'.hbm, poison := s'.poison, regs := s'.regs } ∧
          ∀ g, g ∈ s'.poison ↔ g ∈ s.poison)) ∧
    (s.place a.toNat = .hbm st loc → s.sound (physOf st loc / 64) → 0 < n → a.toNat % 64 + n ≤ 64 → physOf st loc / 64 ∉ s.poison →
      ∃ s', exec (.masterAccess (.read m a n)) s = .next s' ∧ s'.rdata = mgets s.hbm (physOf st loc) n ∧
        s' = { s with rdata := s'.rdata, regs := s'.regs }) ∧
    (s.place a.toNat = .entry → 0 < n → n ≤ s.runTo a.toNat →
      exec (.masterAccess (.read m a n)) s = .next { s.unmapped (Master.entry m) a.toNat m with rdata := List.replicate n 0 }) ∧
    (s.place a.toNat = .entry → d ≠ [] → d.length ≤ s.runTo a.toNat →
      exec (.masterAccess (.write m a d)) s = .next (s.unmapped (Master.entry m) a.toNat m))) ∧
  (∀ (s : State) (m : Master) (a : Addr) (n : Nat) (d : List Byte), 0x400000000000 ≤ a.toNat → a.toNat < 0x800000000000 → s.unitLost = [] →
    (s.twinReach = true →
      (a.toNat + d.length ≤ 0x800000000000 →
        exec (.twinWindowAccess m a n (some d)) s = exec (.masterAccess (.write m (a - 0x400000000000#48) d)) s) ∧
      (a.toNat + n ≤ 0x800000000000 →
        exec (.twinWindowAccess m a n none) s = exec (.masterAccess (.read m (a - 0x400000000000#48) n)) s)) ∧
    (s.twinReach = true → s.on = true → s.still → 0x630040000000 ≤ a.toNat →
      let u := (s.unmapped (Master.entry m) (a.toNat - 0x400000000000) m).unmapped (Master.entry m) 0x400000000000 m
      (0x800000000000 < a.toNat + d.length → exec (.twinWindowAccess m a n (some d)) s = .next u) ∧
      (0x800000000000 < a.toNat + n → exec (.twinWindowAccess m a n none) s = .next { u with rdata := List.replicate n 0 })) ∧
    (s.twinReach = false → s.still → exec (.twinWindowAccess m a n (some d)) s = .next s ∧ exec (.twinWindowAccess m a n none) s = .next s))

/-- R273, R274: a granule read corrects one wrong symbol and counts it; with two or more, or in a granule marked POISONED, it is
uncorrectable: the granule is marked, and stays so under a narrower write, which reads and checks it too, while a write of the whole
granule clears the mark. R28, R30, R462, R467, R493: a mesh packet with a good CRC goes on; one with a bad CRC, at a router on its way, is
discarded with an event of that compute die's mesh that names the router, the port and the virtual channel; an operation gets no answer
until it is sent again under the same tag, a chunk is lost for the tiles it reaches through that router, and a multicast record for that
member. R283: a tripped stack answers zeros, and writes nothing. R429: none of this in diagnostic mode. The model's choices: the bytes of an
uncorrectable granule are kept as they were read (log entry 67), UE_ADDR is the granule's address (log entry 106), and which packets a
resend sends again, and on which way a router meets them (log entries 107 and 108). -/
def Obligations.GranulesAndPackets : Prop :=
  (∀ (s : State) (m : Master) (a : Addr) (st loc : Nat) (bad : List (Fin 68 × Byte)) (d : List Byte),
    let p := physOf st (loc / 64 * 64)
    let n := (badSymbols bad).length
    s.diag = false →
    (s.on = true → s.place a.toNat = .trip st →
      exec (.granuleRead m a bad) s = .next { s.unmapped (srcDie st) a.toNat m with rdata := List.replicate 64 0 } ∧
      exec (.granuleWrite m a ⟨d, bad⟩) s = .next (s.unmapped (srcDie st) a.toNat m)) ∧
    (s.on = true → s.place a.toNat = .hbm st loc → s.sound (p / 64) →
      (n ≤ 1 → p / 64 ∉ s.poison →
        ∃ s', exec (.granuleRead m a bad) s = .next s' ∧ s'.rdata = mgets s.hbm p 64 ∧
          s' = { s with rdata := s'.rdata, regs := s'.regs } ∧
          (st < 16 → s'.reg .stEcc st =
            if n = 1 then setBits (s.reg .stEcc st) 0 32 (min (s.fld .stEcc 0 32 st + 1) (2 ^ 32 - 1)) else s.reg .stEcc st)) ∧
      (2 ≤ n ∨ p / 64 ∈ s.poison →
        ∃ s', exec (.granuleRead m a bad) s = .next s' ∧ p / 64 ∈ s'.poison ∧ s'.rdata = mgets s'.hbm p 64 ∧
          (st < 16 → s'.fld .stUeAddr 0 48 st = a.toNat / 64 * 64) ∧
          (∀ b, ¬ (p ≤ b ∧ b < p + 64) → mget s'.hbm b = mget s.hbm b) ∧ (bad = [] → ∀ b, mget s'.hbm b = mget s.hbm b)) ∧
      (d ≠ [] → a.toNat % 64 + d.length ≤ 64 →
        ∃ s', exec (.granuleWrite m a ⟨d, bad⟩) s = .next s' ∧ mgets s'.hbm (physOf st loc) d.length = d ∧ s'.upset = s.upset ∧
          (p / 64 ∈ s'.poison ↔ d.length < 64 ∧ (p / 64 ∈ s.poison ∨ 2 ≤ n)) ∧
          (∀ b, ¬ (p ≤ b ∧ b < p + 64) → mget s'.hbm b = mget s.hbm b) ∧
          ((d.length < 64 → bad = [] ∨ (n ≤ 1 ∧ p / 64 ∉ s.poison)) →
            ∀ b, ¬ (physOf st loc ≤ b ∧ b < physOf st loc + d.length) → mget s'.hbm b = mget s.hbm b)))) ∧
  (∀ (s : State) (site : TileId) (port : Fin 7) (vc : Fin 4) (pkt : PktRef), s.on = true →
    let c := tileCode site
    exec (.meshPacketReceive site port vc true pkt) s = .next s ∧
    (s.diag = true ∨ s.meshAt c port.val vc.val pkt = false → exec (.meshPacketReceive site port vc false pkt) s = .next s) ∧
    (s.diag = false → s.meshAt c port.val vc.val pkt = true →
      ∃ s', exec (.meshPacketReceive site port vc false pkt) s = .next s' ∧
        let u := s.event (0xFF10 + dieOfTile c) 0x0302 (natLe 2 c ++ natLe 1 port.val ++ natLe 1 vc.val)
        (∀ t tag o, pkt = .tileOp t tag → (s.tile (tileCode t)).op tag = some o → o.held = false → OnlyTile u s' (tileCode t) ∧
          (s'.tile (tileCode t)).op tag = some { o with ans := none, lost := true }) ∧
        (∀ t id r, pkt = .streamReq t id → (s.tile (tileCode t)).reqs.find? (fun x => x.id == id) = some r → OnlyTile u s' (tileCode t) ∧
          (s'.tile (tileCode t)).reqs.find? (fun x => x.id == id) =
            some (if r.forward then { r with fwdLost := true } else { r with resp := none, lost := true })) ∧
        (∀ src a answer, pkt = .unitOp src a answer → s' = { u with unitLost := s.unitLost ++ [(src.toNat, a.toNat, answer)] }) ∧
        (∀ n L, pkt = .chunk n → s.loader = some L → ∃ L', s' = { u with loader := some { L with toSend := L' } } ∧
          L'.map (·.1) = L.toSend.map (·.1) ∧ ∀ x ∈ L', n ∈ x.2 → ((c % 64, c / 64), port.val) ∉ (L.way x.1).1) ∧
        (∀ t id, pkt = .mcast t id → OnlyTile u s' (tileCode t) ∧
          (s'.tile (tileCode t)).mcIn = (s.tile (tileCode t)).mcIn.filter fun m => m.id != id)) ∧
    (s.diag = false → ∀ t tag o, pkt = .tileOp t tag → (s.tile (tileCode t)).op tag = some o →
      ∃ s', exec (.operationResend pkt) s = .next s' ∧ OnlyTile s s' (tileCode t) ∧
        (s'.tile (tileCode t)).op tag =
          some (if o.lost then { o with lost := false, no := (s.tile (tileCode t)).nextTag } else o) ∧
        (s'.tile (tileCode t)).mem = (s.tile (tileCode t)).mem) ∧
    (s.diag = false → ∀ t id r, pkt = .streamReq t id → (s.tile (tileCode t)).reqs.find? (fun x => x.id == id) = some r →
      ∃ s', exec (.operationResend pkt) s = .next s' ∧ OnlyTile { s with fwdNext := s.fwdNext + 1 } s' (tileCode t) ∧
        (s'.tile (tileCode t)).reqs.find? (fun x => x.id == id) =
          some (if r.fwdLost then { r with fwdLost := false, fwdNo := s.fwdNext } else r)) ∧
    (s.diag = false → ∀ src a answer, pkt = .unitOp src a answer →
      exec (.operationResend pkt) s = .next { s with unitLost := s.unitLost.erase (src.toNat, a.toNat, answer) }) ∧
    (((∃ n, pkt = .chunk n) ∨ ∃ t id, pkt = .mcast t id) → exec (.operationResend pkt) s = .next s))

/-- R268, R269, R271: the map from device addresses to places in DRAM is one to one, and keeps the place within 4 KiB. -/
def Obligations.AddressMapIsOneToOne : Prop :=
  ∀ (s : State) (a b : Nat) (x : Nat × Nat), s.resolve a = some x →
    x.1 < 16 ∧ x.2 % 4096 = a % 4096 ∧ (s.resolve b = some x → a = b)

/-! ### Instructions of a tile -/

/-- R85, R88, R92, R96: NOP, FENCE and YIELD change nothing but the PC, the tokens they name and the sequencer's choice. A FENCE
issues only once the operations it names have completed. -/
def Obligations.InstructionsWithoutResult : Prop :=
  ∀ (s : State) (t : TileId) (busy : BitVec 8) (k : Nat) (w : IWord),
    let T := s.tile (tileCode t)
    let Same := fun s' => Ran s s' t k w id ((T.slot k).pc + 1) (T.slot k).sreg (T.slot k).areg
    (Issues s t busy .nop k w → ∃ s', exec (.nop t busy) s = .next s' ∧ Same s') ∧
    (Issues s t busy .yield k w → ∃ s', exec (.yield t busy) s = .next s' ∧ Same s' ∧ (s'.tile (tileCode t)).yielded = true) ∧
    (Issues s t busy .fence k w →
      (∃ s', exec (.fence t busy) s = .next s' ∧ Same s') ∧
      ∀ o ∈ T.ops, T.owns k o = true → ¬ (w.f 0 1 = 1 ∧ o.isGst) ∧ ¬ (w.f 1 1 = 1 ∧ o.isGld) ∧ ¬ (w.f 2 1 = 1 ∧ o.isSend))

/-- R93: ALU and ALUI write the function of their operands, modulo 2^32, to s[rd]. -/
def Obligations.AluResults : Prop :=
  ∀ (s : State) (t : TileId) (busy : BitVec 8) (k : Nat) (w : IWord),
    let K := (s.tile (tileCode t)).slot k
    let Writes := fun (s' : State) v => Ran s s' t k w id (K.pc + 1) (Sys2Proof.setS K.sreg (w.f 41 5) (BitVec.ofInt 32 v)) K.areg
    (Issues s t busy .alu k w →
      ∃ s', exec (.alu t busy) s = .next s' ∧ Writes s' (aluResult (w.f 27 4) (K.sreg (w.f 36 5)) (K.sreg (w.f 31 5)))) ∧
    (Issues s t busy .alui k w →
      ∃ s', exec (.alui t busy) s = .next s' ∧
        Writes s' (aluResult (w.f 32 4) (K.sreg (w.f 36 5)) (BitVec.ofNat 32 (w.f 0 32))))

/-- R94: ADDR computes on address registers modulo 2^48; a FUNC of 4 or more, or a bit that must be zero, is never issued. -/
def Obligations.AddrResults : Prop :=
  ∀ (s : State) (t : TileId) (busy : BitVec 8) (k : Nat) (w : IWord),
    let K := (s.tile (tileCode t)).slot k
    let as := (K.areg (w.f 40 3)).toNat
    let rs := (K.sreg (w.f 32 5)).toNat
    let S := fun (s' : State) v => Ran s s' t k w id (K.pc + 1) (Sys2Proof.setS K.sreg (w.f 32 5) (BitVec.ofNat 32 v)) K.areg
    let A := fun (s' : State) v => Ran s s' t k w id (K.pc + 1) K.sreg (setAt K.areg (w.f 43 3) (BitVec.ofInt 48 v))
    Issues s t busy .addr k w →
      ∃ s', exec (.addr t busy) s = .next s' ∧
        (w.f 37 3 = 0 → A s' (as + (BitVec.ofNat 32 (w.f 0 32)).toInt)) ∧
        (w.f 37 3 = 1 → A s' ((as + rs * 2 ^ (w.f 0 4) : Nat) : Int)) ∧
        (w.f 37 3 = 2 → A s' ((w.f 0 16 * 2 ^ 32 + rs : Nat) : Int)) ∧
        (w.f 37 3 = 3 → S s' (as / 2 ^ (w.f 0 6))) ∧ w.f 37 3 ≤ 3 ∧
        (w.f 37 3 = 1 → w.f 4 28 = 0) ∧ (w.f 37 3 = 2 → w.f 16 16 = 0 ∧ w.f 40 3 = 0) ∧ (w.f 37 3 = 3 → w.f 6 26 = 0 ∧ w.f 43 3 = 0)

/-- R95: LD reads the operand cache; a value of 1 or 2 bytes is extended, one of 8 bytes fills a pair. -/
def Obligations.LdResults : Prop :=
  ∀ (s : State) (t : TileId) (busy : BitVec 8) (k : Nat) (w : IWord),
    let T := s.tile (tileCode t)
    let K := T.slot k
    let size := w.f 36 2
    let bs := T.ocGet (memAddr K w) (2 ^ size)
    let rd := w.f 41 5
    Issues s t busy .ld k w →
      memAddr K w = (((K.areg (w.f 38 3)).toNat : Int) + (BitVec.ofNat 20 (w.f 0 20)).toInt) % 2 ^ 20 ∧ memAddr K w % 2 ^ size = 0 ∧
      (size = 3 → rd % 2 = 0) ∧
      ∃ s', exec (.ld t busy) s = .next s' ∧
        Ran s s' t k w id (K.pc + 1)
          (if size = 3 then
            Sys2Proof.setS (Sys2Proof.setS K.sreg rd (BitVec.ofNat 32 (leNat bs))) (rd + 1) (BitVec.ofNat 32 (leNat bs / 2 ^ 32))
          else Sys2Proof.setS K.sreg rd (BitVec.ofInt 32 (bytesValue bs (w.f 35 1 == 1 && size != 2)))) K.areg

/-- R95: ST stores s[rs], or the pair, to the operand cache; every other byte of the tile's memory stays. -/
def Obligations.StStores : Prop :=
  ∀ (s : State) (t : TileId) (busy : BitVec 8) (k : Nat) (w : IWord),
    let T := s.tile (tileCode t)
    let K := T.slot k
    let n := 2 ^ (w.f 36 2)
    let v := (K.sreg (w.f 41 5)).toNat + (if w.f 36 2 = 3 then (K.sreg (w.f 41 5 + 1)).toNat * 2 ^ 32 else 0)
    Issues s t busy .st k w →
      ∃ s', exec (.st t busy) s = .next s' ∧
        Ran s s' t k w (fun U => { U with mem := (s'.tile (tileCode t)).mem }) (K.pc + 1) K.sreg K.areg ∧
        leNat ((s'.tile (tileCode t)).ocGet (memAddr K w) n) = v % 256 ^ n ∧
        ∀ a, ¬ (memAddr K w ≤ a ∧ a < memAddr K w + n) → mget (s'.tile (tileCode t)).mem a = mget T.mem a

/-- R97, R98: BR, J, JAL and JR set the PC; JAL also writes PC + 1 to s[RX]. -/
def Obligations.BranchesAndJumps : Prop :=
  ∀ (s : State) (t : TileId) (busy : BitVec 8) (k : Nat) (w : IWord),
    let K := (s.tile (tileCode t)).slot k
    let To := fun (s' : State) pc => Ran s s' t k w id pc K.sreg K.areg
    (Issues s t busy .br k w →
      ∃ s', exec (.br t busy) s = .next s' ∧
        (branchTaken (w.f 43 3) (K.sreg (w.f 38 5)) (K.sreg (w.f 33 5)) →
          To s' (BitVec.ofInt 13 ((K.pc.toNat : Int) + (BitVec.ofNat 16 (w.f 0 16)).toInt))) ∧
        (¬ branchTaken (w.f 43 3) (K.sreg (w.f 38 5)) (K.sreg (w.f 33 5)) → To s' (K.pc + 1)) ∧
        w.f 43 3 ≤ 6 ∧ (w.f 43 3 = 6 → w.f 38 5 = 0 ∧ w.f 33 5 = 0)) ∧
    (Issues s t busy .j k w → ∃ s', exec (.j t busy) s = .next s' ∧ To s' (BitVec.ofNat 13 (w.f 0 13))) ∧
    (Issues s t busy .jal k w →
      ∃ s', exec (.jal t busy) s = .next s' ∧
        Ran s s' t k w id (BitVec.ofNat 13 (w.f 0 13))
          (Sys2Proof.setS K.sreg (w.f 39 5) (BitVec.ofNat 32 ((K.pc.toNat + 1) % 8192))) K.areg) ∧
    (Issues s t busy .jr k w →
      ∃ s', exec (.jr t busy) s = .next s' ∧ To s' (BitVec.ofNat 13 (K.sreg (w.f 39 5)).toNat))

/-- R83, R102: TSET, TSETR, TADD and TTAKE change the named token after the wait token is consumed; TREAD reads the count of the start
of the cycle; PROGRESS counts. -/
def Obligations.TokenInstructions : Prop :=
  ∀ (s : State) (t : TileId) (busy : BitVec 8) (k : Nat) (w : IWord),
    let T := s.tile (tileCode t)
    let K := T.slot k
    let tok := w.f 37 6
    let imm := w.f 0 16
    let C := waitTaken T w
    let Sets := fun (s' : State) (v : Nat) (o : BitVec 64) =>
      let C' := setAt C tok (BitVec.ofNat 16 v)
      Issued s s' t k w (signalled w C') (signalOvf w C' o) id (OneSlot T k (K.pc + 1) K.sreg K.areg)
    (Issues s t busy .tset k w → ∃ s', exec (.tset t busy) s = .next s' ∧ Sets s' imm T.tokenOvf) ∧
    (Issues s t busy .tsetr k w → ∃ s', exec (.tsetr t busy) s = .next s' ∧ Sets s' (K.sreg (w.f 32 5)).toNat T.tokenOvf) ∧
    (Issues s t busy .tadd k w →
      ∃ s', exec (.tadd t busy) s = .next s' ∧
        Sets s' (min ((C tok).toNat + imm) 65535) (if (C tok).toNat + imm > 65535 then T.tokenOvf ||| (1#64 <<< tok) else T.tokenOvf)) ∧
    (Issues s t busy .ttake k w →
      imm ≤ (C tok).toNat ∧ ∃ s', exec (.ttake t busy) s = .next s' ∧ Sets s' ((C tok).toNat - imm) T.tokenOvf) ∧
    (Issues s t busy .tread k w →
      ∃ s', exec (.tread t busy) s = .next s' ∧
        Ran s s' t k w id (K.pc + 1) (Sys2Proof.setS K.sreg (w.f 32 5) (BitVec.ofNat 32 (T.token tok).toNat)) K.areg) ∧
    (Issues s t busy .progress k w →
      ∃ s', exec (.progress t busy) s = .next s' ∧
        Ran s s' t k w (fun U => { U with progress := T.progress + 1 }) (K.pc + 1) K.sreg K.areg)

/-- R82, R101: SPAWN starts a free slot, or reports with 1 that it cannot. R81, R101, R180: KILL of a slot that is not IDLE: the slot is
KILLED, its loads and messages are cancelled, its messages that have not left are dropped, its streams are cancelled; stores go on, and
the tile's memory stays. An IDLE slot stays as it is. R85, R100: HALT leaves the PC at itself, records CODE, consumes its wait token and
signals nothing. -/
def Obligations.TaskInstructions : Prop :=
  (∀ (s : State) (t : TileId) (busy : BitVec 8) (k : Nat) (w : IWord),
    let T := s.tile (tileCode t)
    let K := T.slot k
    let n := w.f 40 3
    let rd := w.f 35 5
    Issues s t busy .spawn k w →
      ∃ s', exec (.spawn t busy) s = .next s' ∧
        (n = k ∨ (T.slot n).st = .live → Ran s s' t k w id (K.pc + 1) (Sys2Proof.setS K.sreg rd 1) K.areg) ∧
        (n ≠ k → (T.slot n).st ≠ .live →
          Done s s' t k w (fun U => { U with nextTask := T.nextTask + 1 }) fun T' =>
            (∀ j, j ≠ k → j ≠ n → T'.slot j = T.slot j) ∧ (T'.slot n).task = T.nextTask ∧
            SlotHas (T'.slot k) .live (K.pc + 1) (Sys2Proof.setS K.sreg rd 0) K.areg K.code ∧
            SlotHas (T'.slot n) .live (BitVec.ofNat 13 (w.f 0 13))
              (setAt (setAt (fun _ => 0) 1 (K.sreg (w.f 30 5))) 2 (BitVec.ofNat 32 n)) K.areg (T.slot n).code)) ∧
  (∀ (s : State) (t : TileId) (busy : BitVec 8) (k : Nat) (w : IWord),
    let T := s.tile (tileCode t)
    let K := T.slot k
    let n := w.f 40 3
    Issues s t busy .kill k w →
      ∃ s', exec (.kill t busy) s = .next s' ∧
        ((T.slot n).st = .idle → Ran s s' t k w id (K.pc + 1) K.sreg K.areg) ∧
        ((T.slot n).st ≠ .idle →
          let T' := s'.tile (tileCode t)
          (∀ j, j ≠ n → j ≠ k → T'.slot j = T.slot j) ∧ (n ≠ k → SlotHas (T'.slot k) K.st (K.pc + 1) K.sreg K.areg K.code) ∧
          SlotHas (T'.slot n) .killed (if n = k then K.pc + 1 else (T.slot n).pc) (T.slot n).sreg (T.slot n).areg (T.slot n).code ∧
          s'.hbm = s.hbm ∧
          (∀ o ∈ T'.ops, T.owns n o = true → o.isGst = false → o.cancelled = true ∧ (o.isSend = true → o.held = false)) ∧
          (∀ o ∈ T.ops, o.isGst = true → o ∈ T'.ops) ∧
          (∀ q, q < 32 → (T.str q).owner = n → (T'.str q).st = 0) ∧ T'.mem = T.mem)) ∧
  (∀ (s : State) (t : TileId) (busy : BitVec 8) (k : Nat) (w : IWord),
    let T := s.tile (tileCode t)
    let K := T.slot k
    Issues s t busy .halt k w →
      ∃ s', exec (.halt t busy) s = .next s' ∧
        Issued s s' t k w (waitTaken T w) T.tokenOvf id fun T' =>
          (∀ j, j ≠ k → T'.slot j = T.slot j) ∧ SlotHas (T'.slot k) .halted K.pc K.sreg K.areg (BitVec.ofNat 16 (w.f 0 16)))

/-- R85, R87, R95, R104: GLD, GST and SEND leave the tile as an operation with a fresh tag, and signal nothing yet. R106: a SEND to a row
that does not exist completes at once, with an event that carries the sender and the destination word. -/
def Obligations.OperationsLeave : Prop :=
  (∀ (s : State) (t : TileId) (busy : BitVec 8) (k : Nat) (w : IWord),
    let T := s.tile (tileCode t)
    let K := T.slot k
    let a := glAddr (K.areg (w.f 38 3)) (w.f 0 20)
    let Leaves := fun (s' : State) (o : TileOp) =>
      Issued s s' t k w (waitTaken T w) T.tokenOvf
        (fun U =>
          { U with ops := T.ops ++ [{ o with tag := T.nextTag, no := T.nextTag, slot := k, task := K.task, sig := w.sig }],
                   nextTag := T.nextTag + 1 })
        (OneSlot T k (K.pc + 1) K.sreg K.areg)
    (Issues s t busy .gld k w →
      T.globalOut < 64 ∧ a % 2 ^ (w.f 36 2) = 0 ∧
      ∃ s', exec (.gld t busy) s = .next s' ∧
        Leaves s' { tag := 0, slot := 0, kind := .gld (w.f 41 5) (w.f 36 2) (w.f 35 1 == 1), addr := a, own := ownOff (tileCode t) a }) ∧
    (Issues s t busy .gst k w →
      T.globalOut < 64 ∧ a % 2 ^ (w.f 36 2) = 0 ∧
      ∃ s', exec (.gst t busy) s = .next s' ∧
        Leaves s' { tag := 0, slot := 0, kind := .gst (storeBytes K (w.f 41 5) (w.f 36 2)), addr := a, own := ownOff (tileCode t) a }) ∧
    (Issues s t busy .send k w → bfld (K.sreg (w.f 38 5)) 6 6 < 36 →
      T.sendsOut < 4 ∧
      ∃ s', exec (.send t busy) s = .next s' ∧
        Leaves s' { tag := 0, slot := 0, kind := .send (K.sreg (w.f 38 5)) (T.ocGet (memAddr K w) (w.f 29 9 + 1)),
                    held := sendBlocked T.ops (K.sreg (w.f 38 5)) })) ∧
  (∀ (s : State) (t : TileId) (busy : BitVec 8) (k : Nat) (w : IWord),
    let T := s.tile (tileCode t)
    let K := T.slot k
    let word := K.sreg (w.f 38 5)
    Issues s t busy .send k w → 36 ≤ bfld word 6 6 →
      ∃ s' s'', exec (.send t busy) s = .next s'' ∧ Ran s s' t k w id (K.pc + 1) K.sreg K.areg ∧
        s'' = s'.event (tileCode t) 0x0202 (natLe 2 (tileCode t) ++ natLe 4 word.toNat))

/-- R107, R108: RECV takes the oldest message of its mailbox, or answers 0; MBOX STAT counts, MBOX CFG sets the mailbox's token. That
a copy past the end of the operand cache wraps byte by byte is the model's choice (log entry 50). -/
def Obligations.MailboxInstructions : Prop :=
  ∀ (s : State) (t : TileId) (busy : BitVec 8) (k : Nat) (w : IWord),
    let T := s.tile (tileCode t)
    let K := T.slot k
    (Issues s t busy .recv k w →
      memAddr K w = (((K.areg (w.f 43 3)).toNat : Int) + (BitVec.ofNat 20 (w.f 0 20)).toInt) % 2 ^ 20 ∧
      ∃ s', exec (.recv t busy) s = .next s' ∧
        (kget T.mboxes (w.f 34 4) [] = [] → Ran s s' t k w id (K.pc + 1) (Sys2Proof.setS K.sreg (w.f 38 5) 0) K.areg) ∧
        ∀ msg rest, kget T.mboxes (w.f 34 4) [] = msg :: rest →
          let T' := s'.tile (tileCode t)
          Ran s s' t k w (fun U => { U with mem := T'.mem, mboxes := T'.mboxes }) (K.pc + 1)
            (Sys2Proof.setS K.sreg (w.f 38 5) (BitVec.ofNat 32 (msg.bytes.length * 2 ^ 16 + msg.src))) K.areg ∧
          (∀ m, kget T'.mboxes m [] = if m = w.f 34 4 then rest else kget T.mboxes m []) ∧
          (msg.bytes.length ≤ 256 → T'.ocGet (memAddr K w) msg.bytes.length = msg.bytes) ∧
          ∀ a, (∀ i, i < msg.bytes.length → a ≠ (memAddr K w + i) % 2 ^ 20) → mget T'.mem a = mget T.mem a) ∧
    (Issues s t busy .mboxStat k w →
      ∃ s', exec (.mboxStat t busy) s = .next s' ∧
        Ran s s' t k w id (K.pc + 1)
          (Sys2Proof.setS K.sreg (w.f 32 5) (BitVec.ofNat 32 (kget T.mboxes (w.f 28 4) []).length)) K.areg) ∧
    (Issues s t busy .mboxCfg k w →
      ∃ s', exec (.mboxCfg t busy) s = .next s' ∧
        Ran s s' t k w (fun U => { U with mboxTok := (s'.tile (tileCode t)).mboxTok }) (K.pc + 1) K.sreg K.areg ∧
        ∀ m, kget (s'.tile (tileCode t)).mboxTok m 0 = if m = w.f 28 4 then BitVec.ofNat 6 (w.f 37 6) else kget T.mboxTok m 0)

/-- R6, R9, R12, R14, R35, R99: TREG reads or writes a 32-bit register of its own tile as any master does. A 64-bit register is read in two
halves that belong to one instant, and written in two that take effect as one; a write of a read-only register changes nothing, one of TILE_ID
is only recorded, and a reserved offset is unmapped. -/
def Obligations.TregAccesses : Prop :=
  ∀ (s : State) (t : TileId) (busy : BitVec 8) (k : Nat) (w : IWord),
    let T := s.tile (tileCode t)
    let K := T.slot k
    let o := w.f 0 16
    let rx := w.f 40 5
    let U := issueFrame T k w
    let m : Master := .task t (Fin.ofNat 8 k)
    let v := (K.sreg rx).toNat
    let L := T.latches
    let Leaves := fun (s' : State) (V : Tile) => OnlyTile s s' (tileCode t) ∧ s'.tile (tileCode t) = V.incToken w.sig 1
    let reads := fun (V : Tile) (n : Nat) => V.modSlot k fun K => K.setS rx (BitVec.ofNat 32 n)
    Issues s t busy .treg k w →
      o % 4 = 0 ∧
      (w.f 45 1 = 0 → tileRegAt o = some true → ∃ s', exec (.treg t busy) s = .next s' ∧
        Leaves s' (reads (tileClear { U with latches := { L with rd := latchSet L.rd m o (BitVec.ofNat 32 (tilePeek t U o / 2 ^ 32)) } } o)
          (tilePeek t U o))) ∧
      (∀ b, w.f 45 1 = 0 → regHit tileRegAt o = .high b → ∃ s', exec (.treg t busy) s = .next s' ∧ b + 4 = o ∧
        Leaves s' (match latchFind L.rd m b with
          | some h => reads { U with latches := { L with rd := latchDrop L.rd m b } } h.toNat
          | none => reads U (tilePeek t U b / 2 ^ 32))) ∧
      (w.f 45 1 = 1 → tileRegAt o = some true → ∃ s', exec (.treg t busy) s = .next s' ∧
        Leaves s' { U with latches := { rd := latchDrop L.rd m o, wr := latchSet L.wr m o (BitVec.ofNat 32 v) } }) ∧
      (∀ b, w.f 45 1 = 1 → regHit tileRegAt o = .high b → ∃ s', exec (.treg t busy) s = .next s' ∧
        let V := { U with latches := { rd := latchDrop L.rd m b, wr := latchDrop L.wr m b } }
        Leaves s' (match latchFind L.wr m b with
          | some lo => tileWrite V b (lo.toNat + v * 2 ^ 32) maskAll
          | none => tileWrite V b (v * 2 ^ 32) maskHigh)) ∧
      (w.f 45 1 = 1 → o ∈ [0x14, 0x18, 0x1C, 0x1004] ∨ (0x1800 ≤ o ∧ o < 0x2000) →
        ∃ s', exec (.treg t busy) s = .next s' ∧ Ran s s' t k w id (K.pc + 1) K.sreg K.areg) ∧
      (w.f 45 1 = 1 → o = 0 → ∃ s' s'', exec (.treg t busy) s = .next s'' ∧ Ran s s' t k w id (K.pc + 1) K.sreg K.areg ∧
        s'' = s'.tileOut (tileCode t) (.cfgIgnored k o)) ∧
      (w.f 45 1 = 1 → regHit tileRegAt o = .none → ∃ s' s'', exec (.treg t busy) s = .next s'' ∧ Ran s s' t k w id (K.pc + 1) K.sreg K.areg ∧
        s'' = s'.tileOut (tileCode t) (.unmapped k o)) ∧
      (w.f 45 1 = 0 → tileRegAt o = some false →
        ∃ s', exec (.treg t busy) s = .next s' ∧
          Ran s s' t k w (fun U => { U with sendRetry := if o = 0x1C then 0 else T.sendRetry }) (K.pc + 1)
            (Sys2Proof.setS K.sreg rx (BitVec.ofNat 32 (tilePeek t U o))) K.areg) ∧
      (w.f 45 1 = 0 → regHit tileRegAt o = .none →
        ∃ s' s'', exec (.treg t busy) s = .next s'' ∧ Ran s s' t k w id (K.pc + 1) (Sys2Proof.setS K.sreg rx 0) K.areg ∧
          s'' = s'.tileOut (tileCode t) (.unmapped k o)) ∧
      (w.f 45 1 = 1 → tileRegAt o = some false → o ≠ 0 →
        ∃ s', exec (.treg t busy) s = .next s' ∧ OnlyTile s s' (tileCode t) ∧
          s'.tile (tileCode t) = (tileWrite U o (K.sreg rx).toNat maskLow).incToken w.sig 1)

/-- R79, R80, R91: an instruction found ILLEGAL or MISALIGNED stops its task before it has any effect, with an event that carries the
tile, the slot, the PC and the state; an unallocated opcode or function always ends so. -/
def Obligations.FaultsBeforeIssue : Prop :=
  ∀ (s : State) (t : TileId) (busy : BitVec 8) (k : Nat) (w : IWord) (f : SlotSt),
    let T := s.tile (tileCode t)
    s.on = true → T.pickSlot busy = some k → T.fetch k = w → (faultOf T k w = some f ∨ (w.row = .unalloc ∧ f = .illegal)) →
      ∃ s' s'', exec (rowCmd t busy w.row) s = .next s'' ∧ OnlyTile s s' (tileCode t) ∧
        s'' = s'.event (tileCode t) 0x0201
          (natLe 2 (tileCode t) ++ natLe 1 k ++ natLe 1 f.code ++ natLe 2 (T.slot k).pc.toNat) ∧
        s'.tile (tileCode t) = { T with slots := (s'.tile (tileCode t)).slots } ∧
        (f = .illegal ∨ f = .misaligned) ∧
        ∀ j, (s'.tile (tileCode t)).slot j = if j = k then { T.slot k with st := f } else T.slot j

/-- R163, R164, R174: SARM checks the descriptor, then shadows it or arms the slot, and answers with the status word. That an invalid
descriptor answers INVALID though a shadow is held, where BUSY would fit too, is the model's choice (log entry 122). -/
def Obligations.SarmArms : Prop :=
  ∀ (s : State) (t : TileId) (busy : BitVec 8) (k : Nat) (w : IWord),
    let T := s.tile (tileCode t)
    let K := T.slot k
    let d : SDesc := T.ocGet (memAddr K w) 64
    let q := w.f 41 5
    let x := T.str q
    Issues s t busy .sarm k w →
      memAddr K w % 64 = 0 ∧
      ∃ s', exec (.sarm t busy) s = .next s' ∧
        let T' := s'.tile (tileCode t)
        let Status := fun (X : Tile → Tile) code gen =>
          Ran s s' t k w X (K.pc + 1) (Sys2Proof.setS K.sreg (w.f 33 5) (BitVec.ofNat 32 (code + gen * 2 ^ 16))) K.areg
        (∀ o, d.bad q = some o → Status id (3 + o * 2 ^ 8) x.gen.toNat) ∧
        (d.bad q = none → x.shadow.isSome = true → Status id 2 x.gen.toNat) ∧
        (d.bad q = none → x.shadow = none → x.st = 1 ∨ x.st = 2 →
          Status (fun U => { U with streams := T'.streams }) 1 (x.gen + 1).toNat ∧
          ∀ p, T'.str p = if p = q then { x with shadow := some (d, k) } else T.str p) ∧
        (d.bad q = none → x.shadow = none → x.st ≠ 1 → x.st ≠ 2 →
          Status (fun U => { U with streams := T'.streams, nextTag := T.nextTag + 1,
                                    reqs := T.reqs.map fun r => if r.slot == q then { r with cancelled := true } else r })
            0 (x.gen + 1).toNat ∧
          (T'.str q).gen = x.gen + 1 ∧ (T'.str q).desc = d ∧ (T'.str q).owner = k ∧ (T'.str q).relerr = x.relerr ∧
          (T'.str q).st = (if d.after.isSome then 1 else 2) ∧ ∀ p, p ≠ q → T'.str p = T.str p)

/-- R163, R165, R167, R184, R188: SREL hands over the buffers the program holds, at most N, with RELERR for more, and for any on an IDLE slot or
a leader; SSTAT reads SLOT_STATE. R165, R178: SCAN cancels the
slot's generation and its outstanding requests at once, and completes later; with KEEP a held shadow takes its place. SCAN_COMPLETE
signals its token. -/
def Obligations.SlotInstructions : Prop :=
  (∀ (s : State) (t : TileId) (busy : BitVec 8) (k : Nat) (w : IWord),
    let T := s.tile (tileCode t)
    let K := T.slot k
    let q := w.f 41 5
    let n := w.f 39 2
    let x := T.str q
    let give := min n x.held
    (Issues s t busy .srel k w →
      1 ≤ n ∧ n ≤ 3 ∧
      ∃ s', exec (.srel t busy) s = .next s' ∧
        let T' := s'.tile (tileCode t)
        Ran s s' t k w (fun U => { U with streams := T'.streams, releases := T'.releases, nextTag := T.nextTag + give }) (K.pc + 1) K.sreg K.areg ∧
        (T'.str q).held = x.held - give ∧ (T'.str q).relerr = (x.relerr || decide (give < n) || decide (x.st = 0) || x.desc.leader) ∧
        (T'.str q).handed = x.handed + (if x.desc.inbound then 0 else give) ∧ (T'.str q).st = x.st ∧ (T'.str q).gen = x.gen ∧
        T'.releases = T.releases ++ (x.heldOf.take give).zipIdx.map (fun y =>
          { slot := q, leader := y.1.1, lslot := y.1.2.1, lgen := some y.1.2.2, no := T.nextTag + y.2 }) ∧
        ∀ p, p ≠ q → T'.str p = T.str p) ∧
    (Issues s t busy .sstat k w →
      ∃ s', exec (.sstat t busy) s = .next s' ∧
        Ran s s' t k w id (K.pc + 1) (Sys2Proof.setS K.sreg (w.f 36 5) (BitVec.ofNat 32 (slotState T q))) K.areg)) ∧
  (∀ (s : State) (t : TileId) (busy : BitVec 8) (k : Nat) (w : IWord),
    let T := s.tile (tileCode t)
    let q := w.f 41 5
    let x := T.str q
    (Issues s t busy .scan k w →
      T.scanBusy = none ∧
      ∃ s', exec (.scan t busy) s = .next s' ∧
        let T' := s'.tile (tileCode t)
        T'.scanBusy = some w.sig ∧ T'.mem = T.mem ∧ (T'.slot k).pc = (T.slot k).pc + 1 ∧ (∀ n, T'.token n = waitTaken T w n) ∧
        (∀ p, p ≠ q → T'.str p = T.str p) ∧ (x.st = 0 → T'.str q = x ∧ T'.reqs = T.reqs) ∧
        (x.st ≠ 0 →
          (∀ r ∈ T'.reqs, r.slot = q → r.cancelled = true) ∧ T'.reqs.length = T.reqs.length ∧
          (w.f 40 1 = 0 ∨ x.shadow = none → (T'.str q).st = 0 ∧ (T'.str q).held = 0 ∧ (T'.str q).shadow = none) ∧
          ∀ d o, w.f 40 1 = 1 → x.shadow = some (d, o) →
            (T'.str q).gen = x.gen + 1 ∧ (T'.str q).desc = d ∧ (T'.str q).owner = o ∧ (T'.str q).shadow = none)) ∧
    (s.on = true → ∀ n, T.scanBusy = some n →
      ∃ s', exec (.scanComplete t) s = .next s' ∧ OnlyTile s s' (tileCode t) ∧
        s'.tile (tileCode t) = ({ T with scanBusy := none } : Tile).incToken n 1))

/-- R124, R129: an engine instruction that issues joins the back of its engine's queue of four with its operands latched, and signals
nothing yet. R124: what is latched: the word, registers by number, operand cache offsets and scalars by their value at issue. -/
def Obligations.EngineQueues : Prop :=
  (∀ (s : State) (t : TileId) (busy : BitVec 8) (k : Nat) (w : IWord) (r : TRow),
    let T := s.tile (tileCode t)
    let K := T.slot k
    let o : EngOp := engLatch (issueFrame T k w) k w
    Issues s t busy r k w →
      (r ∈ [TRow.mwld, .mma, .mbwd, .morth] →
        T.mq.length < 4 ∧
        ∃ s', exec (rowCmd t busy r) s = .next s' ∧
          Issued s s' t k w (waitTaken T w) T.tokenOvf (fun U => { U with mq := T.mq ++ [o], engSeq := T.engSeq + 1 })
            (OneSlot T k (K.pc + 1) K.sreg K.areg)) ∧
      (r ∈ [TRow.vadd, .vmul, .vfma, .vcmp, .vsel, .vminmax, .vred, .vmov, .vsieve, .vexpand, .vupd, .cvt, .cvtq, .cvtdq] →
        T.vq.length < 4 ∧
        ∃ s', exec (rowCmd t busy r) s = .next s' ∧
          Issued s s' t k w (waitTaken T w) T.tokenOvf (fun U => { U with vq := T.vq ++ [o], engSeq := T.engSeq + 1 })
            (OneSlot T k (K.pc + 1) K.sreg K.areg))) ∧
  (∀ (K : Slot) (sp : Nat), sp < 128 →
    (sp < 64 → resolve K sp = some (.reg (sp * 2048))) ∧
    (64 ≤ sp → sp < 72 → resolve K sp = some (.oc ((K.areg (sp - 64)).toNat % 2 ^ 20))) ∧
    (72 ≤ sp → sp < 96 → resolve K sp = none) ∧
    (96 ≤ sp → resolve K sp = some (.scal (K.sreg (sp - 96)))))

/-- R130, R132, R139, R140, R144-R150, R152: engines start and complete instructions. MATRIX_START takes the oldest instruction of its path that
may start, and what it reads; VECTOR_START takes the oldest that waits for no write, and what it will write: group by group, each group from
what the groups before it left, with the elements of every vector and convert instruction. A completion makes the writes, leaves every other
byte of the tile, raises the flags and signals the token. Which moment a start and a completion have is the sender's to say, and a vector
instruction reads all it reads as it starts (log entries 18 and 51); overlaps of VUPD, CVT and CVTDQ are log entry 124. -/
def Obligations.EngineStartsAndCompletes : Prop :=
  ∀ (s : State) (t : TileId), s.on = true →
    let T := s.tile (tileCode t)
    let Raised := fun (T' : Tile) n => T'.token n = (if n = 0 then 0 else BitVec.ofNat 16 (min ((T.token n).toNat + 1) 65535))
    (∀ load o rest, pick (fun e => isMwld e == load) T.mq = some (o, rest) → matCanStart T load o = true →
      ∃ s', exec (.matrixStart t load) s = .next s' ∧ OnlyTile s s' (tileCode t) ∧
        let T' := s'.tile (tileCode t)
        let w := o.word
        T' = { T with mq := rest, mrun := T'.mrun, mrunLoad := T'.mrunLoad, wb0 := T'.wb0, wb1 := T'.wb1, fpFlags := T'.fpFlags } ∧
        (if load then T'.mrun.map (·.word) = T.mrun.map (·.word) ∧
            T'.mrunLoad = T.mrunLoad ++ [{ o with got := [(readBlock T o.x (w.f 36 2) (w.f 34 1 == 1) (w.f 35 1 == 1)).1] }] ∧
            T'.fpFlags = T.fpFlags ||| BitVec.ofNat 12 (readBlock T o.x (w.f 36 2) (w.f 34 1 == 1) (w.f 35 1 == 1)).2.bits
         else T'.mrunLoad = T.mrunLoad ∧ ∃ e l, e = { o with got := e.got } ∧ T'.mrun = l ++ [e] ∧ l.map (·.word) = T.mrun.map (·.word) ∧
           let weights := fun n => (T'.wb n).vals.map fun v => (Fmt.fp32.encode .rne false v).1
           (w.row = .mma → e.got = [toFp32 (matFmt (w.f 30 2)) (readBlock T o.x (w.f 30 2) (w.f 27 1 == 1) (w.f 29 1 == 1)).1, weights (w.f 32 1)]) ∧
           (w.row = .mbwd → e.got = [toFp32 (matFmt (w.f 17 2)) (readBlock T o.x (w.f 17 2) (w.f 14 1 == 1) false).1,
             toFp32 (matFmt (w.f 17 2)) (readBlock T o.y (w.f 17 2) (w.f 14 1 == 1) false).1, weights (w.f 19 1),
             (readBlock T o.x (w.f 17 2) (w.f 14 1 == 1) false).1]) ∧
           (w.row = .morth → e.got = [T.block o.x 4] ∧ T'.fpFlags = T.fpFlags))) ∧
    (∀ o rest, T.mrunLoad = o :: rest →
      ∃ s', exec (.matrixComplete t true) s = .next s' ∧ OnlyTile s s' (tileCode t) ∧
        let T' := s'.tile (tileCode t)
        T' = ((({ T with mrunLoad := rest } : Tile).setWb (o.word.f 38 1)
          { fmt := matFmt (o.word.f 36 2), cells := o.got.getD 0 [] }).incToken o.word.sig 1) ∧
        T'.wb (o.word.f 38 1) = { fmt := matFmt (o.word.f 36 2), cells := o.got.getD 0 [] }) ∧
    (∀ o rest d, T.mrun = o :: rest → T.dyFree o = true → o.d = .reg d →
      let cell := fun n => cellAt (fp32s (o.got.getD n []))
      let Ends := fun (X : Tile → Tile) (f : Flags) => ∃ s', exec (.matrixComplete t false) s = .next s' ∧ OnlyTile s s' (tileCode t) ∧
        let T' := s'.tile (tileCode t)
        T' = { X T with mrun := rest, fpFlags := T.fpFlags ||| BitVec.ofNat 12 f.bits, tokens := T'.tokens, tokenOvf := T'.tokenOvf } ∧
        (∀ n, n ≠ o.word.sig → T'.token n = T.token n) ∧ Raised T' o.word.sig
      let old := fun (U : Tile) (x : Opnd) (skip : Nat) => if skip = 1 then none else some (U.blockAt x)
      (o.word.row = .mma →
        let R := dotBlock (cell 0) (cell 1) (old T o.d (o.word.f 28 1))
        Ends (fun U => U.wrote [{ at' := o.d, off := 0, data := blockBits (o.word.f 22 5 + 1) R }]) (blockFlags (o.word.f 22 5 + 1) R)) ∧
      (∀ z, o.word.row = .mbwd → o.z = .reg z →
        let R := dotBlock (cell 0) (fun k j => cell 2 j k) (old T o.d (o.word.f 16 1))
        let U := T.wrote [{ at' := o.d, off := 0, data := blockBits 32 R }]
        let Q := dotBlock (fun i k => cell 1 k i) (cell 0) (old U o.z (o.word.f 15 1))
        let V := U.wrote [{ at' := o.z, off := 0, data := blockBits 32 Q }]
        (∀ a, ¬ (rfBase + d ≤ a ∧ a < rfBase + d + 4096) → ¬ (rfBase + z ≤ a ∧ a < rfBase + z + 4096) → mget V.mem a = mget T.mem a) ∧
        Ends (fun W => { (W.dyLoad o) with mem := V.mem }) ((blockFlags 32 R).or (blockFlags 32 Q))) ∧
      (o.word.row = .morth → (o.got.getD 0 []).length = 1024 →
        let c := fun n => Fmt.fp32.decode (o.coef.getD n 0).toNat
        let D := fun i j => (morthBlock (o.word.f 18 1 == 1) (c 0) (c 1) (c 2) (fun i j => (o.got.getD 0 []).getD (i * 32 + j) 0) i j, fNone)
        let V := T.wrote [{ at' := o.d, off := 0, data := blockBits 32 D }]
        (∀ a, ¬ (rfBase + d ≤ a ∧ a < rfBase + d + 4096) → mget V.mem a = mget T.mem a) ∧
        ∃ f, Ends (fun W => { W with mem := V.mem }) f)) ∧
    (∀ o rest, T.vq = o :: rest → (∀ e ∈ T.vrun, rangesMeet o o.readsAt e e.writesAt = false) →
      ∃ s' e, exec (.vectorStart t) s = .next s' ∧ OnlyTile s s' (tileCode t) ∧ e = { o with wr := e.wr, fl := e.fl } ∧
        s'.tile (tileCode t) = { T with vq := rest, vrun := T.vrun ++ [e] } ∧
        let w := o.word
        let cnt := w.f 0 14 + 1
        let fmt := w.f 16 2
        let var := w.f 14 2
        let read := fun (U : Tile) (x : Opnd) size first n i => (U.elemsAt x size first n).getD i 0
        let half := fun (n : Nat) => if n == 0 then 4 else 2
        (w.row ∈ [TRow.vadd, .vmul, .vfma, .vcmp, .vsel, .vminmax, .vred, .vmov, .vsieve, .vexpand, .vupd, .cvt, .cvtq, .cvtdq] →
          ∀ x ∈ e.wr, ∃ i ∈ o.writesAt, x.at' = o.place i ∧ x.off + x.data.length ≤ needLen w i) ∧
        (w.row ∈ [TRow.vadd, .vmul, .vfma, .vcmp, .vsel, .vminmax, .vmov] →
          let per := if fmt == 1 then 128 else 64
          let s := vecSrcBytes fmt
          let d := vecDstBytes fmt
          Elementwise T e cnt per o.d d fun U g n i => elementResult w.row fmt var (read U o.x s (g * per) n i) (read U o.y s (g * per) n i)
            (read U o.z (if w.row == .vsel then s else d) (g * per) n i)) ∧
        (w.row = .vred →
          let f : Fmt := if fmt == 1 then .bf16 else .fp32
          let lane := fun l => ((List.range (cdiv (cnt - l) 64)).map fun i => f.decode (read T o.x (vecSrcBytes fmt) 0 cnt (l + 64 * i))).foldl
            (fun (a : Option FVal × Flags) v => ((redElem var a.1 v).1, a.2.or (redElem var a.1 v).2)) (none, fNone)
          let r := redTree var 6 ((List.range 64).map fun l => (lane l).1) (((List.range 64).map fun l => (lane l).2).foldl Flags.or fNone)
          e.wr = [{ at' := o.d, off := 0, data := natLe 4 (Fmt.fp32.encode .rne false (r.1.getD FVal.zero)).1 }] ∧ e.fl = r.2.bits) ∧
        (w.row = .vupd →
          let f : Fmt := if fmt == 0 then .fp32 else .bf16
          let m := fun U g n i => let a := f.decode (read U o.x (half fmt) (g * 64) n i)
            Fmt.fp32.fma (if var == 1 then a.neg else a) (f.decode (read U o.y (half fmt) (g * 64) n i)) (Fmt.fp32.decode (read U o.d 4 (g * 64) n i))
          InGroups T e (cdiv cnt 64) (fun U g => let n := min 64 (cnt - g * 64)
              [{ at' := o.d, off := g * 256, data := elemBytes 4 ((List.range n).map fun i => (m U g n i).1) },
               { at' := o.z, off := g * 128, data := elemBytes 2 ((List.range n).map fun i => (bf16Rne (m U g n i).1).1) }])
            (fun U g => let n := min 64 (cnt - g * 64)
              ((List.range n).map fun i => (m U g n i).2.or (bf16Rne (m U g n i).1).2).foldl Flags.or fNone)) ∧
        (w.row = .vsieve →
          let z := sieveWidth fmt
          let on := (List.range cnt).filter fun i => read T o.y (sievePred fmt) 0 cnt i != 0
          e.fl = 0 ∧ e.wr = [{ at' := o.d, off := 0, data := elemBytes z (on.map fun i => read T o.x z 0 cnt i) },
                             { at' := o.z, off := 0, data := elemBytes 2 (on.length :: on) }]) ∧
        (w.row = .vexpand →
          let z := sieveWidth fmt
          let n := min (read T o.y 2 0 1 0) cnt
          let at' := fun j => read T o.y 2 1 n j
          e.fl = 0 ∧ e.wr = (if var == 1 then [{ at' := o.d, off := 0, data := List.replicate (cnt * z) 0 }] else []) ++
            ((List.range n).filter fun j => decide (at' j < cnt)).map fun j =>
              { at' := o.d, off := at' j * z, data := natLe z (read T o.x z 0 n j) }) ∧
        (w.row = .cvt →
          let f := cvtFmt (w.f 29 3)
          let h := cvtFmt (w.f 26 3)
          Elementwise T e cnt 64 o.d h.bytes fun U g n i => let v := read U o.x f.bytes (g * 64) n i
            if f == h && !(f.decode v).isNan then (if f == .f19 then v / 8192 * 8192 else v, fNone)
            else h.encode (cvtMode o (w.f 24 2) (w.f 22 1) (g * 64 + i)) (w.f 23 1 == 0) (f.decode v)) ∧
        (w.row = .cvtq →
          let f : Fmt := if w.f 24 1 == 1 then .bf16 else .fp32
          let B := fun U b => let n := min 32 (cnt - b * 32)
            hb8Block (w.f 23 1 == 1) (fun i => cvtMode o (w.f 21 2) (w.f 20 1) (b * 32 + i)) ((U.elemsAt o.y f.bytes (b * 32) n).map f.decode)
          InGroups T e (cdiv cnt 32) (fun U b => [{ at' := o.d, off := b * 32, data := elemBytes 1 (B U b).2.1 },
              { at' := o.x, off := b, data := natLe 1 (B U b).1 }]) (fun U b => (B U b).2.2)) ∧
        (w.row = .cvtdq →
          let h : Fmt := if w.f 24 1 == 1 then .bf16 else .fp32
          Elementwise T e cnt 64 o.d h.bytes fun U g n i => h.encode (if w.f 21 2 == 1 then .rtz else .rne) false
            (hb8Value (w.f 23 1 == 1) (read U o.x 1 (g * 2) (cdiv n 32) (i / 32)) (read U o.y 1 (g * 64) n i)))) ∧
    (∀ (i : Nat) (o : EngOp), T.vrun[i]? = some o → (∀ e ∈ T.vrun.take i, rangesMeet o o.writesAt e e.writesAt = false) →
      ∃ s', exec (.vectorComplete t i) s = .next s' ∧ OnlyTile s s' (tileCode t) ∧
        let T' := s'.tile (tileCode t)
        let shift := if o.word.row ∈ [TRow.cvt, .cvtq, .cvtdq] then 8 else 4
        T' = { T with vrun := T.vrun.eraseIdx i, mem := (T.wrote o.wr).mem, tokens := T'.tokens, tokenOvf := T'.tokenOvf,
                      fpFlags := T.fpFlags ||| BitVec.ofNat 12 (o.fl % 16 * 2 ^ shift) } ∧
        (∀ a, (∀ x ∈ o.wr, ¬ x.hits a) → mget T'.mem a = mget T.mem a) ∧
        (∀ n, n ≠ o.word.sig → T'.token n = T.token n) ∧ Raised T' o.word.sig)

/-- R42, R44, R51, R52, R54: what arithmetic delivers. In each format, reading an encoding that is no NaN and rounding it again gives it back
without a flag. A finite value is delivered as the nearest number of the format, a tie as the one whose encoding is even, unless OF says that
none is near; NX says that it differs, UF that it does so below the smallest normal. -/
def Obligations.RoundsToNearest : Prop :=
  ∀ f ∈ [Fmt.fp32, .bf16, .fp16, .f19, .e4m3, .e5m2],
    (∀ x, f.code x → f.decode x ≠ .nan → f.encode .rne false (f.decode x) = (x, fNone)) ∧
    (∀ x, f.code x → (f.decode x).isFin = true →
      (f.decode x).value.abs ≤ (f.decode (f.topFinite * 2 ^ f.low)).value) ∧
    ∀ (n : Bool) (m : Nat) (e : Int),
      let v := FVal.fin n m e
      let r := f.encode .rne false v
      let d := f.decode r.1
      let least : Rat := 2 ^ (1 - (f.bias : Int))
      f.code r.1 ∧ r.2.inv = false ∧
      (r.2.ovf = false →
        d.isFin = true ∧ d.sign = n ∧ (r.2.inx = true ↔ d.value ≠ v.value) ∧ (r.2.udf = true ↔ d.value ≠ v.value ∧ v.value.abs < least) ∧
        ∀ y, f.code y → (f.decode y).isFin = true →
          (d.value - v.value).abs ≤ ((f.decode y).value - v.value).abs ∧
          ((d.value - v.value).abs = ((f.decode y).value - v.value).abs → (f.decode y).value ≠ d.value → (r.1 / 2 ^ f.low) % 2 = 0)) ∧
      (r.2.ovf = true → r.2.inx = true ∧ r.2.udf = false ∧ d.isFin = false ∧ (f.decode (f.topFinite * 2 ^ f.low)).value < v.value.abs)

/-- R132, R137: MMA writes ROWS rows of its register pair, leaves the other rows and all other memory, and signals. -/
def Obligations.MmaWritesItsRows : Prop :=
  ∀ (s : State) (t : TileId) (o : EngOp) (rest : List EngOp) (v : Nat), s.on = true →
    let T := s.tile (tileCode t)
    let n := (o.word.f 22 5 + 1) * 128
    T.mrun = o :: rest → o.word.row = .mma → o.d = .reg (v * 2048) →
      ∃ s', exec (.matrixComplete t false) s = .next s' ∧ OnlyTile s s' (tileCode t) ∧
        let T' := s'.tile (tileCode t)
        T'.mrun = rest ∧ (∀ j, T'.slot j = T.slot j) ∧
        (∀ a, ¬ (rfBase + v * 2048 ≤ a ∧ a < rfBase + v * 2048 + n) → mget T'.mem a = mget T.mem a) ∧
        T'.token o.word.sig = (if o.word.sig = 0 then 0 else BitVec.ofNat 16 (min ((T.token o.word.sig).toNat + 1) 65535))

/-- R166, R168, R172, R179: a request leaves with the next identifier when no slot between the last one served and this one has one to send; an
answer is counted, and its record lands at its place in the ring, unless its generation was cancelled: then it is discarded and nothing is
written. R170: an answer that is late puts the stream into ERROR, with an event; a late one of a generation that has gone is forgotten. Which
slot is served first after the start (log entry 126), and that an ERROR raises no more than its tokens and event (log entry 15), is read
from the spec. -/
def Obligations.StreamRequestsAndAnswers : Prop :=
  ∀ (s : State) (t : TileId), s.on = true →
    let T := s.tile (tileCode t)
    (∀ (q : Fin 32) (u : SUnit) (us : List SUnit), let x := T.str q.val
      x.st = 2 → x.desc.inbound = true → x.desc.receive = false → trackRoom T x = true → x.units = u :: us →
      (∀ i, i < (q.val + 31 - T.lastReq) % 32 → nextReq T ((T.lastReq + 1 + i) % 32) = none) →
      ∃ s', exec (.streamRequest t q) s = .next s' ∧ OnlyTile s s' (tileCode t) ∧
        s'.tile (tileCode t) =
          { T.setStr q.val { x with units := us } with
            reqs := T.reqs ++ [{ id := T.nextTag, slot := q.val, gen := x.gen, kind := u.kind, desc := x.desc }], nextTag := T.nextTag + 1, lastReq := q.val,
            narrowReqs := if u.narrow then T.narrowReqs + 1 else T.narrowReqs }) ∧
    (∀ (q : Fin 32) (i : Nat), i < (q.val + 31 - T.lastReq) % 32 → (nextReq T ((T.lastReq + 1 + i) % 32)).isSome = true →
      ∃ s', exec (.streamRequest t q) s = .next s' ∧ OnlyTile s s' (tileCode t) ∧ s'.tile (tileCode t) = T) ∧
    (∀ (id : Nat) (r : StreamReq) (l : List (List Byte)),
      T.mcIn.find? (fun m => m.id == id) = none → T.reqs.find? (fun r => r.id == id) = some r → r.resp = some l → r.lost = false →
      T.answerTurn r.sent = true →
      ∃ s', exec (.streamResponse t id) s = .next s' ∧ OnlyTile s s' (tileCode t) ∧
        let T' := s'.tile (tileCode t)
        let x := T.str r.slot
        T'.reqs = T.reqs.filter (fun y => y.id != id) ∧
        T'.bytesFetched = T.bytesFetched + BitVec.ofNat 64 (l.map List.length).sum ∧
        (r.cancelled = true → T'.mem = T.mem ∧ T'.streams = T.streams ∧ T'.tokens = T.tokens ∧
          T'.bytesDiscarded = T.bytesDiscarded + BitVec.ofNat 64 (l.map List.length).sum) ∧
        (∀ n a bs, r.cancelled = false → x.gen = r.gen → x.st = 2 → x.desc.leader = false → r.kind = .gather [(n, a)] → l = [bs] →
          T'.mem = (T.ocPut (recOff x n) bs).mem ∧ T'.bytesDiscarded = T.bytesDiscarded)) ∧
    (∀ (id : Nat) (r : StreamReq), T.reqs.find? (fun r => r.id == id) = some r → (r.cancelled = true ∨ (T.str r.slot).gen ≠ r.gen) →
      ∃ s', exec (.streamTimeout t id) s = .next s' ∧ OnlyTile s s' (tileCode t) ∧
        s'.tile (tileCode t) = { T with reqs := T.reqs.filter (fun y => y.id != r.id) }) ∧
    (∀ (id : Nat) (r : StreamReq), let x := T.str r.slot
      T.reqs.find? (fun r => r.id == id) = some r → r.cancelled = false → x.gen = r.gen → x.st = 2 → x.desc.leader = false →
      ∃ s' s'', exec (.streamTimeout t id) s = .next s'' ∧ OnlyTile s s' (tileCode t) ∧
        s'' = s'.event (tileCode t) 0x0301 (natLe 2 (tileCode t) ++ natLe 1 r.slot ++ natLe 1 0 ++ natLe 2 r.gen.toNat) ∧
        ((s'.tile (tileCode t)).str r.slot) = { x with st := 4, reason := 1 })

/-- R28, R168, R174, R177: the first acknowledgement whose turn has come counts for the generation it belongs to, and the last one makes it DONE;
a held shadow takes effect after DONE; a chained stream becomes ACTIVE once what it waits for has ended. -/
def Obligations.StreamSlotEvents : Prop :=
  ∀ (s : State) (t : TileId) (q : Fin 32), s.on = true →
    let T := s.tile (tileCode t)
    let x := T.str q.val
    (∀ a rest, pick (fun a => a.slot == q.val && T.answerTurn (some (a.src, a.no))) T.acks = some (a, rest) →
      ∃ s', exec (.streamAck t q) s = .next s' ∧ OnlyTile s s' (tileCode t) ∧
        let T' := s'.tile (tileCode t)
        let y := T'.str q.val
        T'.acks = rest ∧ T'.mem = T.mem ∧ (∀ p, p ≠ q.val → T'.str p = T.str p) ∧
        (a.gen ≠ x.gen ∨ (x.st ≠ 1 ∧ x.st ≠ 2) → T' = { T with acks := rest }) ∧
        (a.gen = x.gen → x.st = 1 ∨ x.st = 2 →
          y.acked = x.acked + 1 ∧ y.st = (if x.st = 2 ∧ x.acked + 1 = x.desc.needAcks then 3 else x.st))) ∧
    (pick (fun a => a.slot == q.val && T.answerTurn (some (a.src, a.no))) T.acks = none →
      ∃ s', exec (.streamAck t q) s = .next s' ∧ OnlyTile s s' (tileCode t) ∧ s'.tile (tileCode t) = T) ∧
    (∀ d o, x.st = 3 → x.shadow = some (d, o) →
      ∃ s', exec (.shadowTakeEffect t q) s = .next s' ∧ OnlyTile s s' (tileCode t) ∧
        let y := (s'.tile (tileCode t)).str q.val
        y.gen = x.gen + 1 ∧ y.desc = d ∧ y.owner = o ∧ y.shadow = none ∧ (y.st = 1 ∨ y.st = 2)) ∧
    (x.st = 1 → (∀ p g, x.chain = some (p, g) → (T.str p).gen = g → (T.str p).st ≠ 1 ∧ (T.str p).st ≠ 2) →
      ∃ s', exec (.chainActivate t q) s = .next s' ∧ OnlyTile s s' (tileCode t) ∧
        s'.tile (tileCode t) = T.setStr q.val { x with st := 2 })

/-- R167, R168, R181, R203, R204, R241: the oldest buffer handed to an outbound stream leaves: SCATTER records as writes, PUSH records to
the embedding engines or, as a bucket's segment, to a collective engine. The buffer returns to the program. -/
def Obligations.StreamSendsABuffer : Prop :=
  ∀ (s : State) (t : TileId) (q : Fin 32) (T1 : Tile) (recs : List (Nat × Nat × List Byte)), s.on = true →
    let c := tileCode t
    let x := (s.tile c).str q.val
    sendBuf (s.tile c) q.val = some (T1, recs) →
      ∃ s', exec (.streamSend t q) s = .next s' ∧
        let y := (s'.tile c).str q.val
        y.sent = x.sent + recs.length ∧ y.signalled = x.signalled + 1 ∧ y.held = x.held + 1 ∧
        (s'.tile c).mem = (s.tile c).mem ∧ s'.regs = s.regs ∧ s'.hbm = s.hbm ∧
        (∀ d, d ≠ c → s'.tile d = s.tile d) ∧
        (x.desc.kind = 4 → (s'.tile c).outs.length = (s.tile c).outs.length + recs.length ∧ s'.segFly = s.segFly ∧ s'.pushFly = s.pushFly) ∧
        (x.desc.kind ≠ 4 → x.desc.coll = true →
          s'.segFly.length = s.segFly.length + recs.length ∧ (∀ e ∈ s.segFly, e ∈ s'.segFly) ∧ s'.pushFly = s.pushFly ∧
          s'.endFly.length = s.endFly.length + (if x.sent + recs.length = x.desc.count then 1 else 0)) ∧
        (x.desc.kind ≠ 4 → x.desc.coll = false →
          s'.pushFly.length = s.pushFly.length + recs.length ∧ s'.segFly = s.segFly ∧ s'.endFly = s.endFly)

/-- R28, R183, R184, R186: arm credits, release credits, detaches and cancel markers between a RECEIVE slot and its leader. A leader accepts one
arm credit of a member in a generation and refuses another; one whose geometry is not its own puts it into ERROR with reason GEOMETRY. What a
member sends to one leader arrives in the order sent. -/
def Obligations.MulticastControl : Prop :=
  ∀ (s : State) (t : TileId) (q : Fin 32), s.on = true →
    let c := tileCode t
    let x := (s.tile c).str q.val
    let L := (s.tile x.desc.leaderTile).str x.desc.leaderSlot
    (x.desc.receive = true → x.credit = .flying → x.st = 1 ∨ x.st = 2 → s.ctlTurn c x.creditNo x.desc.leaderTile = true →
      (L.st = 1 ∨ L.st = 2 → L.desc.leader = true → c ∈ L.desc.members → (kget L.members c {}).armed = false →
        ∃ s', exec (.armCredit t q) s = .next s' ∧ ((s'.tile c).str q.val).credit = .accepted ∧
          ((s'.tile c).str q.val).lgen = L.gen ∧
          let L' := (s'.tile x.desc.leaderTile).str x.desc.leaderSlot
          let m := kget L'.members c {}
          m.armed = true ∧ m.mslot = q.val ∧
          (sameGeom L.desc x.desc = true → L'.st = L.st ∧ L'.reason = L.reason) ∧
          (sameGeom L.desc x.desc = false → L'.st = 4 ∧ L'.reason = 2)) ∧
      ((L.st ≠ 1 ∧ L.st ≠ 2) ∨ L.desc.leader = false ∨ c ∉ L.desc.members ∨ (kget L.members c {}).armed = true →
        ∃ s', exec (.armCredit t q) s = .next s' ∧ OnlyTile s s' c ∧ ((s'.tile c).str q.val) = { x with credit := .refused })) ∧
    (x.credit = .refused →
      ∃ s', exec (.armCreditResend t q) s = .next s' ∧ OnlyTile s s' c ∧
        ((s'.tile c).str q.val) = { x with credit := .flying, creditNo := (s.tile c).nextTag }) ∧
    (∀ m rest, pick (fun m => m.slot == q.val && s.ctlTurn c m.no m.leader) (s.tile c).releases = some (m, rest) →
      m.lgen = some ((s.tile m.leader).str m.lslot).gen → ((s.tile m.leader).str m.lslot).desc.leader = true →
      ∃ s', exec (.releaseCredit t q) s = .next s' ∧ (s'.tile c).releases = rest ∧
        (kget ((s'.tile m.leader).str m.lslot).members c {}).returned =
          (kget ((s.tile m.leader).str m.lslot).members c {}).returned + 1) ∧
    (∀ m rest, pick (fun m => m.slot == q.val && s.ctlTurn c m.no m.leader) (s.tile c).detaches = some (m, rest) →
      let M := (s.tile m.leader).str m.lslot
      m.lgen = some M.gen → M.desc.leader = true → M.st = 1 ∨ M.st = 2 → c ∈ M.desc.members →
      ∃ s', exec (.detach t q) s = .next s' ∧ (s'.tile c).detaches = rest ∧
        (kget ((s'.tile m.leader).str m.lslot).members c {}).detached = true ∧
        (((s'.tile m.leader).str m.lslot).st = 4 ↔ ∀ d ∈ M.desc.members, d = c ∨ (kget M.members d {}).detached = true)) ∧
    (∀ m rest, pick (fun m => m.slot == q.val) (s.tile c).markers = some (m, rest) → x.st = 1 ∨ x.st = 2 → x.desc.receive = true →
      x.desc.leader = false → x.credit = .accepted → m.lgen = some x.lgen → x.desc.leaderTile = m.leader → x.desc.leaderSlot = m.lslot →
      ∃ s', exec (.cancelMarker t q) s = .next s' ∧ (s'.tile c).markers = rest ∧
        ((s'.tile c).str q.val).st = 4 ∧ ((s'.tile c).str q.val).reason = 3)

/-- R28, R81, R85, R95, R104: the answer to an operation in flight, once no answer sent before it by the same unit is still on its way: a
loaded value is written, an acknowledged store and an accepted message signal, a refused message is counted and waits, or is dropped if its
task was killed, and a message sent again leaves as a new packet. That such a packet has a fresh tag (log entry 42), and that a GLD still writes
its register when its slot has been started again (log entry 43), are the model's choice. -/
def Obligations.OperationsEnd : Prop :=
  ∀ (s : State) (t : TileId) (tag : Nat) (o : TileOp), s.on = true →
    let T := s.tile (tileCode t)
    let Raised := fun (T' : Tile) =>
      T'.token o.sig = (if o.sig = 0 then 0 else BitVec.ofNat 16 (min ((T.token o.sig).toNat + 1) 65535))
    T.op tag = some o →
      (T.answerTurn o.sent = true →
      (∀ rd size sg bs, o.kind = .gld rd size sg → o.ans = some (.loaded bs) → bs.length = 2 ^ size → size ≤ 3 →
        ∃ s', exec (.gldResponse t tag) s = .next s' ∧ OnlyTile s s' (tileCode t) ∧
          let T' := s'.tile (tileCode t)
          (∀ e ∈ T'.ops, e.tag ≠ tag) ∧ T'.mem = T.mem ∧
          (o.cancelled = true → T'.slots = T.slots ∧ T'.tokens = T.tokens) ∧
          (o.cancelled = false → Raised T' ∧ (∀ j, j ≠ o.slot → T'.slot j = T.slot j) ∧
            SlotHas (T'.slot o.slot) (T.slot o.slot).st (T.slot o.slot).pc
              (if size = 3 then
                Sys2Proof.setS (Sys2Proof.setS (T.slot o.slot).sreg rd (BitVec.ofNat 32 (leNat bs))) (rd + 1)
                  (BitVec.ofNat 32 (leNat bs / 2 ^ 32))
              else Sys2Proof.setS (T.slot o.slot).sreg rd (BitVec.ofInt 32 (bytesValue bs (sg && size != 2))))
              (T.slot o.slot).areg (T.slot o.slot).code)) ∧
      (o.isGst = true → o.ans = some .stored →
        ∃ s', exec (.gstAck t tag) s = .next s' ∧ OnlyTile s s' (tileCode t) ∧ Raised (s'.tile (tileCode t)) ∧
          ∀ e ∈ (s'.tile (tileCode t)).ops, e.tag ≠ tag) ∧
      (o.isSend = true → o.ans = some .accepted →
        ∃ s', exec (.sendAccepted t tag) s = .next s' ∧ OnlyTile s s' (tileCode t) ∧ Raised (s'.tile (tileCode t)) ∧
          ∀ e ∈ (s'.tile (tileCode t)).ops, e.tag ≠ tag) ∧
      (o.isSend = true → o.ans = some .refused → o.held = false →
        ∃ s', exec (.sendRefused t tag) s = .next s' ∧ OnlyTile s s' (tileCode t) ∧
          (s'.tile (tileCode t)).sendRetry = T.sendRetry + 1 ∧ (s'.tile (tileCode t)).tokens = T.tokens ∧
          (o.cancelled = false → (s'.tile (tileCode t)).op tag = some { o with held := true }) ∧
          (o.cancelled = true → ∀ e ∈ (s'.tile (tileCode t)).ops, e.tag ≠ tag))) ∧
      (o.isSend = true → o.ans = some .refused → o.held = true →
        ∃ s', exec (.messageResend t tag) s = .next s' ∧ OnlyTile s s' (tileCode t) ∧
          (s'.tile (tileCode t)).nextTag = T.nextTag + 1 ∧
          { o with held := false, ans := none, tag := T.nextTag, no := T.nextTag } ∈ (s'.tile (tileCode t)).ops)

/-- R28, R103, R104, R493: a message that reaches its mailbox, once no packet its tile sent there before is on its way, is accepted while fewer than four are held, and raises the mailbox's token;
otherwise it is refused. A repeated packet is answered as before and delivers nothing. -/
def Obligations.MessageArrives : Prop :=
  ∀ (s : State) (t : TileId) (tag : Nat) (o : TileOp) (w : BitVec 32) (bs : List Byte), s.on = true →
    let c := tileCode t
    let dst := bfld w 0 12
    let m := bfld w 12 4
    let l := kget (s.tile dst).mboxes m []
    (s.tile c).op tag = some o → o.kind = .send w bs → o.going = true → s.packetTurn c o.no (s.opDest c o) = true →
      let Answered := fun a => some { o with ans := some a, sent := some (dst, (s.tile c).nextTag) }
      ((s.tile c).keptAns dst tag = none →
        ∃ s', exec (.messageArrival t tag) s = .next s' ∧
          (∀ d, d ≠ c → d ≠ dst → s'.tile d = s.tile d) ∧
          (l.length < 4 →
            kget (s'.tile dst).mboxes m [] = l ++ [{ src := c, bytes := bs }] ∧
            (s'.tile c).op tag = Answered .accepted ∧
            ∀ n, n ≠ 0 → (s'.tile dst).token n =
              if n = (kget (s.tile dst).mboxTok m 0).toNat then BitVec.ofNat 16 (min (((s.tile dst).token n).toNat + 1) 65535)
              else (s.tile dst).token n) ∧
          (4 ≤ l.length → (s'.tile dst).mboxes = (s.tile dst).mboxes ∧ (s'.tile dst).tokens = (s.tile dst).tokens ∧
            (s'.tile c).op tag = Answered .refused)) ∧
      (∀ a, (s.tile c).keptAns dst tag = some a →
        ∃ s', exec (.messageArrival t tag) s = .next s' ∧ OnlyTile s s' c ∧ (s'.tile c).mboxes = (s.tile c).mboxes ∧
          (s'.tile c).op tag = Answered a)

/-! ### Commands that are a write of one register -/

/-- R316, R317: ARM opens a FREE guard entry, COMPLETE makes a FREE or OPEN one READY with the next generation, RELEASE frees a READY or
HELD one; each says so where the entry's state does not let it. ADDR and LEN stay. A completion of an entry that is READY or HELD, or at
which an earlier one waits, is deferred; RELEASE brings the first one that waits. -/
def Obligations.GuardCommands : Prop :=
  ∀ (s : State) (m : Master) (g : Fin 4096), s.calm →
    let Only := fun (s' : State) => OnlyRegs s s' [(.guCtl, g.val, 0)] ∧ s'.fld .guCtl 0 24 g = s.fld .guCtl 0 24 g
    (∃ s', exec (.guardArm m g) s = .next s' ∧ Only s' ∧ s'.guardGen g = s.guardGen g ∧
      (s.guardSt g = 0 → s'.guardSt g = 1 ∧ s'.fld .guCtl 30 1 g = s.fld .guCtl 30 1 g) ∧
      (s.guardSt g ≠ 0 → s'.guardSt g = s.guardSt g ∧ s'.fld .guCtl 30 1 g = 1)) ∧
    (s.guardSt g ≤ 1 → s.waitsAt g = false →
      ∃ s', exec (.guardComplete m g) s = .next s' ∧ Only s' ∧ s'.guardSt g = 2 ∧ s'.guardGen g = (s.guardGen g + 1) % 2 ^ 32) ∧
    (2 ≤ s.guardSt g ∨ s.waitsAt g = true →
      ∃ u, exec (.guardComplete m g) s = .next { u with deferred := s.deferred ++ [{ guard := g, cmd := none }] } ∧ Only u ∧
        u.guardSt g = s.guardSt g ∧ u.guardGen g = s.guardGen g ∧ u.fld .guCtl 29 1 g = 1) ∧
    (s.guardSt g ≤ 1 → ∃ s', exec (.guardRelease m g) s = .next s' ∧ OnlyRegs s s' []) ∧
    (2 ≤ s.guardSt g → s.waitsAt g = false → s.nextDeferred s.deferred [] 0 = none →
      ∃ s', exec (.guardRelease m g) s = .next s' ∧ Only s' ∧ s'.guardSt g = 0 ∧ s'.guardGen g = s.guardGen g) ∧
    (2 ≤ s.guardSt g → ∀ d rest, s.deferred = d :: rest → d.cmd = none → (∀ e ∈ s.deferred, g.val ∈ s.defersAt e) →
      ∃ u, exec (.guardRelease m g) s = .next { u with deferred := rest } ∧ Only u ∧ u.guardSt g = 2 ∧
        u.guardGen g = (s.guardGen g + 1) % 2 ^ 32)

/-- R74, R239: ARRIVE counts one arrival, held at 65,535; LOSS_SCALE_SET leaves its value, clamped to the limits in use, to take effect at
the next step start. R326, R465: software may move a HEAD only forward, and not past TAIL: such a write sets it, any other leaves HEAD and
sets the error bit. R223: a request to an embedding engine waits for its answer, one at a time; that another changes nothing while one waits
is the model's reading (log entry 97). -/
def Obligations.RegisterCommands : Prop :=
  (∀ (s : State) (m : Master) (j : Fin 16) (v : BitVec 32), s.calm →
    (∃ s', exec (.arrive m j) s = .next s' ∧ OnlyRegs s s' [(.jArrive, j.val, 0)] ∧
      s'.fld .jArrive 16 16 j = min (s.fld .jArrive 16 16 j + 1) 65535) ∧
    (∃ u, exec (.lossScaleSet m j v) s = .next { u with jobs := kput s.jobs j { s.job j with
          pend := some (toField (min (max (sext (bfld v 8 8) 8) (s.lossLims j).1) (s.lossLims j).2) 8) } } ∧
      OnlyRegs s u [(.jLossScale, j.val, 0)] ∧ u.fld .jLossScale 0 8 j = s.fld .jLossScale 0 8 j ∧
      u.fld .jLossScale 8 8 j = bfld v 8 8 ∧ u.fld .jLossScale 17 1 j = 1)) ∧
  (∀ (s : State) (m : Master) (q : Fin 16384) (v : BitVec 32), s.calm →
    let old := s.q .quHead 0 32 q
    let tail := s.q .quTail 0 32 q
    let eold := s.reg .evHead
    let etail := s.reg .evTail
    ((v.toNat + 2 ^ 32 - old) % 2 ^ 32 ≤ (tail + 2 ^ 32 - old) % 2 ^ 32 →
      (∀ e ∈ s.journal, e.queue = q.val → e.tailAt = none ∨ e.released = true ∨ e.pad = true) →
      ∃ u, exec (.queueHeadWrite m q v) s = .next { u with cmdPos := kdel s.cmdPos q } ∧
        OnlyRegs s u [(.quHead, q.val / 8192, q.val % 8192)] ∧ u.q .quHead 0 32 q = v.toNat) ∧
    ((tail + 2 ^ 32 - old) % 2 ^ 32 < (v.toNat + 2 ^ 32 - old) % 2 ^ 32 →
      ∃ s', exec (.queueHeadWrite m q v) s = .next s' ∧ OnlyRegs s s' [(.quStatus, q.val / 8192, q.val % 8192)] ∧
        s'.q .quStatus 11 1 q = 1 ∧ s'.q .quStatus 0 11 q = s.q .quStatus 0 11 q) ∧
    ((v.toNat + 2 ^ 32 - eold) % 2 ^ 32 ≤ (etail + 2 ^ 32 - eold) % 2 ^ 32 → s.ringLost = 0 →
      ∃ s', exec (.eventHeadWrite m v) s = .next s' ∧ OnlyRegs s s' [(.evHead, 0, 0)] ∧ s'.reg .evHead = v.toNat) ∧
    ((etail + 2 ^ 32 - eold) % 2 ^ 32 < (v.toNat + 2 ^ 32 - eold) % 2 ^ 32 →
      ∃ s', exec (.eventHeadWrite m v) s = .next s' ∧ OnlyRegs s s' [(.evStatus, 0, 0)] ∧ s'.fld .evStatus 0 1 = 1 ∧
        s'.fld .evStatus 1 2 = s.fld .evStatus 1 2)) ∧
  (∀ (s : State) (m : Master) (d : Fin 16) (t : BitVec 16) (i : BitVec 40) (g : Fin 16) (c : Instr) (op tg : Nat), s.calm →
    (c = .migMove m d t i g ∧ op = 1 ∧ tg = g.val) ∨ (c = .migPin m d t i ∧ op = 2 ∧ tg = 0) ∨ (c = .migUnpin m d t i ∧ op = 3 ∧ tg = 0) ∨
      (c = .migReturn m d t i ∧ op = 4 ∧ tg = 0) →
    (s.fld .emMigStatus 4 1 d = 1 → ∃ s', exec c s = .next s' ∧ OnlyRegs s s' []) ∧
    (s.fld .emMigStatus 4 1 d = 0 →
      ∃ u v, exec c s = .next { u with embs := kput s.embs d { s.emb d with migReq := some v } } ∧
        OnlyRegs s u [(.emReq, d.val, 0), (.emMigStatus, d.val, 0)] ∧ u.fld .emMigStatus 4 1 d = 1 ∧
        bfld v 0 16 = t.toNat ∧ bfld v 16 40 = i.toNat ∧ bfld v 56 4 = tg ∧ bfld v 60 3 = op))

/-- R470: FLAG_SCAN starts a scan of the rectangle it gives, unless one runs: then it only sets the error bit. The scan ends with the OR of
the sticky flags of the rectangle's tiles, and with CLEAR clears exactly the flags read. That it reads RECT, CLEAR and the flags at the moment
it ends is the model's choice (log entry 71). -/
def Obligations.FlagScans : Prop :=
  ∀ (s : State) (m : Master) (v : BitVec 64), s.calm →
    (s.fld .evScan 26 2 ≠ 1 →
      ∃ s', exec (.flagScan m v) s = .next s' ∧ OnlyRegs s s' [(.evScan, 0, 0)] ∧ s'.fld .evScan 26 2 = 1 ∧
        s'.fld .evScan 0 25 = bfld v 0 25) ∧
    (s.fld .evScan 26 2 = 1 →
      ∃ s', exec (.flagScan m v) s = .next s' ∧ OnlyRegs s s' [(.evStatus, 0, 0)] ∧ s'.fld .evStatus 1 1 = 1) ∧
    (s.fld .evScan 26 2 = 1 →
      ∃ s', exec .flagScanDone s = .next s' ∧ s' = { s with regs := s'.regs, tiles := s'.tiles } ∧ s'.fld .evScan 26 2 = 2 ∧
        (∀ b, b < 12 → ((s'.fld .evScan 28 12).testBit b = true ↔
          ∃ c ∈ rectOf (s.fld .evScan 0 24), c < 2304 ∧ (s.tile c).fpFlags.getLsbD b = true) ∧
          let first := s'.fld .evFirst (16 * (b % 4)) 16 (b / 4)
          let has := fun c => c ∈ rectOf (s.fld .evScan 0 24) ∧ c < 2304 ∧ (s.tile c).fpFlags.getLsbD b = true
          ((∀ c, ¬ has c) → first = 0xFFFF) ∧ ∀ c, has c → has first ∧ first ≤ c) ∧
        (s.fld .evScan 24 1 = 0 → s'.tiles = s.tiles) ∧
        (s.fld .evScan 24 1 = 1 → ∀ c, c < 2304 → s'.tile c =
          if c ∈ rectOf (s.fld .evScan 0 24) then { s.tile c with fpFlags := 0 } else s.tile c))

/-- R434: GO of the flash interface while it is busy, or where Ryrax is neither READY nor in diagnostic mode, only sets the error bit;
otherwise its operation starts, or ends at once where it would reach the field log or its bounds are wrong. FLASH_DONE carries an erase, a
program or a read out whole.
An erase that ends well leaves its range reading as FFH and everything else; a program leaves the bytes of its buffer, a read copies
flash to its buffer. STATE is DONE, with the bytes carried out. R453, R454: GO of attestation forms a report of the state as it is, unless one
is being formed or Ryrax serves neither way; a buffer that cannot take it ends the request. R456: ATTEST_DONE writes the report, is DONE,
and completes the guard entries of its buffer; COUNT counts the report. The order of the checks of GO, and that an operation past a device's end goes on at its
start, are the model's choice (log entry 92). -/
def Obligations.FlashAndAttestation : Prop :=
  (∀ (s : State) (m : Master) (op : Nat) (c : Instr), s.on = true → s.still →
    (op = 1 ∧ c = .flashErase m) ∨ (op = 2 ∧ c = .flashProgram m) ∨ (op = 3 ∧ c = .flashRead m) →
    let dev := s.fld .flTarget 27 1
    let off := s.fld .flTarget 0 27
    let len := s.fld .flCtl 0 25
    let unit := if op = 1 then 65536 else if op = 2 then 256 else 1
    ((s.serves = false ∨ s.flashSt = 1) →
      ∃ s', exec c s = .next s' ∧ OnlyRegs s s' [(.flStatus, 0, 0)] ∧ s'.fld .flStatus 6 1 = 1 ∧ s'.flashSt = s.flashSt) ∧
    (s.serves = true → s.flashSt ≠ 1 → op ≠ 3 → touchesLog dev off len = true →
      ∃ u, exec c s = .next { u with flashOp := none } ∧ OnlyRegs s u [(.flStatus, 0, 0), (.flCtl, 0, 0)] ∧ u.flashSt = 3 ∧
        u.fld .flStatus 2 4 = 1) ∧
    (s.serves = true → s.flashSt ≠ 1 → (op = 3 ∨ touchesLog dev off len = false) →
      (len = 0 ∨ 16777216 < len ∨ off % unit ≠ 0 ∨ len % unit ≠ 0) →
      ∃ u, exec c s = .next { u with flashOp := none } ∧ OnlyRegs s u [(.flStatus, 0, 0), (.flCtl, 0, 0)] ∧ u.flashSt = 3 ∧
        u.fld .flStatus 2 4 = 2) ∧
    (s.serves = true → s.flashSt ≠ 1 → (op = 3 ∨ touchesLog dev off len = false) → 0 < len → len ≤ 16777216 → off % unit = 0 → len % unit = 0 →
      ∃ u, exec c s = .next { u with flashOp := some { op := op, dev := dev, off := off, len := len, buf := s.fld .flBuf 0 48 } } ∧
        OnlyRegs s u [(.flStatus, 0, 0), (.flCtl, 0, 0)] ∧ u.flashSt = 1 ∧ u.fld .flCtl 0 25 = len)) ∧
  (∀ (s : State) (o : FlashOp), s.on = true → s.flashOp = some o →
    ∃ u s', exec (.flashDone .ok) s = .next s' ∧ Brings s u s' ∧ u.flashOp = none ∧ u.flashSt = 2 ∧
      u.fld .flStatus 2 4 = 0 ∧ u.fld .flStatus 7 25 = o.len % 2 ^ 25 ∧
      (o.op = 1 → (∀ a, flByte u.flash a =
          if a / 2 ^ 27 = o.dev ∧ (∃ i < o.len, a = flAddr o.dev (o.off + i)) then 0xFF else flByte s.flash a) ∧
        u.hbm = s.hbm) ∧
      (o.op = 2 → let l := (s.memRead .mgmt o.buf o.len).2
        l.length = o.len → flAddr o.dev o.off + o.len ≤ flAddr o.dev 0 + 2 ^ 27 →
        ∀ a, flByte u.flash a = if flAddr o.dev o.off ≤ a ∧ a < flAddr o.dev o.off + o.len then l.getD (a - flAddr o.dev o.off) 0
          else flByte s.flash a) ∧
      (o.op = 3 → u.flash = s.flash ∧ u.hbm = (s.memWrite .mgmt o.buf (s.flGet o.dev o.off o.len)).hbm)) ∧
  (∀ (s : State) (m : Master), s.on = true → s.still →
    ((s.serves = false ∨ s.fld .attStatus 0 2 = 1) →
      ∃ s', exec (.attestRequest m) s = .next s' ∧ OnlyRegs s s' [(.attStatus, 0, 0)] ∧ s'.fld .attStatus 4 1 = 1) ∧
    (s.serves = true → s.fld .attStatus 0 2 ≠ 1 → s.attBufOk (s.fld .attBuf 0 48) = false →
      ∃ s', exec (.attestRequest m) s = .next s' ∧ OnlyRegs s s' [(.attStatus, 0, 0)] ∧ s'.fld .attStatus 0 2 = 3 ∧ s'.fld .attStatus 2 2 = 1) ∧
    (s.serves = true → s.fld .attStatus 0 2 ≠ 1 → s.attBufOk (s.fld .attBuf 0 48) = true →
      ∃ u r, exec (.attestRequest m) s = .next { u with att := some r } ∧ OnlyRegs s u [(.attStatus, 0, 0)] ∧ u.fld .attStatus 0 2 = 1 ∧
        r.buf = s.fld .attBuf 0 48 ∧ r.bytes.take 0xA00 = s.report) ∧
    (∀ r, s.att = some r →
      ∃ u s', exec .attestDone s = .next s' ∧ Brings s u s' ∧ u.att = none ∧ u.hbm = (s.memWrite .mgmt r.buf r.bytes).hbm ∧
        u.fld .attStatus 0 2 = 2 ∧ u.fld .attStatus 2 2 = 0 ∧
        let w := { s with att := none }.memWrite .mgmt r.buf r.bytes
        u.reg .attCount = (w.reg .attCount + 1) % 2 ^ 32 ∧
        ∀ g ∈ w.guardsBuf r.buf, (w.guardTakes g = true → u.guardSt g = 2 ∧ u.guardGen g = (w.guardGen g + 1) % 2 ^ 32) ∧
          (w.guardTakes g = false → u.waitsAt g = true)))

/-- R351, R366, R369, R374: a takeover makes a PAIRED or DIVERGED device SOLO and tells the partner, makes a FENCED one SOLO, and returns
the jobs that a difference has stalled to VOTED; a baseline of a PAIRED device sends a digest for each job; JOIN starts the copy on a SOLO
device whose partner is JOINING, and is refused while a job is not IDLE. The model's choices (log entry 85): what the three bits of TWIN.CTL
ask for has no effect in another state of the twin or while a job is not IDLE, a SOLO device's takeover returns jobs too, and its baseline
matches by itself. Memory is sound where it is hashed. -/
def Obligations.TwinControl : Prop :=
  ∀ (s : State) (m : Master), s.calm →
    (s.twin ∉ [2, 3, 4, 5] ∨ (s.twin = 3 ∧ ∀ j ∈ s.twinJobs, ¬ (s.phase j = 6 ∧ (s.job j).diverged = true)) →
      ∃ s', exec (.takeover m) s = .next s' ∧ OnlyRegs s s' []) ∧
    (∀ j ∈ s.twinJobs, s.twin = 3 → s.phase j = 6 → (s.job j).diverged = true →
      ∃ s', exec (.takeover m) s = .next s' ∧ s'.twin = 3 ∧ s'.phase j = 4 ∧ (s'.job j).diverged = false) ∧
    (s.twin = 5 → s.fatal = false → (∀ i ∈ s.items, i.origin ≠ 1) → s.journal = [] → s.fld .twTake 20 21 = 0 →
      (∀ j ∈ s.twinJobs, s.phase j ≠ 5) →
      ∃ s', exec (.takeover m) s = .next s' ∧ s'.twin = 3 ∧ s'.twinOut = s.twinOut ++ [TwMsg.takeover] ∧
        ∀ j ∈ s.twinJobs, s.phase j = 6 → (s.job j).diverged = true → s'.phase j = 4 ∧ (s'.job j).diverged = false) ∧
    ((s.twin = 2 ∨ s.twin = 4 ∨ s.twin = 5) → s.fatal = false → s.twinJobs = [] → (∀ i ∈ s.items, i.origin ≠ 1) → s.journal = [] →
      s.fld .twTake 20 21 = 0 →
      ∃ s', exec (.takeover m) s = .next s' ∧ s'.twin = 3 ∧
        s'.twinOut = s.twinOut ++ (if s.twin = 4 then [] else [TwMsg.takeover]) ∧ s'.items = s.items ∧ s'.hbm = s.hbm) ∧
    ((s.twin ≠ 2 ∧ s.twin ≠ 3) ∨ (∃ j ∈ s.twinJobs, s.phase j ≠ 1) → ∃ s', exec (.baseline m) s = .next s' ∧ OnlyRegs s s' []) ∧
    (s.twin = 3 → (∀ j ∈ s.twinJobs, s.phase j = 1) → s.poison = [] → s.upset = [] →
      ∃ s', exec (.baseline m) s = .next s' ∧ s'.baseline.isSome = true ∧ s'.fld .twState 5 1 = 1 ∧ s'.twin = 3 ∧
        (s.rejoining = false → s'.twinOut = s.twinOut)) ∧
    (s.twin = 2 → s.peerBaseline = [] → s.twinJobs ≠ [] → (∀ j ∈ s.twinJobs, s.phase j = 1) → s.poison = [] → s.upset = [] → s.fatal = false →
      ∃ s', exec (.baseline m) s = .next s' ∧ s'.baseline.isSome = true ∧ s'.fld .twState 5 1 = s.fld .twState 5 1 ∧ s'.twin = 2 ∧
        s'.twinOut.length = s.twinOut.length + s.twinJobs.length) ∧
    (¬ (s.twin = 3 ∧ s.partnerJoining = true ∧ ∀ j ∈ s.twinJobs, s.phase j = 1) → ∃ s', exec (.join m) s = .next s' ∧ OnlyRegs s s' []) ∧
    (s.twin = 3 → s.partnerJoining = true → (∀ j ∈ s.twinJobs, s.phase j = 1) → s.poison = [] → s.upset = [] → s.fatal = false →
      ∃ s' l, exec (.join m) s = .next s' ∧ s'.rejoining = true ∧ s'.baseline = none ∧ s'.peerBaseline = [] ∧ s'.twin = 3 ∧
        s'.twinOut = s.twinOut ++ TwMsg.rejoin :: l ∧ s'.hbm = s.hbm ∧ s'.jobs = s.jobs ∧
        ∀ j ∈ s.twinJobs, ∃ exp clean dv heads dir dd, TwMsg.notice j (s.step j) exp clean dv heads dir dd ∈ l)

/-! ### Program images -/

/-- R112-R115, R119, R121: a LOAD that passes its checks joins the loader's line and begins when none runs. A chunk is kept where chunk 0
says, chunk 0 of a new load makes the tile LOADING; a seal finds what is missing; hashing decides between SEALED and a NACK. The laggard
rule. R115-R118: a reply and the end of a round. With every tile's ACK the load starts, otherwise what the others lack is sent again,
three rounds at most; then it is abandoned. START runs the slots that the image names, ABANDON leaves them all IDLE; the command completes
with the last tile. The model's choices: where a chunk is kept whose place overlaps another's (log entry 47), that a laggard setting of 0 is
read as its default (log entry 70), the median of an even number of tiles (log entry 76), and that a seal looks for missing chunks before it
checks the descriptor (log entry 111). -/
def Obligations.ProgramImages : Prop :=
  (∀ (s : State) (t : TileId) (L : Loader), s.on = true →
    let T := s.tile (tileCode t)
    (∀ (q : Fin 16384) (u : State) (c : Cmd), s.takeCmd q (wantOp 2) = (u, some c) →
      ∃ v s' : State, exec (.load q) s = .next s' ∧ Brings s v s' ∧
        (u.loader.isSome = true → v = { u with loads := u.loads ++ [c] }) ∧
        (u.loader = none → u.loads = [] → v.loads = [] ∧ ∃ N : Loader, v.loader = some N ∧ N.cmd = c ∧ N.tiles = rectOf (fldLe c.bytes 0x18 4) ∧
          N.loadId = fldLe c.bytes 0x1C 2 ∧ N.phase = 0 ∧ N.round = 0 ∧ N.seals = N.tiles ∧ N.waiting = N.tiles ∧
          N.digest = shake256 N.image 32)) ∧
    (∀ c : Nat, s.loader = some L → L.phase = 0 → c ∈ kget L.toSend (tileCode t) [] →
      let bytes := slice L.image (4096 * c) 4096
      ∃ u s' : State, exec (.chunk t c) s = .next s' ∧ Brings s u s' ∧
        let T' := u.tile (tileCode t)
        (c = 0 → (T.loadId.toNat ≠ L.loadId ∨ T.imgState ≠ 1) →
          T'.imgState = 1 ∧ T'.loadId = BitVec.ofNat 16 L.loadId ∧ T'.chunks = [0] ∧ T'.chunk0 = bytes ∧ T'.mboxes = [] ∧ T'.mem = T.mem ∧
          ∀ k, k < 8 → (T'.slot k).st ≠ .live) ∧
        (c ≠ 0 → T.imgState = 1 → T.loadId.toNat = L.loadId → c ∈ T'.chunks ∧
          (∀ a, imgPlace T.chunk0 c = some a → destIn a 4096 = true → imgCovered T.chunk0 T.chunks c = false →
            ∀ o, mget T'.mem o = if a ≤ o ∧ o < a + 4096 then bytes.getD (o - a) 0 else mget T.mem o) ∧
          ((∀ a, imgPlace T.chunk0 c = some a → destIn a 4096 = false ∨ imgCovered T.chunk0 T.chunks c = true) → T'.mem = T.mem))) ∧
    (s.loader = some L → L.phase = 0 → tileCode t ∈ L.seals →
      ∃ u s' : State, exec (.seal t) s = .next s' ∧ Brings s u s' ∧ u = { s with loader := u.loader, tiles := u.tiles } ∧
        let lack := (List.range L.nchunks).filter fun c => !(decide (T.loadId.toNat = L.loadId) && (T.imgState == 1 || T.imgState == 2) && T.chunks.contains c)
        (lack = [] → (u.tile (tileCode t)).sealed = some { loadId := BitVec.ofNat 16 L.loadId, n := L.nchunks, digest := L.digest }) ∧
        (lack ≠ [] → (u.tile (tileCode t)).reply = some { loadId := BitVec.ofNat 16 L.loadId, reason := 2, resend := lack })) ∧
    (∀ m, T.sealed = some m → T.loadId = m.loadId → (T.imgState = 1 ∨ T.imgState = 2) →
      let why := if imgOk T.chunk0 m.n = false then 4 else if shake256 (readBack T m.n) 32 ≠ m.digest then 3 else 0
      ∃ s', exec (.imageHashDone t) s = .next s' ∧ OnlyTile s s' (tileCode t) ∧
        let T' := s'.tile (tileCode t)
        T'.sealed = none ∧ T'.reply = some { loadId := m.loadId, reason := why, resend := if why = 0 then [] else List.range m.n } ∧ T'.mem = T.mem ∧
        (why ≠ 0 → T'.imgState = T.imgState) ∧
        (why = 0 → T'.imgState = 2 ∧ T'.fpFlags = 0 ∧ T'.wb0 = {} ∧ T'.wb1 = {} ∧
          ∀ i, 1 ≤ i → i ≤ 63 → T'.token i = BitVec.ofNat 16 (fldLe T.chunk0 (0x20 + 2 * (i - 1)) 2))) ∧
    (s.ready = true →
      let least := if s.fld .lagCfg 16 8 = 0 then 8 else s.fld .lagCfg 16 8
      let count := if s.fld .lagCfg 24 4 = 0 then 3 else s.fld .lagCfg 24 4
      let adv := fun c => ((s.tile c).progress - (s.tile c).lagPrev).toNat
      ∃ s', exec .lagSample s = .next s' ∧ ∀ c, c < 2304 → s.groupOf c < 64 →
        let m := median2 (((List.range 2304).filter fun d => s.groupOf d == s.groupOf c).map adv)
        let n := (s.tile c).lagCount
        (s'.tile c).lagPrev = (s.tile c).progress ∧
        (s'.tile c).lagCount = (if m < 2 * least then n else if 4 * adv c < m then n + 1 else 0) ∧
        (2 * least ≤ m → 4 * adv c < m → count ≤ n + 1 → (s'.tile c).lag = true) ∧
        ((s'.tile c).lagCount < count → (s'.tile c).lag = (s.tile c).lag))) ∧
  (∀ (s : State) (t : TileId) (L : Loader), s.on = true → s.loader = some L →
    let T := s.tile (tileCode t)
    let Ends := fun (N : Loader) (why : Nat → Nat × List Nat) =>
      let failed := L.tiles.filter fun x => (why x).1 != 0
      (failed = [] → N.phase = 1 ∧ N.seals = L.tiles) ∧
      (failed ≠ [] → L.round < 3 → N.phase = 0 ∧ N.round = L.round + 1 ∧ N.seals = failed ∧ N.waiting = failed ∧
        ∀ x ∈ failed, kget N.toSend x [] = (why x).2) ∧
      (failed ≠ [] → 3 ≤ L.round → N.phase = 2 ∧ N.seals = L.tiles ∧ N.nfail = failed.length)
    let silent : Nat × List Nat := (1, List.range L.nchunks)
    (∀ r, L.phase = 0 → T.reply = some r → r.loadId.toNat = L.loadId → tileCode t ∈ L.waiting →
      ∃ u s' N, exec (.loaderReply t) s = .next s' ∧ Brings s u s' ∧ u = { s with tiles := u.tiles, loader := some N } ∧
        (u.tile (tileCode t)).reply = none ∧
        (L.waiting.erase (tileCode t) ≠ [] → N = { L with waiting := L.waiting.erase (tileCode t), replies := N.replies } ∧
          ∀ x, kget N.replies x silent = if x = tileCode t then (r.reason, r.resend) else kget L.replies x silent) ∧
        (L.waiting.erase (tileCode t) = [] → Ends N fun x => if x = tileCode t then (r.reason, r.resend) else kget L.replies x silent)) ∧
    (L.phase = 0 →
      ∃ u s' N, exec .loaderRoundTimeout s = .next s' ∧ Brings s u s' ∧ u = { s with loader := some N } ∧ Ends N fun x => kget L.replies x silent) ∧
    (∀ (op status n : Nat) (more : List Byte) (c : Instr), tileCode t ∈ L.seals → L.phase = op →
      (c = .start t ∧ op = 1 ∧ status = 0 ∧ n = 0 ∧ more = []) ∨ (c = .abandon t ∧ op = 2 ∧ status = 1 ∧ n = L.nfail ∧ more = L.failed) →
      let rest := L.seals.erase (tileCode t)
      ∃ v u s', exec c s = .next s' ∧ Brings s u s' ∧
        (rest ≠ [] → u = { v with loader := some { L with seals := rest } }) ∧
        (rest = [] → u = (({ v with loader := none } : State).completeCmd L.cmd status n more).loadNext) ∧
        let T' := v.tile (tileCode t)
        (op = 1 → T.imgState = 2 → OnlyTile s v (tileCode t) ∧ T'.imgState = 3 ∧ ∀ k, k < 8 →
          let e := fldLe T.chunk0 (0x10 + 2 * k) 2
          (e.testBit 15 = false → T'.slot k = {}) ∧
          (e.testBit 15 = true →
            SlotHas (T'.slot k) .live (BitVec.ofNat 13 e)
              (setAt (setAt (fun _ => 0) 1 (BitVec.ofNat 32 (tileCode t))) 2 (BitVec.ofNat 32 k)) (fun _ => 0) (T.slot k).code)) ∧
        (op = 2 → T'.imgState = 4 ∧ ∀ k, k < 8 → (T'.slot k).st = .idle)))

/-! ### Commands of a job -/

/-- R232, R233, R235, R236, R255, R259: a command at the front of its queue that fails a check completes at once with the code of that check
and has no other effect; an unallocated opcode completes with BAD_COMMAND. A FENCE that passes completes with OK; a SWEEP whose arrivals have
not all come may start once their wait has expired, with NV. That the lowest code is given where several checks fail is the model's reading
(log entry 64). -/
def Obligations.CommandsTurnedAway : Prop :=
  ∀ (s u : State) (q : Fin 16384) (b : List Byte), s.on = true → s.cmdFront q = (u, some b) →
    (∀ (op : Nat) (c : Instr), let way := fldLe b 0x10 1
      (op = 1 ∧ c = .stepStart q) ∨ (op = 2 ∧ c = .load q) ∨ (op = 3 ∧ c = .sweep q) ∨ (op = 6 ∧ c = .fenceCommand q) ∨
        (op = 4 ∧ c = .commit q ∧ ∀ i, i < 16 → ∀ x, (s.job i).commit = some x → x.queue ≠ q) ∨
        (op = 5 ∧ ((c = .allGather q ∧ (way = 0 ∨ 3 < way)) ∨ (c = .allToAll q ∧ (way = 1 ∨ 3 < way)) ∨ (c = .allReduce q ∧ (way = 2 ∨ 3 < way)) ∨
          (c = .reduceScatter q ∧ 3 ≤ way))) →
      let w := u.cmdPass q
      let k : Cmd := { id := u.nextCmd, queue := q, bytes := b }
      let Turned := fun (code detail : Nat) => ∃ s', exec c s = .next s' ∧
        Brings s (({ w with nextCmd := u.nextCmd + 1, running := w.running ++ [k] } : State).completeCmd k code detail) s'
      (∀ code detail, fldLe b 0 1 = op → u.cmdWaits q b = false → u.cmdBad q b = some (code, detail) → Turned code detail ∧ 2 ≤ code ∧ code ≤ 5) ∧
      (fldLe b 0 1 = 0 ∨ 7 ≤ fldLe b 0 1 → Turned 2 0)) ∧
    (fldLe b 0 1 = 6 → u.cmdWaits q b = false → u.cmdBad q b = none →
      let w := u.cmdPass q
      let k : Cmd := { id := u.nextCmd, queue := q, bytes := b }
      ∃ s', exec (.fenceCommand q) s = .next s' ∧
        Brings s (({ w with nextCmd := u.nextCmd + 1, running := w.running ++ [k] } : State).completeCmd k 0) s') ∧
    (∀ j, j = fldLe b 1 1 % 16 →
      fldLe b 0 1 = 3 → u.cmdBad q b = none → (∀ x ∈ u.running, x.queue ≠ q) → u.fld .jArrive 16 16 j < fldLe b 0x14 4 → (u.job j).arrExpired = false →
      ∃ v s' : State, exec (.arrivalsTimeout q) s = .next s' ∧ Brings s v s' ∧ (v.job j).arrExpired = true ∧ (v.job j).evNv = true ∧
        (v.job j).evOf = (u.job j).evOf ∧ v.fld .jArrive 16 16 j = u.fld .jArrive 16 16 j ∧ v.phase j = u.phase j ∧ v.hbm = u.hbm)

/-- R73-R75, R212, R236, R237, R256, R373: what STEP_START, SWEEP and COMMIT that pass their checks do to their job; a COMMIT waits for the
open buckets; outside twin operation it ends with the scale of R73 and the next step's number, and STATUS says whether the step was skipped;
the first COMMIT after a catch-up has DETAIL 1 and no other effect. The model's choices: a loss-scale period N of 0 is 2,000 (log entry 66),
and so is one whose limits are out of range (log entry 120); from STEP_START on VOTE.MISSING counts every member, this device too (log entry
121). -/
def Obligations.StepCommands : Prop :=
  ∀ (s u : State) (q : Fin 16384) (c : Cmd), s.on = true → u.segWait = [] →
    let j := c.job
    (s.takeCmd q (wantOp 1) = (u, some c) →
      let scale := match (u.job j).pend with
        | some e => e % 256
        | none => u.fld .jLossScale 0 8 j
      ∃ v s' : State, exec (.stepStart q) s = .next s' ∧ Brings s (v.completeCmd c 0) s' ∧ v.phase j = 2 ∧ v.step j = u.step j ∧
        v.fld .jStatus 4 1 j = 0 ∧ v.fld .jVote 16 8 j = min (u.groupSize (u.jobGroup j)) 255 ∧ v.fld .jArrive 16 16 j = 0 ∧ v.fld .jLossScale 0 8 j = scale ∧
        (v.job j).exp = scale ∧ (v.job j).pend = none ∧ (v.job j).cast = false ∧ (v.job j).votes = [] ∧
        ((∀ st, st < 16 → u.tripped st = false) → u.upset = [] → ∀ p, p < 16 * 2 ^ 37 → mget v.dirMem p = mget u.hbm p) ∧
        ∀ t ∈ rectOf (u.reg .jRect j), t < 2304 → ∃ m, (v.tile t).keyIn = (u.tile t).keyIn ++ [m] ∧
          m.key = BitVec.ofNat 64 (u.reg .jKey j) ∧ m.step = BitVec.ofNat 32 (u.step j) ∧ m.token = u.fld .jCfg 20 6 j) ∧
    (s.takeCmd q (wantOp 3) = (u, some c) → u.stageServes j = true →
      ∃ v s' : State, exec (.sweep q) s = .next s' ∧ Brings s v s' ∧ v.phase j = 3 ∧ (v.job j).sweep = some c ∧ (v.job j).level1 = true ∧
        (v.job j).closedStep = some (u.step j) ∧ ∀ e ∈ v.stage, ¬ (e.job = j ∧ e.step = u.step j)) ∧
    ((∀ i, i < 16 → ∀ x, (s.job i).commit = some x → x.queue ≠ q) → s.takeCmd q (wantOp 4) = (u, some c) →
      ((u.job j).absorb = true →
        ∃ v s' : State, exec (.commit q) s = .next s' ∧ Brings s (v.completeCmd c 0 1) s' ∧ v = { u with jobs := v.jobs } ∧ (v.job j).absorb = false) ∧
      ((u.job j).absorb = false → (u.job j).comparing = false → (∃ x ∈ (u.job j).buckets, x.2.isOpen = true ∧ x.2.complete = false) →
        ∃ v s' : State, exec (.commit q) s = .next s' ∧ Brings s v s' ∧ v.phase j = 5 ∧ (v.job j).commit = some c ∧ v.step j = u.step j ∧ v.hbm = u.hbm) ∧
      ((u.job j).absorb = false → (u.job j).comparing = false → (∀ x ∈ (u.job j).buckets, x.2.isOpen = true → x.2.complete = true) → u.twin = 0 →
        u.givenUp j = false →
        let skip := u.fld .jStatus 4 1 j = 1
        let lo := (u.lossLims j).1
        let hi := (u.lossLims j).2
        let e := u.lossExp j
        let clean := u.fld .jLossClean 0 16 j + 1
        let n := if u.fld .jStatus 5 1 j = 1 ∨ u.fld .jLossClean 16 16 j = 0 then 2000 else u.fld .jLossClean 16 16 j
        ∃ v s' : State, exec (.commit q) s = .next s' ∧ Brings s (v.completeCmd c (if skip then 6 else 0)) s' ∧ v.phase j = 1 ∧
          v.step j = (u.step j + 1) % 2 ^ 32 ∧ (v.job j).commit = none ∧ v.fld .jStatus 4 1 j = 0 ∧
          (skip → v.fld .jLossClean 0 16 j = 0 ∧
            v.fld .jLossScale 0 8 j = (if e = lo then u.fld .jLossScale 0 8 j else toField (e - 1) 8)) ∧
          (¬ skip → clean ≠ n → v.fld .jLossClean 0 16 j = clean % 65536 ∧ v.fld .jLossScale 0 8 j = u.fld .jLossScale 0 8 j) ∧
          (¬ skip → clean = n → v.fld .jLossClean 0 16 j = 0 ∧ v.fld .jLossScale 0 8 j = toField (min (e + 1) hi) 8)))

/-- R68, R70, R153, R215, R237, R252, R259, R260, R318: a COLLECTIVE starts with this device's own contribution and waits for the other
members; the multicast of STEP_START reaches a tile; the update sweep completes its SWEEP, and writes no row of a skipped step; a scrub
rewrites a working copy that differs from its master rounded to BF16, once a step has been committed and no write to the pair is pending. What
a COLLECTIVE sends at its start (log entry 65) and the unit that the scrub's event names (log entry 113) are the model's choice. -/
def Obligations.StepWork : Prop :=
  ∀ (s u : State) (q : Fin 16384) (c : Cmd), s.on = true →
    (∀ (op : Nat) (i : Instr), u.segWait = [] → (∀ y ∈ u.colls, y.cmd.id ≠ c.id) →
      (op = 0 ∧ i = .allGather q) ∨ (op = 1 ∧ i = .allToAll q) ∨ (op = 2 ∧ i = .allReduce q) ∨ (op = 3 ∧ i = .reduceScatter q) →
      s.takeCmd q (fun b => wantOp 5 b && (fldLe b 0x10 1 == op || fldLe b 0x10 1 > 3)) = (u, some c) → fldLe c.bytes 0x10 1 = op →
      let g := fldLe c.bytes 0x11 1
      let seq := kget (u.job c.job).collSeq g 0
      2 ≤ u.groupSize g → u.groupRank g < u.groupSize g →
      ∃ v s' : State, exec i s = .next s' ∧ Brings s v s' ∧ kget (v.job c.job).collSeq g 0 = (seq + 1) % 0x8000 ∧
        ∃ x ∈ v.colls, x.cmd = c ∧ x.job = c.job ∧ x.group = g ∧ x.seq = seq ∧ x.counts.map (·.1) = [u.groupRank g] ∧
          (op ≠ 1 → x.counts = [(u.groupRank g, fldLe c.bytes 0x30 4)]) ∧ (2 ≤ op → x.reports.map (·.rank) = [u.groupRank g]) ∧
          (op ≤ 1 → x.data = [(u.groupRank g, 0, x.own)])) ∧
    (∀ (t : TileId) (m : KeyMsg) (rest : List KeyMsg),
      let T := s.tile (tileCode t)
      T.keyIn = m :: rest → m.token < 64 →
      ∃ s', exec (.jobKeyMulticast t) s = .next s' ∧ OnlyTile s s' (tileCode t) ∧
        let T' := s'.tile (tileCode t)
        T'.keyIn = rest ∧ T'.jobKey = m.key ∧ T'.jobStep = m.step ∧ T'.jobPorts = m.ports ∧ T'.slots = T.slots ∧ T'.mem = T.mem ∧
        ∀ n, T'.token n = if n = m.token ∧ n ≠ 0 then BitVec.ofNat 16 (min ((T.token n).toNat + 1) 65535) else T.token n) ∧
    (∀ j : Fin 16, (s.job j).sweep = some c → s.phase j = 4 → s.l2Done j = true → s.twin ≠ 4 → s.givenUp j = false →
      ∃ v s' : State, exec (.sweepUpdate j) s = .next s' ∧ Brings s (v.completeCmd c 0) s' ∧ (v.job j).sweep = none ∧
        v.phase j = 4 ∧ (s.fld .jStatus 4 1 j = 1 → (∀ x ∈ s.migDir, x.2.st ≠ 1) → (s.job j).wrote = [] → v.hbm = s.hbm)) ∧
    (∀ (ma wa : Addr) (fly : Bool),
      let r := s.memRead .mgmt ma.toNat 4
      let w := r.1.memRead .mgmt wa.toNat 2
      let want := natLe 2 (bf16Rne (leNat r.2)).1
      let skip := fly = true ∨ s.scrubs = false ∨ s.writePending ma.toNat 4 = true ∨ s.writePending wa.toNat 2 = true
      (skip → ∃ s', exec (.masterScrub ma wa fly) s = .next s' ∧ Brings s s s') ∧
      (¬ skip → w.2 = want → ∃ s', exec (.masterScrub ma wa fly) s = .next s' ∧ Brings s w.1 s') ∧
      (¬ skip → w.2 ≠ want → ∃ s', exec (.masterScrub ma wa fly) s = .next s' ∧
        Brings s ((w.1.memWrite .mgmt wa.toNat want).event srcMgmt 0x0205 (natLe 8 ma.toNat ++ natLe 8 wa.toNat)) s'))

/-! ### Buckets and the vote -/

/-- R250-R252, R254, R361: a vote is cast once everything it waits for is here; the fate is decided with the last member's vote; a member
whose vote does not come stalls the job. In a mirrored pair this device's evidence leaves for its partner first. R241-R243, R247, R249, R255,
R258: a record that comes in its turn joins its segment, in the staging area too; a marker ends it, counts it and completes the local part with
the last one. A segment that does not come poisons its bucket. The release completes a bucket whose fate is decided, writing its results unless
the step is skipped, and its completion record. What comes too late or too short (log entry 62), how the header flags are formed (log entry 63)
and where a segment lies in the staging area (log entry 128) are the model's reading. -/
def Obligations.VotesAndBuckets : Prop :=
  (∀ (s : State) (j : Fin 16), s.on = true →
    (s.voteReady j = true → s.pairedMirror = false →
      let e := s.evid j (s.l2Evid j)
      let skip := (e.job j).evOf || (e.job j).evNv
      let votes := (s.selfNode, skip) :: (s.job j).votes.filter (·.1 != s.selfNode)
      let miss := ((s.members (s.jobGroup j)).filter fun n => !votes.any (·.1 == n)).length
      ∃ u s' : State, exec (.voteCast j) s = .next s' ∧ Brings s u s' ∧ (u.job j).cast = true ∧ (u.job j).votes = votes ∧
        u.fld .jVote 16 8 j = min miss 255 ∧ (miss ≠ 0 → u.phase j = 3) ∧
        (miss = 0 → u.phase j = 4 ∧ u.fld .jStatus 4 1 j = (votes.any (·.2)).toNat)) ∧
    (s.voteReady j = true → s.pairedMirror = true → s.fatal = false → s.aloneNow j = false → (s.job j).evSent = false → (s.job j).partnerEv = none →
      let e := s.evid j (s.l2Evid j)
      ∃ u s' : State, exec (.voteCast j) s = .next s' ∧ Brings s u s' ∧ (u.job j).cast = false ∧ (u.job j).evSent = true ∧ u.phase j = 3 ∧
        u.twinOut = s.twinOut ++ [TwMsg.evidence j (s.step j) (e.job j).evOf (e.job j).evNv]) ∧
    (∀ c, s.phase j = 3 → (s.job j).cast = true → (s.job j).sweep = some c → s.votesMissing j ≠ 0 → s.twin ≠ 4 →
      ∃ u s' : State, exec (.voteTimeout j) s = .next s' ∧ Brings s (u.completeCmd c 7 (s.votesMissing j)) s' ∧ u.phase j = 6 ∧
        (u.job j).sweep = none ∧ u.step j = s.step j ∧ u.hbm = s.hbm)) ∧
  (∀ (s : State), s.on = true →
    (∀ (i : Nat) (r : SegRec) (x : Seg), s.segFly[i]? = some r → s.packetTurn r.seg.tile r.no (some (segDest r.seg)) = true →
      let g := r.seg
      let B := s.bucket g.job g.bucket
      s.segLate g = false → B.stageFull = false → B.isOpen = true → B.segs.find? (Seg.same g) = some x → x.bad = false →
      (s.segGrow g r.bytes).bstaged g.job ≤ s.fld .jSizes 0 8 g.job * 2 ^ 30 →
      let new := r.bytes.take (x.nelem * B.gsz - x.bytes.length)
      ∃ u s' : State, exec (.segmentRecord i) s = .next s' ∧ Brings s u s' ∧ u.segFly = s.segFly.eraseIdx i ∧ u.tiles = s.tiles ∧
        (u.bucket g.job g.bucket).segs.find? (Seg.same g) = some { x with bytes := x.bytes ++ new } ∧
        (s.segAt x B.gsz x.bytes.length = none → u.hbm = s.hbm) ∧
        ∀ a, s.segAt x B.gsz x.bytes.length = some a →
          u.hbm = (s.hbmWrite (.portDie (Fin.ofNat 2 B.port)) new a (pieces a new.length)).hbm) ∧
    (∀ (i : Nat) (m : EndMark) (x : Seg), s.endFly[i]? = some m → s.packetTurn m.seg.tile m.no (some (segDest m.seg)) = true →
      let g := m.seg
      let B := s.bucket g.job g.bucket
      s.segLate g = false → B.isOpen = true → B.segs.find? (Seg.same g) = some x → x.bad = false → x.rogue = false →
      (m.cancelled = true ∨ (x.poison = false ∧ x.nelem * B.gsz ≤ x.bytes.length)) →
      ∃ u s' : State, exec (.endMarker i) s = .next s' ∧ Brings s u s' ∧ u.endFly = s.endFly.eraseIdx i ∧
        let B' := u.bucket g.job g.bucket
        B'.ended = B.ended + 1 ∧
        (B.ended + 1 ≠ B.nseg → B'.segs.find? (Seg.same g) = some { x with done := true, poison := x.poison || m.cancelled }) ∧
        B'.hdr = (if m.cancelled then B.hdr ||| 8 else B.hdr) ||| foldFlags (m.flags &&& B.mask) ∧
        (B.ended + 1 = B.nseg → B'.localDone = true) ∧ (B.ended + 1 ≠ B.nseg → B'.localDone = B.localDone)) ∧
    (∀ (j : Fin 16) (b : Nat), s.phase j = 3 → (s.job j).cast = false → (s.bucket j b).isOpen = true → (s.bucket j b).localDone = false →
      ∃ u s' : State, exec (.segmentTimeout j) s = .next s' ∧ Brings s u s' ∧ (u.bucket j b).expired = true ∧ (u.bucket j b).poisonAll = true ∧
        (u.bucket j b).localDone = true ∧ (u.job j).evNv = true) ∧
    (∀ (j : Fin 16) (b : Fin 256), (s.phase j = 4 ∨ s.phase j = 5) → s.bucketReady j b = true →
      let B := s.bucket j b
      let me := s.bucketRank B
      let who : Master := .portDie (Fin.ofNat 2 B.port)
      let lo := if B.opCode = 2 then shardFirst B.shards me else 0
      let n := if B.opCode = 2 then B.shards.getD me 0 else B.nelem
      ∃ u s' : State, exec (.bucketRelease j b) s = .next s' ∧ Brings s u s' ∧ (u.bucket j b).complete = true ∧
        ((∀ g ∈ B.segs, g.rogue = true ∨ g.ret = 0) →
          let w := if B.out ≠ 0 ∧ s.fld .jStatus 4 1 j = 0 ∧ n ≠ 0 then s.memWrite who (B.out + lo * B.rsz) (s.bucketBytes B lo n) else s
          ∃ r, r.length = 32 ∧ r.take 6 = natLe 4 (s.step j) ++ [BitVec.ofNat 8 b, BitVec.ofNat 8 (s.fld .jStatus 4 1 j)] ∧
            slice r 20 4 = natLe 4 (sumInOrder ((List.range (s.bucketP B)).filterMap fun k => (B.shardSums.find? fun x => x.1 == k).map (·.2))) ∧
            u.hbm = (w.memWrite who B.doneAt r).hbm)))

/-! ### Embedding engines -/

/-- R28, R191, R197, R204-R207, R223, R224: a lookup that comes in its turn and names a row that has moved is forwarded first, else its answer
is the pooled vector, zeros for an empty bag and for a closed table; a record that comes in its turn joins its staging entry or makes one; a
late one is discarded; a request is answered with its code. The sizes and places of staging entries (log entries 23, 128), the dimension of a
record for another device (log entry 25) and the order of the codes (log entry 60) are the model's choice. -/
def Obligations.EmbeddingEvents : Prop :=
  ∀ s : State, s.on = true →
    (∀ (t : TileId) (id : Nat) (r : StreamReq) (no : Nat) (bag : List (Option Nat × Nat)),
      let T := s.tile (tileCode t)
      let find := fun (u : State) => (u.tile (tileCode t)).reqs.find? fun (r : StreamReq) => r.id == id
      find s = some r → r.resp = none → r.lost = false → r.fwdLost = false → r.fwd = none → s.packetTurn (tileCode t) id (s.reqDest (tileCode t) r) = true →
      r.kind = .lookup no bag → s.bagServed r.desc.table bag = true →
      let d := r.desc
      let Moved := fun i => ∃ m, s.away d.table i = some m
      let lead := (T.str r.slot).gen = r.gen ∧ (T.str r.slot).desc.leader = true ∧ r.cancelled = false ∧ r.kind.recs ≠ []
      (s.tabOpen (s.tab d.table) = true → (∃ x ∈ bag, ∃ i, x.1 = some i ∧ Moved i) →
        ∃ s', exec (.lookupRequest t id) s = .next s' ∧ s' = { s with tiles := s'.tiles, regs := s'.regs, fwdNext := s.fwdNext + 1 } ∧
          (∀ e, e ≠ tileCode t → s'.tile e = s.tile e) ∧ find s' = some { r with fwd := some (s.reg .emDv), fwdNo := s.fwdNext }) ∧
      ((s.tabOpen (s.tab d.table) = false ∨ ∀ x ∈ bag, ∀ i, x.1 = some i → ¬ Moved i) →
        ∃ s' v n, exec (.lookupRequest t id) s = .next s' ∧ v = (s.pooled d.table d.pool bag).2 ∧
          (¬ lead → find s' = some { r with resp := some [slice v 0 d.recsz], sent := some n }) ∧
          (lead → find s' = some { r with resp := some [], sent := some n }) ∧
          (s.tabOpen (s.tab d.table) = false ∨ bag = [] → ∀ b ∈ v, b = 0))) ∧
    (∀ (i : Nat) (r : PushRec), s.pushFly[i]? = some r → s.dieServes r.die = true →
      s.packetTurn r.tile r.no (some (s.pushDest r)) = true →
      let T := s.tab r.table
      let dim := if T.dim = 0 then r.bytes.length / (if r.bf16 then 2 else 4) else T.dim
      let row := if r.home = 0 ∧ T.rows ≤ r.index then T.rows else r.index
      let same := fun (e : StageEnt) => e.die == r.die && e.job == r.job && e.src == r.tile && e.home == r.home && e.table == r.table &&
        e.row == row && e.step == r.step
      let new : StageEnt :=
        { die := r.die, job := r.job, src := r.tile, home := r.home, table := r.table, row := row, step := r.step, sums := r.vals dim }
      let late := stepBefore r.step (s.step r.job) = true ∨ (r.step = s.step r.job ∧ (s.job r.job).cast = true)
      ∃ s', exec (.pushRecord i) s = .next s' ∧ s'.pushFly = s.pushFly.eraseIdx i ∧
        (late → s'.stage = s.stage ∧ (r.job < 16 → s'.fld .jStatus 6 1 r.job = 1)) ∧
        (r.home = 0 → s.tabOpen T = false → s'.stage = s.stage) ∧
        (¬ late → r.home = 0 → s.tabOpen T = true → T.rows ≤ r.index → T.defGrad = false →
          s'.stage = s.stage ∧ kget (s'.emb r.die).defGrads r.table 0 = kget (s.emb r.die).defGrads r.table 0 + 1) ∧
        ((r.home ≠ 0 ∨ (s.tabOpen T = true ∧ (r.index < T.rows ∨ T.defGrad = true))) →
          (r.step = s.step r.job → (s.job r.job).cast = false → (s.job r.job).closedStep = some r.step →
            s'.stage = s.stage ∧ (s'.job r.job).evNv = true) ∧
          (r.step = s.step r.job → (s.job r.job).cast = false → (s.job r.job).closedStep ≠ some r.step →
            (r.die, r.step) ∉ (s.job r.job).fullDies →
            let w := { s with pushFly := s.pushFly.eraseIdx i }.modTile r.tile fun T => ackLeaves T (srcDie r.die) r.slot r.gen
            (∀ e, s.stage.find? same = some e → s'.stage.find? same = some { e with sums := (addLists (w.stageRead e).2 (r.vals dim)).1 }) ∧
            (∀ e, s.stage.find? same = some e → e.at' = none → (w.stageRead e).2 = e.sums ∧ s'.hbm = s.hbm) ∧
            (s.stage.find? same = none → s.staged r.die + new.size ≤ Config.mergeBuffer + s.fld .emSizes 0 8 r.die * 2 ^ 30 →
              ∃ x, s'.stage = s.stage ++ [{ new with at' := x }] ∧ (s.staged r.die + new.size ≤ Config.mergeBuffer → x = none))))) ∧
    (∀ (d : Fin 16) (v : BitVec 64), (s.emb d).migReq = some v → s.dieServes d = true →
      let a : MigAsk := { table := bfld v 0 16, index := bfld v 16 40, op := bfld v 60 3, target := bfld v 56 4 }
      let T := s.tab a.table
      let r := s.migCheck d a
      ∃ s', exec (.migStatusAnswer d) s = .next s' ∧ s'.reg .emMigStatus d = r.1 ∧ (s'.emb d).migReq = none ∧ s'.hbm = s.hbm ∧
        s'.migDir = s.migDir ∧ (r.1 = 0 → s'.migNext = s.migNext ++ [{ a with slot := r.2 }]) ∧ (r.1 ≠ 0 → s'.migNext = s.migNext) ∧
        (a.op = 0 ∨ 4 < a.op ∨ s.tabOpen T = false ∨ T.rows ≤ a.index → r.1 = 3) ∧
        (1 ≤ a.op → a.op ≤ 4 → s.tabOpen T = true → a.index < T.rows → s.natural T a.index ≠ d → r.1 = 4))

/-! ### Packets received -/

/-- R295, R296, R298, R318, R320: a frame is taken under the row of its opcode and KIND. One that fails a check is counted under its
reason and discarded; a packet that passes them all is processed and may bring pause frames. A port that is down, or of a device that does not
serve, takes none. What some checks of R295 need beyond its words (log entry 98) is the model's reading. -/
def Obligations.FramesTakenIn : Prop :=
  ∀ (row : Fin 18 → List Byte → Instr) (want : Pkt → Bool), (row, want) ∈ frameRows →
    ∀ (s : State) (port : Fin 18) (frame : List Byte), s.on = true →
      let heard := s.setPort .poRx 0 64 port (s.port .poRx 0 64 port + 1)
      let Discarded := fun (n : Nat) (u : State) => u = { s with regs := u.regs } ∧
        u.port .poRx 0 64 port = (s.port .poRx 0 64 port + 1) % 2 ^ 64 ∧
        (n < 13 → u.fld .faDiscard 0 64 (port % 2) n = (s.fld .faDiscard 0 64 (port % 2) n + 1) % 2 ^ 64)
      (s.takes port = false → ∃ s', exec (row port frame) s = .next s' ∧ Brings s s s') ∧
      (s.takes port = true →
        (∀ b, s.parse port frame = .pfc b → ∃ s', exec (row port frame) s = .next s' ∧ Brings s s s') ∧
        (∀ n, s.parse port frame = .bad n → ∃ u s', exec (row port frame) s = .next s' ∧ Brings s u s' ∧ Discarded n u) ∧
        (∀ p, s.parse port frame = .pkt p →
          (want p = false → ∃ s', exec (row port frame) s = .next s' ∧ Brings s s s') ∧
          (∀ n, want p = true → s.pktBad port p = some n →
            ∃ u s', exec (row port frame) s = .next s' ∧ Brings s u s' ∧ Discarded n u) ∧
          (want p = true → s.pktBad port p = none →
            ∃ s', exec (row port frame) s = .next s' ∧ Brings s ((heard.pktIn port p).pfcCheck port) s')))

/-- R302-R307, R311-R315: what a packet that passes does. An acknowledgement frees what it covers; SYNC of a new incarnation clears the
context; at EXP a WRITE writes, a READ is answered with the bytes it names, ACCEPT and REFUSE end their transfer, and an item is judged. Which
reason is given where several apply (log entry 81) and what a cleared context keeps (log entry 101) are the model's reading. -/
def Obligations.PacketEffects : Prop :=
  ∀ (s : State) (port : Fin 18) (p : Pkt), s.diag = false →
    let c := p.ctx
    let C := s.ctx c
    let u := s.pktIn port p
    let U := u.ctx c
    let left := C.out.filter fun t => !psnBefore t.psn p.apsn
    let grant := if (p.climit + 2 ^ 16 - C.limit % 2 ^ 16) % 2 ^ 16 < 2 ^ 15 then p.climit else C.limit
    (p.op = 7 ∨ p.op = 9 → U.out = left ∧ U.limit = grant ∧ U.queue = C.queue ∧ U.expPsn = C.expPsn ∧ U.held = C.held) ∧
    (p.op = 8 → U.limit = grant ∧ (fldLe p.pay 4 32 = 0 → U.out = left) ∧ U.out.map (·.psn) = left.map (·.psn) ∧
      ∀ t ∈ left, t.resentAt = none →
        let k := (t.psn + 2 ^ 24 - fldLe p.pay 0 4 % 2 ^ 24) % 2 ^ 24
        (fldLe p.pay 4 32).testBit k = false → (∃ j, k < j ∧ j < 256 ∧ (fldLe p.pay 4 32).testBit j = true) → { t with again := true } ∈ U.out) ∧
    (p.op = 0x0A → C.out = [] → C.rx = none → c < 2 ^ 20 →
      (fldLe p.pay 0 4 = C.incarnation → U.ctl = C.ctl ++ [(0x0B, s.syncPay c)] ∧ U.expPsn = C.expPsn ∧ U.nextPsn = C.nextPsn ∧ u.hbm = s.hbm) ∧
      (fldLe p.pay 0 4 ≠ C.incarnation → U.ctl = C.ctl ++ [(0x0B, s.syncPay c), (0x0A, s.syncPay c)] ∧ U.expPsn = 0 ∧ U.nextPsn = 0 ∧ U.held = [] ∧
        U.sent = 0 ∧ U.limit = fldLe p.pay 4 4 % 65536 ∧ U.incarnation = fldLe p.pay 0 4 ∧ u.hbm = (s.setCtxSt c 1).hbm)) ∧
    (p.op = 0x0B → C.out = [] → C.rx = none → c < 2 ^ 20 → u.hbm = (s.setCtxSt c 2).hbm ∧ U.incarnation = fldLe p.pay 0 4) ∧
    (p.psn = C.expPsn → C.held = [] → C.rx = none → C.out = [] → C.recv + pktUnits p.op p.pay ≤ C.grant →
      (p.op = 1 → u.hbm = (s.writePkt c p.last p.pay).hbm ∧ U.expPsn = (C.expPsn + 1) % 2 ^ 24 ∧ U.held = []) ∧
      (p.op = 2 → s.twinMode = 0 → fldLe p.pay 12 2 = 0xFFFF → 1 ≤ fldLe p.pay 8 4 → fldLe p.pay 8 4 ≤ 16777216 →
        U.expPsn = (C.expPsn + 1) % 2 ^ 24 ∧ ∃ l, U.queue = C.queue ++ l ∧ (∀ t ∈ l, t.op = 3 ∧ t.status = 0 ∧ t.pay.length ≤ 8192) ∧
          (l.flatMap fun t => t.pay.drop 16) = (s.memRead (s.remoteOf c) (fldLe p.pay 0 6) (fldLe p.pay 8 4)).2) ∧
      (p.op = 5 ∨ p.op = 6 → ∀ e,
        (s.egress.find? fun (e : Egress) => e.started && fldLe e.desc 0 1 == 2 && fldLe e.desc 4 4 == c && e.txMsn == fldLe p.pay 4 4) = some e →
        u.egress = s.egress.filter (fun x => x.id != e.id) ∧ U.expPsn = (C.expPsn + 1) % 2 ^ 24) ∧
      (let q := fldLe p.pay 0 2
       let len := fldLe p.pay 12 4
       let data := p.pay.drop 16
       p.op = 4 → p.first = true → p.last = true → fldLe p.pay 4 4 = C.nextMsn → C.nextMsn < 2 ^ 32 → fldLe p.pay 8 4 = 0 → 1 ≤ len → len ≤ 16777216 → data.length = len →
        q < 16384 → (∀ i ∈ s.items, i.id ≠ s.nextItem) → (∀ i ∈ s.items, ¬ (i.queue = q ∧ i.origin = 2)) →
        let r := s.judge q len (if s.qKind q = 3 then fldLe data 0x10 4 else len)
        U.nextMsn = (C.nextMsn + 1) % 2 ^ 32 ∧
        (r.1 ≠ 0 → u.items = s.items ∧ U.expPsn = (C.expPsn + 1) % 2 ^ 24 ∧
          ∃ t, U.queue = C.queue ++ [t] ∧ t.op = 6 ∧ fldLe t.pay 0 2 = q ∧ fldLe t.pay 2 1 = r.1 % 256 ∧ fldLe t.pay 4 4 = C.nextMsn) ∧
        (r.1 = 0 → U.expPsn = C.expPsn ∧ U.queue = C.queue ∧
          ∃ i, u.items = s.items ++ [i] ∧ i.id = s.nextItem ∧ i.queue = q ∧ i.ctx = c ∧ i.msn = C.nextMsn ∧ i.bytes = data ∧
            i.complete = true ∧ i.accepted = false)))

/-- R213, R243, R246, R251, R258, R260, R318-R321, R362: what segments of collectives and sparse exchanges do once their operation runs:
a vote, a report, partials, results and sums of squares join their bucket, counts and data their COLLECTIVE command, level-1 reports and rows
their job; a request is answered on its context, an answer reaches the stream that waits. What a second contribution changes (log entries 62, 65), what
an index past the table names (log entry 61) and that a LIVE takes effect on arrival (log entry 104) are the model's reading. -/
def Obligations.SegmentEffects : Prop :=
  ∀ (s : State) (c : Nat) (first last : Bool) (l : List Byte),
    let h := cHdr l
    let j := h.job
    let src := s.ctxPeer c
    let B := s.bucket j h.opid
    (fldLe l 0 1 = 4 → s.segTime j h.step = 1 → s.rankOf (s.jobGroup j) src ≠ none → (∀ v ∈ (s.job j).votes, v.1 ≠ src) →
      ∃ u, s.segPkt c 0x10 first last l = some u ∧ (u.job j).votes = (s.job j).votes ++ [(src, h.flags.testBit 4)]) ∧
    (∀ k, h.opid < 0x8000 → s.segTime j h.step = 1 → B.isOpen = true → s.rankOf B.group src = some k →
      (fldLe l 0 1 = 1 → (∀ r ∈ B.reports, r.rank ≠ k) →
        ∃ u, s.segPkt c 0x10 first last l = some u ∧
          (u.bucket j h.opid).reports = B.reports ++ [{ rank := k, e := h.w, flags := h.flags % 16 }]) ∧
      (fldLe l 0 1 = 2 → runAgain B.parts (runOf h k 8 l) = false →
        ∃ u, s.segPkt c 0x10 first last l = some u ∧ (u.bucket j h.opid).parts = B.parts ++ [runOf h k 8 l]) ∧
      (fldLe l 0 1 = 3 → runAgain B.results (runOf h k B.rsz l) = false →
        ∃ u, s.segPkt c 0x10 first last l = some u ∧ (u.bucket j h.opid).results = B.results ++ [runOf h k B.rsz l]) ∧
      (fldLe l 0 1 = 7 → (∀ x ∈ B.shardSums, x.1 ≠ k) →
        ∃ u, s.segPkt c 0x10 first last l = some u ∧ (u.bucket j h.opid).shardSums = B.shardSums ++ [(k, fldLe l 16 4)])) ∧
    (∀ x k, 0x8000 ≤ h.opid →
      (s.colls.find? fun (x : Coll) => x.job == h.job && x.opid == h.opid && (s.rankOf x.group src).isSome) = some x →
      s.rankOf x.group src = some k → (s.colls.map fun y => y.cmd.id).Nodup →
      (fldLe l 0 1 = 5 → (∀ y ∈ x.counts, y.1 ≠ k) →
        ∃ u, s.segPkt c 0x10 first last l = some u ∧ ∀ y ∈ u.colls, y.cmd.id = x.cmd.id → y.counts = x.counts ++ [(k, fldLe l 16 4)]) ∧
      (fldLe l 0 1 = 6 →
        ∃ u, s.segPkt c 0x10 first last l = some u ∧ ∀ y ∈ u.colls, y.cmd.id = x.cmd.id →
          y.data = x.data ++ [(k, h.elem, slice (l.drop 16) 0 h.count)])) ∧
    (s.segTime j (fldLe l 4 4) = 1 → s.rankOf (s.jobGroup j) src ≠ none →
      let J := s.job j
      let d := l.drop 16
      (fldLe l 0 1 = 5 →
        ∃ u, s.segPkt c 0x11 first last l = some u ∧ ∀ r, r ∈ (u.job j).reports ↔ r ∈ J.reports ∨
          ((∃ i, i < fldLe l 0x0C 2 ∧ r = L2Report.mk src (fldLe d (4 * i) 2) (sext (fldLe d (4 * i + 2) 1) 8) (fldLe d (4 * i + 3) 1)) ∧
            ∀ q ∈ J.reports, ¬ (q.src = src ∧ q.table = r.table))) ∧
      (fldLe l 0 1 = 6 → ∃ u, s.segPkt c 0x11 first last l = some u ∧
        ∀ i, i < fldLe l 0x0C 2 → ∃ r ∈ (u.job j).rows, r.src = src ∧ r.table = fldLe l 2 2 ∧
          r.row = s.l2Index (fldLe l 2 2) (fldLe (l.drop 16) (i * (8 + 2 * (s.tab (fldLe l 2 2)).dim)) 8)) ∧
      (fldLe l 0 1 = 7 → (∀ x ∈ J.ends, x.1 ≠ src) →
        ∃ u, s.segPkt c 0x11 first last l = some u ∧ (u.job j).ends = J.ends ++ [(src, fldLe (l.drop 16) 0 8)])) ∧
    (fldLe l 0 1 = 1 → ∃ u, s.segPkt c 0x11 first last l = some u ∧ u.items = s.items ∧
      ∃ a, (u.ctx c).queue = (s.ctx c).queue ++ a ∧ ∀ t ∈ a, t.op = 0x11 ∧ fldLe t.pay 0 1 = 2) ∧
    (fldLe l 0 1 = 3 → ∃ u, s.segPkt c 0x11 first last l = some u ∧ u.items = s.items ∧
      ∃ a, (u.ctx c).queue = (s.ctx c).queue ++ a ∧ (∀ t ∈ a, t.op = 0x11 ∧ fldLe t.pay 0 1 = 4) ∧ (s.twinMode = 0 → 1 ≤ fldLe l 0x0C 2 → a ≠ [])) ∧
    (∀ (t : Nat) (r : StreamReq) (no i : Nat) (bag : List (Option Nat × Nat)), (fldLe l 0 1 = 2 ∨ (fldLe l 0 1 = 4 ∧ fldLe l 2 2 ≤ 8176)) → fldLe l 0x0C 2 = 1 →
      (s.ctx c).asks = [(t, r.id)] → ((s.tile t).reqs.find? fun q => q.id == r.id) = some r → r.kind = .remote [(no, i)] bag → r.resp = none → r.part = [] →
      fldLe l 8 4 = no → (((s.tile t).str r.slot).gen ≠ r.gen ∨ ((s.tile t).str r.slot).desc.leader = false) →
      let bytes := if fldLe l 0 1 = 2 then l.drop 16 else slice l 16 (fldLe l 2 2)
      ∃ u n, s.segPkt c 0x11 first last l = some u ∧ (u.ctx c).asks = [] ∧
        ((u.tile t).reqs.find? fun q => q.id == r.id) = some { r with resp := some [slice bytes 0 (SDesc.recsz r.desc)], sent := some n }) ∧
    (∀ pair step live : Nat, live < 4 →
      let u := s.liveIn pair j step live
      (∀ e, e < 256 → u.fld .twPeer 16 2 e = if pair ≠ 0 ∧ s.fld .twPeer 0 16 e = pair then live else s.fld .twPeer 16 2 e) ∧
      (s.pairedMirror = true → s.fatal = false → live = s.roleBit → s.phase j ≠ 0 → (∀ k ∈ s.twinJobs, s.phase k ≠ 5) → stepBefore step (s.step j) = false →
        step ∈ (u.job j).alone ∧ TwMsg.abandon j step ∈ u.twinOut))

/-! ### Contexts and ports -/

/-- R302, R304-R306, R308, R429, R459: the timers of a context, those of diagnostic mode among them, its failover, and the cache that holds
it: a context the cache cannot correct becomes FAILED. What a FAILED context drops is the model's reading (log entry 102). -/
def Obligations.ContextTimers : Prop :=
  ∀ (s : State) (c : CtxId), s.on = true →
    let k := c.val
    let C := s.ctx k
    let st := (s.ctxRec k).st
    let live := st = 1 ∨ st = 2
    let Becomes := fun (i : Instr) (D : Ctx) => ∃ s', exec i s = .next s' ∧ s' = { s with ctxs := s'.ctxs } ∧ s'.ctx k = D ∧ ∀ d, d ≠ k → s'.ctx d = s.ctx d
    (st = 1 → Becomes (.syncResend c) { C with ctl := C.ctl ++ [(0x0A, s.syncPay k)] }) ∧ (st ≠ 1 → exec (.syncResend c) s = .next s) ∧
    (live → C.expPsn ≠ C.apsnSent → Becomes (.delayedAck c) { C with ctl := C.ctl ++ [(7, [])] }) ∧
    (¬ live ∨ C.expPsn = C.apsnSent → exec (.delayedAck c) s = .next s) ∧
    (live → C.grant ≠ C.grantSent → Becomes (.creditTimer c) { C with ctl := C.ctl ++ [(9, [])] }) ∧
    (¬ live ∨ C.grant = C.grantSent → exec (.creditTimer c) s = .next s) ∧
    (∀ t r, C.out = t :: r → st = 2 →
      (C.retries + 1 < s.ccRetry →
        ∃ u s', exec (.retransmitTimeout c) s = .next s' ∧ Brings s u s' ∧ u = { s with ctxs := u.ctxs } ∧
          u.ctx k = { C with retries := C.retries + 1, rto := min (2 * C.rto) 10000000, out := { t with again := true } :: r }) ∧
      (s.ccRetry ≤ C.retries + 1 → k < 2 ^ 20 → C.rx = none → (∀ e ∈ s.egress, ¬ (e.started = true ∧ fldLe e.desc 4 4 = k)) →
        ∃ u s', exec (.retransmitTimeout c) s = .next s' ∧ Brings s u s' ∧ u.hbm = (s.setCtxSt k 3).hbm ∧
          u.ctx k = { C with queue := [], out := [], ctl := [], held := [], rx := none })) ∧
    (let f := f32Div (f32Nat C.marked) (f32Nat (max C.acked 1))
     let alpha := f32Add C.alpha (f32Div (f32Sub f C.alpha) (f32Nat 16))
     let one := f32Nat 1
     let target := f32Nat s.ccTarget
     let low := f32Nat (if k < 2 ^ 20 then s.ctxFld k 0x2C 4 * 100000000 else 0)
     let line := f32Nat (s.lineRate (if k < 2 ^ 20 then s.ctxPort k else 16 + (k - 2 ^ 20)))
     ∃ r, (0 < C.marked → r = f32Mul C.rate (f32Sub one (f32Div alpha (f32Nat 2)))) ∧
      (C.marked = 0 → f32Gt C.srtt target = true →
        r = f32Mul C.rate (f32Sub one (f32Div (f32Mul (f32Div one (f32Nat 4)) (f32Sub C.srtt target)) C.srtt))) ∧
      (C.marked = 0 → f32Gt C.srtt target = false → r = f32Add C.rate (f32Nat s.ccAi)) ∧
      let b := if f32Gt low r = true then low else r
      Becomes (.rateUpdate c) { C with alpha := alpha, rate := if f32Gt b line = true then line else b, marked := 0, acked := 0 }) ∧
    (let r := s.ctxRec k
     let up := s.port .poLink 0 1 r.port
     (up = 1 → Becomes (.portFailover c) { C with onAlt := false }) ∧
     (up ≠ 1 → r.alt.testBit 7 = true → live → Becomes (.portFailover c) { C with onAlt := true }) ∧
     (up ≠ 1 → r.alt.testBit 7 = false ∨ ¬ live → exec (.portFailover c) s = .next s)) ∧
    (let l := fun (u : State) => kget u.ctxCache ((s.ctxRec k).port % 2) []
     let cached := ∃ x ∈ l s, x.1 = k
     (∀ ue : Bool, live → (ue = false ∨ ¬ cached) →
       ∃ s' pin rest, exec (.contextFetch ⟨c, ue⟩) s = .next s' ∧ s' = { s with ctxCache := s'.ctxCache } ∧ l s' = (k, pin) :: rest ∧
       (∀ x ∈ rest, x ∈ l s ∧ x.1 ≠ k) ∧ ∀ x ∈ l s, x.2 = true → x ∈ l s') ∧
     (live → cached → k < 2 ^ 20 → C.rx = none → (∀ e ∈ s.egress, ¬ (e.started = true ∧ fldLe e.desc 4 4 = k)) →
       ∃ s', exec (.contextFetch ⟨c, true⟩) s = .next s' ∧ s'.hbm = (s.setCtxSt k 3).hbm ∧
         s'.ctx k = { C with queue := [], out := [], ctl := [], held := [], rx := none }) ∧
     (∀ ue : Bool, ¬ live → exec (.contextFetch ⟨c, ue⟩) s = .next s))

/-- R291-R293, R300, R304-R309, R322: a port sends one frame at a time: of a context alone on the device, an unsequenced packet
first, then a retransmission, then the next packet that window, pacing and credit let go; link changes; pause frames. R429: in diagnostic mode
only the host ports change. The layout of a pause frame and its time (log entry 99) and the order in which a context's packets leave (log entry
103) are the model's. -/
def Obligations.PortEvents : Prop :=
  ∀ (s : State) (p : Fin 18), s.on = true →
    (∀ c C, s.ctxs = [(c, C)] → s.takes p = true → s.ctxOut c = p → s.paused p (s.ctxRec c).prio = false → (s.ctxRec c).st = 2 →
      (s.twin = 4 → s.isPair (s.ctxPeer c) = false) →
      let Sends := fun (D : Ctx → Prop) => ∃ s' f, exec (.packetTransmit p) s = .next s' ∧ s'.wire = s.wire ++ [(p.val, f)] ∧
        (s'.ctx c).apsnSent = C.expPsn ∧ (s'.ctx c).grantSent = C.grant ∧ (s'.ctx c).ecn = 0 ∧ D (s'.ctx c) ∧ s'.hbm = s.hbm
      (s.sackDue c = true → Sends fun D => D.sackWant = false ∧ D.sackAt = some s.uptime ∧ D.ctl = C.ctl ∧ D.queue = C.queue ∧ D.out = C.out) ∧
      (∀ x r, s.sackDue c = false → C.ctl = x :: r → Sends fun D => D.ctl = r ∧ D.queue = C.queue ∧ D.out = C.out ∧ D.nextPsn = C.nextPsn) ∧
      (s.sackDue c = false → C.ctl = [] →
        (∀ t, (C.out.find? fun t => t.again) = some t → Sends fun D => D.queue = C.queue ∧ D.nextPsn = C.nextPsn ∧
          (D.out.find? fun x => x.psn == t.psn).map (fun x => (x.again, x.resentAt)) = some (false, some s.uptime)) ∧
        ((∀ t ∈ C.out, t.again = false) → ∀ t r, C.queue = t :: r →
          let room := C.out.length < 256 ∧ C.dueAt ≤ s.uptime ∧ pktUnits t.op t.pay ≤ (C.limit + 2 ^ 16 - C.sent % 2 ^ 16) % 2 ^ 16
          (room → Sends fun D => D.queue = r ∧ D.out = C.out ++ [{ t with psn := C.nextPsn, sentAt := s.uptime }] ∧
            D.nextPsn = (C.nextPsn + 1) % 2 ^ 24 ∧ D.sent = (C.sent + pktUnits t.op t.pay) % 2 ^ 16 ∧ s.uptime ≤ D.dueAt) ∧
          (¬ room → exec (.packetTransmit p) s = .next s)))) ∧
    (s.takes p = false → exec (.packetTransmit p) s = .next s) ∧
    (∀ fec : Nat × Nat,
      let Counts := fun (t : State) => t.port .poFecC 0 64 p = (s.port .poFecC 0 64 p + fec.1) % 2 ^ 64 ∧
        t.port .poFecU 0 64 p = (s.port .poFecU 0 64 p + fec.2) % 2 ^ 64
      (s.diag = true → p.val < 16 → exec (.linkDown ⟨p, fec⟩) s = .next s ∧ ∀ rate peer, exec (.linkUp p rate peer) s = .next s) ∧
      (s.diag = false ∨ 16 ≤ p.val →
      (s.port .poLink 0 1 p = 1 → ∃ s', exec (.linkDown ⟨p, fec⟩) s = .next s' ∧ s'.port .poLink 0 3 p = 0 ∧ Counts s' ∧
        s'.port .poLink 16 16 p = min 65535 (s.port .poLink 16 16 p + 1) ∧ s'.ctxs = s.ctxs ∧ s'.hbm = s.hbm) ∧
      (s.port .poLink 0 1 p = 0 → exec (.linkDown ⟨p, fec⟩) s = .next s) ∧
      (∀ (rate : Fin 4) (xr : XrAdvert),
        let ok := xr.base = true ∧ xr.pages.take 2 = [.oui (BitVec.ofNat 24 (s.fld .faOui 0 24 (p % 2))), .unformatted 0x2C1]
        let ext := p.val < 16 ∧ rate = 3 ∧ ok ∧ s.port .poMac 1 2 p = 2 ∧ s.port .poMac 3 1 p = 1 ∧ 2 ≤ s.tier ∧ p.val ∉ s.xrDown
        let r := if rate = 0 then 0 else if 16 ≤ p.val then 1 else if ext then 3 else 2
        (s.portOpen p = true → ∃ s', exec (.linkUp p rate ⟨xr, fec⟩) s = .next s' ∧ s' = { s with regs := s'.regs, anPages := s'.anPages } ∧
          Counts s' ∧ s'.port .poLink 1 2 p = r ∧ s'.port .poLink 0 1 p = (if r = 0 then 0 else 1) ∧
          s'.port .poLink 3 1 p = (if ok then 1 else 0) ∧ kget s'.anPages p.val [] = s.xrSent p xr.pages) ∧
        (s.portOpen p = false → exec (.linkUp p rate ⟨xr, fec⟩) s = .next s)))) ∧
    (p.val < 16 → s.portOpen p = true → ∃ s', exec (.xrFallback p) s = .next s' ∧ s'.port .poLink 4 1 p = 1 ∧ p.val ∈ s'.xrDown ∧
      (s.port .poLink 1 2 p = 3 → s'.port .poLink 0 3 p = 0) ∧ (s.port .poLink 1 2 p ≠ 3 → s'.port .poLink 0 4 p = s.port .poLink 0 4 p)) ∧
    ((16 ≤ p.val ∨ s.portOpen p = false) → exec (.xrFallback p) s = .next s) ∧
    (∀ (frame l : List Byte), s.takes p = true → s.parse p frame = .pfc l →
      let hit := fun k => (fldBe l 0 2).testBit k = true ∧ (s.port .poMac 5 8 p).testBit k = true
      ∃ s', exec (.pfcFrame p frame) s = .next s' ∧ s' = { s with regs := s'.regs, pause := s'.pause } ∧
        s'.port .poRx 0 64 p = (s.port .poRx 0 64 p + 1) % 2 ^ 64 ∧
        ((∀ k, k < 8 → ¬ hit k) → s'.fld .faDiscard 0 64 (p % 2) 1 = (s.fld .faDiscard 0 64 (p % 2) 1 + 1) % 2 ^ 64) ∧
        ∀ k, k < 8 → kget s'.pause (p * 8 + k) 0 =
          if hit k then s.uptime + fldBe l (2 + 2 * k) 2 * 512 * 1000000000 / s.lineRate p else kget s.pause (p * 8 + k) 0)

/-! ### Queues and the Cloche -/

/-- R324, R325, R331-R336, R379: an item whose conditions hold is accepted, and its bound starts; a port die delivers the item that is next,
with its slot header, TAIL and doorbell; a descriptor's bytes leave on its context or it ends INVALID; a journal entry completes. R460: after a
fatal error nothing is accepted. How much of an entry is written when it completes (log entry 78), what a late item is counted as (log entry 82)
and how a descriptor's message is cut into packets (log entry 84) are the model's reading. -/
def Obligations.QueueEvents : Prop :=
  ∀ s : State, s.on = true → (s.items.map (·.id)).Nodup →
    (∀ (c : BitVec 20) (msn : BitVec 32) (i : Item), s.fatal = false →
      s.itemAt (fun i => i.ctx == c.toNat && i.msn == msn.toNat && s.acceptable i) = some i → s.qPaired i.queue = false →
      let q := i.queue
      let C := s.ctx c.toNat
      let dl := fun lo => if s.qPromised q then some (s.uptime + s.fld .prBound lo 32 0 (s.qClass q)) else none
      ∃ u s', exec (.itemAccept c msn) s = .next s' ∧ Brings s u s' ∧ u.acceptNo = s.acceptNo + 1 ∧
        (∃ t, (u.ctx c.toNat).queue = C.queue ++ [t] ∧ t.op = 5 ∧ fldLe t.pay 0 2 = q % 65536 ∧ fldLe t.pay 2 1 = 0 ∧ fldLe t.pay 4 4 = msn.toNat) ∧
        (let k := (msn.toNat + 2 ^ 32 + 256 - C.nextMsn) % 2 ^ 32
         k < 256 → (u.ctx c.toNat).window.getLsbD k = true) ∧
        (s.qKind q ≠ 3 → u.egress = s.egress ∧
          u.itemAt (·.id == i.id) = some { i with accepted := true, acceptNo := s.acceptNo + 1, acceptAt := s.uptime, deadline := dl 0 }) ∧
        (s.qKind q = 3 → u.items = s.items.filter (fun x => x.id != i.id) ∧
          u.egress = s.egress ++ [{ id := i.id, queue := q, ctx := i.ctx, msn := i.msn, desc := i.bytes, deadline := dl 32 }])) ∧
    (∀ (c : BitVec 20) (msn : BitVec 32), s.fatal = true ∨ s.itemAt (fun i => i.ctx == c.toNat && i.msn == msn.toNat && s.acceptable i) = none →
      ∃ s', exec (.itemAccept c msn) s = .next s' ∧ Brings s s s') ∧
    (∀ (p : Fin 2) (ue : Bool) (i : Item), s.dieNext p = some i → s.q .quStatus 10 1 i.queue = 0 → i.queue < 16384 →
      let q := i.queue
      let tail := s.q .quTail 0 32 q
      let F := footprint i.len
      let n := (kget s.delivered q 0 + 1) % 2 ^ 32
      let s0 := if ue = true then s.ingressUe p else s
      let late := ∃ d, i.deadline = some d ∧ d < s.uptime
      let lateBit := if late then 1 else 0
      let bytes := slice (natLe 4 i.len ++ natLe 4 i.msn ++ natLe 4 (i.ctx % 2 ^ 20 + (i.poisoned || ue).toNat * 2 ^ 20 + lateBit * 2 ^ 21) ++ natLe 4 n ++ i.bytes) 0 F
      let w := (s0.ringWrite' q (tail + 64) (bytes.drop 64)).ringWrite' q tail (bytes.take 64)
      let tok := s.q .quCfg 24 6 q
      let t := s.q .quCfg 12 12 q
      ∃ u s', exec (.itemDeliver ⟨p, ue⟩) s = .next s' ∧ Brings s u s' ∧ u.q .quTail 0 32 q = (tail + F) % 2 ^ 32 ∧
        kget u.delivered q 0 = n ∧ u.items = s.items.filter (fun x => x.id != i.id) ∧ u.hbm = w.hbm ∧
        u.q .quLate 0 64 q = (s.q .quLate 0 64 q + lateBit) % 2 ^ 64 ∧
        (tok ≠ 0 → w.tiles = s.tiles → (u.tile t).token tok = BitVec.ofNat 16 (min (((s.tile t).token tok).toNat + 1) 65535))) ∧
    (∀ (c : BitVec 20) (msn : BitVec 32) (e : Egress),
      (s.egress.find? fun e => e.ctx == c.toNat && e.msn == msn.toNat && !e.started) = some e →
      let d := e.desc
      let out := fldLe d 4 4
      let wr := fldLe d 0 1 = 1
      (s.egressOk e = false → ∃ u s', exec (.egressTransfer c msn) s = .next s' ∧ Brings s u s' ∧
        u.egress = s.egress.filter (fun x => x.id != e.id) ∧ u.ctxs = s.ctxs) ∧
      (s.egressOk e = true → s.ownFlow none out = true → (s.twin = 4 → s.isPair (s.ctxPeer out) = false) → ∃ u s' l, exec (.egressTransfer c msn) s = .next s' ∧ Brings s u s' ∧
        (u.ctx out).queue = (s.ctx out).queue ++ l ∧ (∀ x ∈ l, x.op = (if wr then 1 else 4) ∧ x.egress = some e.id ∧ x.pay.length ≤ 8192) ∧
        (l.flatMap fun x => x.pay.drop 16) = (s.memRead (.portDie (Fin.ofNat 2 (s.qDie e.queue))) (fldLe d 8 8) (fldLe d 0x10 4)).2 ∧
        (u.ctx out).txMsn = (if wr then (s.ctx out).txMsn else ((s.ctx out).txMsn + 1) % 2 ^ 32) ∧
        (u.egress.find? fun x => x.id == e.id).map (·.started) = some true)) ∧
    (∀ (c : BitVec 20) (msn : BitVec 32) (i : Item) (n : Nat) (e : JEnt), s.fatal = false → (s.journal.map (·.jsn)).Nodup →
      s.itemAt (fun i => i.ctx == c.toNat && i.msn == msn.toNat && i.journal.isSome && !i.journalled) = some i → i.journal = some n → i.origin ≠ 1 →
      (s.journal.find? fun x => x.jsn == n) = some e → e.pad = false →
      ∃ u s', exec (.journalEntryComplete c msn) s = .next s' ∧ Brings s u s' ∧ u.itemAt (·.id == i.id) = some { i with journalled := true } ∧
        (u.journal.find? fun x => x.jsn == n) = some { e with complete := true } ∧
        u.reg .clJournalled = (s.reg .clJournalled + 1) % 2 ^ 64 ∧ u.hbm = (s.jPut e.off ((e.bytes false i.bytes).take 64)).hbm)

/-- R384-R386, R410, R489: PFAIL_N starts a flush of a valid journal, which stops everything else once the journal writes under way have ended
and leaves its slot unsealed until it ends, and gives the pins back; without a journal, or within 50 ms of a rise of WARM_N, nothing is flushed.
A flush that ends seals the anchor and its slot on the channels that work, on blocks not known to be bad, leaves the other slot and logs the
blocks that failed; the reset that waited for it follows. What an earlier fatal error leaves of the journal (log entry 72), how a reset and a
flush meet (log entry 73), which slot is written and where its pages lie (log entry 77), and the anchor's bytes (log entry 78) are the model's
reading. -/
def Obligations.ClocheFlushes : Prop :=
  ∀ (s : State) (chans : List (Fin 2)) (us : BitVec 32) (bad : List (Fin 2 × Nat)),
    (s.pwrgood = true →
      let k := s.fld .clStatus 7 1
      ∃ s', exec .clocheFlush s = .next s' ∧ s'.pfailN = false ∧ s'.jtagPins = false ∧ kget s'.nand (1 - k) {} = kget s.nand (1 - k) {} ∧
        (s.flashOp = none → (∀ i ∈ s.items, i.journal = none ∨ i.journalled = true) → s'.hbm = s.hbm) ∧
        (s.flush = none → s.journalValid = true → s.warmUntil ≤ s.uptime →
          s'.flush = some .pfail ∧ s'.ready = false ∧ s'.gated = true ∧ s'.on = false ∧ s'.fld .clStatus 4 1 = 1 ∧ (kget s'.nand k {}).anchor = [] ∧
          (s.flashOp = none → ∀ i, s.items = [i] → i.journal ≠ none → ∀ x ∈ s'.items, x.journalled = true)) ∧
        (s.flush ≠ none ∨ s.journalValid = false ∨ s.uptime < s.warmUntil →
          s'.flush = s.flush ∧ s'.ready = s.ready ∧ s'.gated = s.gated ∧ s'.nand = s.nand)) ∧
    (s.pwrgood = false → exec .clocheFlush s = .next { s with pfailN := false, jtagPins := false }) ∧
    (s.flush = none → exec (.flushComplete ⟨chans, bad⟩ us) s = .next s) ∧
    (∀ why, s.flush = some why → s.resetAfter = none →
      let k := s.fld .clStatus 7 1
      ∃ s', exec (.flushComplete ⟨chans, bad⟩ us) s = .next s' ∧ s'.flush = none ∧ s'.journalValid = false ∧ s'.fld .clStatus 4 1 = 0 ∧
        (∀ b ∈ bad, b ∈ s'.nandBad) ∧ (∃ l, s'.flogQueue = s.flogQueue ++ l ∧ l.map (fun x => (x.1, fldLe x.2 0 1, fldLe x.2 2 4)) = bad.map fun b => (5, b.1.val, b.2 % 2 ^ 32)) ∧
        (chans = [] → s'.nand = s.nand ∧ s'.hbm = s.hbm) ∧
        (chans ≠ [] →
          let slot := kget s'.nand k {}
          let get := mgets slot.anchor
          s'.hbm = (s.jPut 0 ((s.sealAnchor chans.length (s.reg .clFlushCount + 1) us.toNat).take 256)).hbm ∧
          s'.reg .clFlushCount = (s.reg .clFlushCount + 1) % 2 ^ 64 ∧ slot.chans = chans ∧ kget s'.nand (1 - k) {} = kget s.nand (1 - k) {} ∧
          (∀ p ∈ slot.pages, (p.chan, p.block) ∉ s'.nandBad ∧ (chans.length ≠ 1 → p.chan.val = p.page % 2) ∧ ∀ c, chans = [c] → p.chan = c) ∧
          leNat (get 0 4) = 0x434C4F43 ∧ leNat (get 8 8) = (s.reg .clFlushCount + 1) % 2 ^ 64 ∧
          get 0xE0 32 = shake256 (get 0 0xE0 ++ List.replicate 32 0 ++ get 0x100 (0x80000 - 0x100)) 32)) ∧
    (∀ why cold, s.flush = some why → s.resetAfter = some cold → s.startWait = none →
      ∃ s', exec (.flushComplete ⟨chans, bad⟩ us) s = .next s' ∧ s'.flush = none ∧ s'.ready = false ∧ s'.resetAfter = none ∧ s'.tiles = [] ∧
        (cold = true → s'.hbm = [] ∧ s'.aon = none) ∧
        s'.reg .cause % 8 = if s.thermN = true then (if cold = true then (if why = .reset then 2 else 1) else 3) else 4)

/-! ### The twin -/

/-- R347, R350, R351, R366, R369, R374, R429, R460: heartbeats, the halves, pairing and a partner's takeover decide the state of the twin. Without
a partner role A acts alone and role B is fenced; devices that match pair, and the WHY of those that do not is the first mismatch; a rejoin whose
digests are equal ends PAIRED, one whose difference stays ends DIVERGED. The link carries nothing in diagnostic mode or after a fatal error. What
a baseline of a SOLO device or a takeover that returns jobs does (log entry 85) and that a rejoin's copy comes whole (log entry 88) are the model's choice. -/
def Obligations.TwinStates : Prop :=
  ∀ s : State, s.on = true →
    let alone := if s.roleB = true then 4 else 3
    (∀ h : Fin 2,
      let up := s.fld .twState (3 + h) 1
      let other := s.fld .twState (4 - h) 1
      (up = 1 → s.diag = false → s.fatal = false → exec (.twinHeartbeat h) s = .next { s with twinOut := s.twinOut ++ [TwMsg.heartbeat h] }) ∧
      (up = 0 ∨ s.diag = true ∨ s.fatal = true → exec (.twinHeartbeat h) s = .next s) ∧
      (up = 0 → ∃ s', exec (.twinHalfDown h) s = .next s' ∧ Brings s s s') ∧
      (up = 1 → ∃ u s', exec (.twinHalfDown h) s = .next s' ∧ Brings s u s' ∧ u.fld .twState (3 + h) 1 = 0 ∧ u.fld .twState (4 - h) 1 = other ∧
        (other = 1 ∨ (s.twin ≠ 2 ∧ s.twin ≠ 5) → u.twin = s.twin) ∧ (other = 0 → s.twin = 2 ∨ s.twin = 5 → u.twin = alone)) ∧
      (s.twinOn = true → s.diag = false → ∃ s', exec (.twinHalfUp h) s = .next s' ∧ s' = { s with regs := s'.regs } ∧ s'.fld .twState (3 + h) 1 = 1 ∧
        s'.fld .twState (4 - h) 1 = other ∧ s'.twin = s.twin) ∧
      (s.twinOn = false ∨ s.diag = true → exec (.twinHalfUp h) s = .next s)) ∧
    (∀ m : PairMsg, s.twinOn = true → s.halvesUp ≠ 0 → s.fatal = false →
      let why := if m.mode.val ≠ s.twinMode then 2 else if m.role = s.roleB then 3 else if m.pairNode.toNat ≠ s.pairNode then 4
        else if m.digest ≠ s.pairDig then 5 else 0
      (s.twin = 3 → ∃ u s', exec (.pairing m) s = .next s' ∧ Brings s u s' ∧
        u = { s with twinOut := s.twinOut ++ [TwMsg.pairing s.pairMsg], partnerJoining := decide (why = 0) && !m.solo }) ∧
      (s.twin = 0 → ∃ u s', exec (.pairing m) s = .next s' ∧ Brings s u s' ∧ (why ≠ 0 → u.twin = alone ∧ u.fld .twState 6 4 = why) ∧
        (why = 0 → u.twin = (if m.solo = true then 1 else 2) ∧ u.fld .twState 6 4 = s.fld .twState 6 4)) ∧
      (s.twin ≠ 0 → s.twin ≠ 3 → ∃ s', exec (.pairing m) s = .next s' ∧ Brings s s s')) ∧
    (s.twinOn = true → s.halvesUp ≠ 0 → s.fatal = false →
      (s.twin = 2 ∨ s.twin = 5 → ∃ u s', exec .takeoverNotice s = .next s' ∧ Brings s u s' ∧ u.twin = 4) ∧
      (s.twin ≠ 2 → s.twin ≠ 5 → ∃ s', exec .takeoverNotice s = .next s' ∧ Brings s s s')) ∧
    (∀ (peer : List (Fin 16 × List Byte × Repair)) (copy : RejoinCopy),
      let b := (if s.twin = 1 then s.joinIn copy else s.tell [TwMsg.rejoined s.joinCopy]).baseStart
      let P := peer.foldl (fun m x => kput m x.1.val (x.2.1, x.2.2)) b.peerBaseline
      (s.twin = 1 ∨ (s.twin = 3 ∧ s.rejoining = true) →
        ((∀ j ∈ b.twinJobs, ∃ x, (P.find? fun y => y.1 == j) = some (j, b.ddOf j, x)) →
          ∃ u s', exec (.rejoinComplete peer copy) s = .next s' ∧ Brings s u s' ∧ u.twin = 2 ∧ u.fld .twState 5 1 = 1 ∧ u.rejoining = false ∧
            u.baseline = none) ∧
        (∀ j d rep, b.twinJobs = [j] → (P.find? fun y => y.1 == j) = some (j, d, rep) → d ≠ b.ddOf j →
          (∃ t ∈ b.diffTabs true j rep, b.diffBlocks true j rep t = []) →
          ∃ u s', exec (.rejoinComplete peer copy) s = .next s' ∧ Brings s u s' ∧ u.twin = 5 ∧ u.rejoining = false ∧ u.phase j = 6)) ∧
      (s.twin ≠ 1 → s.twin ≠ 3 ∨ s.rejoining = false → ∃ s', exec (.rejoinComplete peer copy) s = .next s' ∧ Brings s s s'))

/-- R353, R354, R357-R359, R361, R362, R365, R369, R370, R373, R460: messages of the twin link. An item is kept as a copy or refused,
acknowledged, ordered, dropped; evidence, digests and commits of the partner reach the job; equal digests commit the step, a difference that stays
makes both DIVERGED; shadow bytes are written as any access, relayed packets leave or are processed; a catch-up commits the step. Without the link,
or after a fatal error, nothing comes. The model's choices: what changes in another state of the twin (log entry 85), the bounds of copies and
what a drop leaves (log entry 86), what a notice carries (log entries 87, 88), and that a difference stays after one round (log entry 89). -/
def Obligations.TwinMessages : Prop :=
  ∀ s : State, s.on = true →
    (∀ c : Instr, c.ofTwinLink = true → (s.twinOn = false ∨ s.halvesUp = 0 ∨ s.fatal = true) → exec c s = .next s) ∧
    (s.twinOn = true → s.halvesUp ≠ 0 → s.fatal = false → (s.items.map (·.id)).Nodup → (∀ i ∈ s.items, i.id ≠ s.nextItem) →
      ∀ (q : Fin 16384) (c : BitVec 20) (msn ord : BitVec 32) (bytes : List Byte),
        let Goes := fun (i : Instr) (P : State → Prop) => ∃ u s', exec i s = .next s' ∧ Brings s u s' ∧ P u
        let nothing := fun (u : State) => u = s
        (s.twin = 1 ∨ s.twin = 2 ∨ s.twin = 5 →
          let full := s.qOpen q = false ∨ (s.qKind q ≠ 3 ∧ s.qRoom q < footprint bytes.length) ∨ s.jFree < entSize bytes.length
          (full → Goes (.item q c msn ord bytes) fun u => u.items = s.items ∧ u.journal = s.journal ∧
            u.twinOut = s.twinOut ++ [TwMsg.itemNak q c.toNat msn.toNat]) ∧
          (¬ full → s.qProtect q = true → Goes (.item q c msn ord bytes) fun u => u.twinOut = s.twinOut ∧ ∃ i, u.items = s.items ++ [i] ∧
            i.id = s.nextItem ∧ i.queue = q.val ∧ i.ctx = c.toNat ∧ i.msn = msn.toNat ∧ i.bytes = bytes ∧ i.origin = 1 ∧ i.complete = true ∧
            i.journalled = false ∧ ∃ e ∈ u.journal, i.journal = some e.jsn ∧ e.queue = q.val ∧ e.len = bytes.length)) ∧
        (∀ i, s.mirrored 0 q c.toNat msn.toNat = some i →
          (s.orders = true → Goes (.itemAck q c msn ord) fun u => u.itemAt (·.id == i.id) = some { i with twinAck := true }) ∧
          (s.orders = false → Goes (.itemAck q c msn ord) fun u =>
            u.itemAt (·.id == i.id) = some { i with twinAck := true, ord := some ord.toNat } ∧ kget u.ordNext q 0 = (ord.toNat + 1) % 2 ^ 32) ∧
          (i.accepted = true → Goes (.itemNak q c msn) fun u => u = { s with regs := u.regs }) ∧
          (i.accepted = false → Goes (.itemNak q c msn) fun u => u.items = s.items.filter (fun x => x.id != i.id) ∧
            ∃ t, (u.ctx c.toNat).queue = (s.ctx c.toNat).queue ++ [t] ∧ t.op = 6 ∧ fldLe t.pay 2 1 = 1 ∧ fldLe t.pay 4 4 = msn.toNat)) ∧
        (∀ i, s.mirrored 1 q c.toNat msn.toNat = some i →
          (let dl := if s.qPromised q then some (s.uptime + s.fld .prBound 0 32 0 (s.qClass q)) else none
           let x : Item := { i with ord := some ord.toNat, accepted := true, acceptNo := s.acceptNo + 1, acceptAt := s.uptime, deadline := dl }
           s.qKind q ≠ 3 → Goes (.order q c msn ord) fun u => kget u.ordNext q 0 = (ord.toNat + 1) % 2 ^ 32 ∧
            u.itemAt (·.id == i.id) = some x) ∧
          Goes (.drop q c msn) fun u => u.items = s.items.filter fun x => x.id != i.id) ∧
        (s.mirrored 0 q c.toNat msn.toNat = none → Goes (.itemAck q c msn ord) nothing) ∧
        (s.mirrored 1 q c.toNat msn.toNat = none → Goes (.order q c msn ord) nothing ∧ Goes (.drop q c msn) nothing) ∧
        (∀ (j : Fin 16) (step : BitVec 32) (o n : Bool), Goes (.evidence j step o n) fun u =>
          u = { s with jobs := u.jobs } ∧ u.job j = { s.job j with partnerEv := some (step.toNat, o, n) }) ∧
        (∀ (j : Fin 16) (step : BitVec 32) (dd : List Byte) (rep : Repair) (k : Cmd),
          (s.twin ≠ 2 → rep.base = false → Goes (.deviceDigest j step dd rep) nothing) ∧
          (s.twin = 2 → rep.base = true → s.phase j = 1 → step.toNat = s.step j → s.baseline = none → Goes (.deviceDigest j step dd rep) fun u =>
            u = { s with peerBaseline := kput s.peerBaseline j.val (dd, rep) }) ∧
          (s.twin = 2 → rep.base = false → s.aloneNow j = false → (s.job j).comparing = true → step.toNat = s.step j → (s.job j).commit = some k →
            ((s.job j).dd = some dd → Goes (.deviceDigest j step dd rep) fun u => ∃ v : State,
              u = v.completeCmd k (if s.fld .jStatus 4 1 j = 1 then 6 else 0) ∧ v.phase j = 1 ∧ v.step j = (s.step j + 1) % 2 ^ 32) ∧
            (∀ own, (s.job j).dd = some own → own ≠ dd →
              (s.job j).repaired = true ∨ (∃ t ∈ s.diffTabs false j rep, s.diffBlocks false j rep t = []) →
              Goes (.deviceDigest j step dd rep) fun u =>
                ∃ (v : State) (n : Nat), u = v.completeCmd k 8 n ∧ v.twin = 5 ∧ v.phase j = 6 ∧ v.step j = s.step j))) ∧
        (∀ (j : Fin 16) (step : BitVec 32) (exp : BitVec 8) (clean : BitVec 16) (dv : BitVec 32) (heads : List (Nat × BitVec 32))
          (dir : List (Fin 4096 × Option DirEnt)) (dd : List Byte),
          (s.pairedMirror = true → Goes (.commitNotice j step exp clean dv heads dir dd) fun u => (u.job j).peerCommitted = some step.toNat ∧ u.step j = s.step j) ∧
          (s.twin = 1 → Goes (.commitNotice j step exp clean dv heads dir dd) fun u => u.step j = step.toNat ∧ u.fld .jLossScale 0 8 j = exp.toNat ∧
            u.fld .jLossClean 0 16 j = clean.toNat ∧ ∀ d, d < 16 → u.reg .emDv d = dv.toNat)) ∧
        (∀ (t : BitVec 16) (x : BitVec 64) (a : Addr) (slot : List Byte),
          (s.twin = 1 ∨ s.twin = 2 → Goes (.shadowDelta t x a slot) fun u => u = { s.shadowTables.twinPut slot a.toNat with jobs := u.jobs }) ∧
          (s.twin ≠ 1 → s.twin ≠ 2 → Goes (.shadowDelta t x a slot) nothing)) ∧
        (∀ (j : Fin 16) (step : BitVec 32), s.pairedMirror = true → s.phase j ≠ 0 → stepBefore step.toNat (s.step j) = false →
          Goes (.stepAbandon j step) fun u => step.toNat ∈ (u.job j).abandoned ∧ u = { s with jobs := u.jobs }) ∧
        (∀ packet : List Byte,
          let p := pktOf packet
          (s.twin ≠ 2 → s.twin ≠ 3 → s.twin ≠ 5 → Goes (.relay c packet) nothing) ∧
          (s.twin = 2 ∨ s.twin = 3 ∨ s.twin = 5 →
            (p.src = s.pairNode → Goes (.relay c packet) fun u =>
              (u.ctx c.toNat).queue = (s.ctx c.toNat).queue ++ [{ op := p.op, first := p.first, last := p.last, pay := p.pay }]) ∧
            (p.src ≠ s.pairNode →
              (p.op = 1 → Goes (.relay c packet) fun u => u = s.writePkt c.toNat p.last p.pay) ∧
              (p.op = 2 → Goes (.relay c packet) fun u => u = s.readPkt c.toNat p.psn p.pay) ∧
              (p.op = 5 ∨ p.op = 6 → Goes (.relay c packet) fun u => u = s.egressAnswer c.toNat p.pay) ∧
              ∀ v, p.op = 0x10 ∨ p.op = 0x11 → s.segPkt c.toNat p.op p.first p.last p.pay = some v → Goes (.relay c packet) fun u => u = v))) ∧
        (∀ (j : Fin 16) (step : BitVec 32) (exp : BitVec 8) (clean : BitVec 16) (dv : BitVec 32) (dd : List Byte) (copies : List (Addr × List Byte)),
          s.pairedMirror = true → step.toNat = s.step j → s.catchupDue j = true → s.phase j ≠ 0 → (s.job j).commit = none → (s.job j).sweep = none →
          Goes (.catchup j step exp clean dv dd copies true) (fun u => u.twin = 5 ∧ u.phase j = 6 ∧ u.step j = s.step j) ∧
          Goes (.catchup j step exp clean dv dd copies false) fun u => u.phase j = 1 ∧ u.step j = (s.step j + 1) % 2 ^ 32 ∧
            (u.job j).absorb = true ∧ u.fld .jLossScale 0 8 j = exp.toNat ∧ u.fld .jLossClean 0 16 j = clean.toNat ∧ u.twin = s.twin))

/-! ### Power, resets and starts -/

/-- R385, R398, R407-R410, R426, R430, R431, R489: what each reset clears and keeps, what waits for a flush, and when a start runs. A cold reset
with a journal flushes first, and the slot it writes is unsealed until the flush ends. A warm start with a valid always-on record admits the
contexts of the held image at once and is READY, or in diagnostic mode, when its time has passed (log entry 74); without one it runs as a cold
start. How a reset and a flush meet (log entry 73), what an earlier fatal error leaves (log entry 72), and PWRGOOD rising with the root PLL's
lock (log entry 105) are the model's choice. -/
def Obligations.ResetsAndStarts : Prop :=
  ∀ s : State,
    let Clears := fun (s' : State) (cause : Nat) => s'.ready = false ∧ s'.on = false ∧ s'.tiles = [] ∧ s'.ctxs = [] ∧ s'.items = [] ∧
      s'.jobs = [] ∧ s'.early = none ∧ s'.nand = s.nand ∧ s'.flash = s.flash ∧ s'.uptime = s.uptime ∧ (∀ k, k < 4 → s'.reg .evFatal k = s.reg .evFatal k) ∧
      s'.reg .cause = (if s.thermN = true then cause else 4)
    (∃ s', exec .powerOnReset s = .next s' ∧ s'.pwrgood = false ∧ s'.pllLocked = false ∧ s'.on = false ∧ s'.ready = false ∧ s'.uptime = 0 ∧
      s'.tiles = [] ∧ s'.hbm = [] ∧ s'.regs = [] ∧ s'.ctxs = [] ∧ s'.aon = none ∧ s'.flush = none ∧ s'.thermN = true ∧ s'.nand = s.nand ∧
      s'.nandBad = s.nandBad ∧ s'.flash = s.flash ∧ s'.pfailN = s.pfailN ∧ s'.pending = s.pending) ∧
    (s.pllLocked = false → exec .rootPllLock s = .next { s with pwrgood := true, pllLocked := true }) ∧
    (s.pllLocked = true → exec .rootPllLock s = .next s) ∧
    (s.pwrgood = true → s.resetN = true →
      (s.flush = none → s.journalValid = false →
        ∃ s', exec .coldReset s = .next s' ∧ Clears s' 1 ∧ s'.resetN = false ∧ s'.hbm = [] ∧ s'.aon = none) ∧
      (s.flush = none → s.journalValid = true →
        ∃ s', exec .coldReset s = .next s' ∧ s'.resetN = false ∧ s'.flush = some .reset ∧ s'.resetAfter = some true ∧ s'.ready = false ∧
          s'.on = false ∧ s'.startWait = none ∧ (let k := s.fld .clStatus 7 1
            (kget s'.nand k {}).anchor = [] ∧ ∀ o, o ≠ k → kget s'.nand o {} = kget s.nand o {}) ∧ ((∀ i ∈ s.items, i.journal = none ∨ i.journalled = true) → s'.hbm = s.hbm)) ∧
      (s.flush ≠ none → exec .coldReset s = .next { s with resetN := false, resetAfter := some true, startWait := none })) ∧
    (s.pwrgood = false ∨ s.resetN = false → exec .coldReset s = .next s) ∧
    (s.pwrgood = true → s.warmN = true →
      (s.resetN = false → exec .warmReset s = .next { s with warmN := false, startWait := none }) ∧
      (s.resetN = true → s.flush = none →
        ∃ s', exec .warmReset s = .next s' ∧ Clears s' 3 ∧ s'.warmN = false ∧ s'.hbm = (s.hbm.filter fun x => x.1 < 2 ^ 38) ∧ s'.aon = s.aon) ∧
      (s.resetN = true → s.flush ≠ none →
        exec .warmReset s = .next { s with warmN := false, resetAfter := some (s.resetAfter.getD false), startWait := none })) ∧
    (s.pwrgood = false ∨ s.warmN = false → exec .warmReset s = .next s) ∧
    (∀ env : StartEnv,
      let Ran := fun (s' : State) => (s'.ready = true ∧ s'.fld .start 0 4 = 10) ∨ (s'.diag = true ∧ s'.fld .start 0 4 = 11 ∧ s'.faultN = false)
      let Started := fun (i : Instr) => ∃ s', exec i s = .next s' ∧ Ran s'
      let powered := s.pwrgood = true ∧ s.pllLocked = true
      let power := powered ∧ s.flush = none
      (power → s.resetN = false → s.jtagHolds = false → s.warmN = true → Started (.coldStart env)) ∧
      (power → s.resetN = false → s.jtagHolds = true → s.warmN = true → exec (.coldStart env) s = .next { s with resetN := true, startWait := some env }) ∧
      (power → s.resetN = false → s.warmN = false → exec (.coldStart env) s = .next { s with resetN := true }) ∧
      (powered → s.resetN = false → s.flush ≠ none → exec (.coldStart env) s = .next { s with resetN := true, startWait := some env }) ∧
      (¬ powered ∨ s.resetN = true → exec (.coldStart env) s = .next s) ∧
      (∀ (chans : List (Fin 2)) (us : BitVec 32) (bad : List (Fin 2 × Nat)) (why : FlushWhy), s.flush = some why → s.resetAfter = some true →
        s.startWait = some env → s.resetN = true → s.warmN = true → s.jtagHolds = false → Started (.flushComplete ⟨chans, bad⟩ us)) ∧
      (power → s.warmN = false → s.resetN = true → s.startWait = none → s.jtagHolds = false →
        (s.aon = none → Started (.warmStart env) ∧
          exec (.warmStart env) s = exec (.coldStart env) { s with warmN := true, resetN := false, warmUntil := s.uptime + 50000000 }) ∧
        (∀ o, s.aon = some o → ∃ s', exec (.warmStart env) s = .next s' ∧ s'.warmN = true ∧ s'.warmUntil = s.uptime + 50000000 ∧
          (Ran s' ∨ (s'.ready = s.ready ∧ s'.aon = s.aon ∧ s'.pfailN = (!env.pfail) ∧
            ∃ e, s'.early = some e ∧ e.env = env ∧ e.due = s.uptime + 1000000 * env.readyMs)))) ∧
      (power → s.warmN = false → s.resetN = true → s.startWait = none → s.jtagHolds = true →
        exec (.warmStart env) s = .next { s with warmN := true, startWait := some env }) ∧
      (power → s.warmN = false → (s.resetN = false ∨ s.startWait ≠ none) → exec (.warmStart env) s = .next { s with warmN := true }) ∧
      (powered → s.warmN = false → s.flush ≠ none → exec (.warmStart env) s = .next { s with warmN := true, startWait := some env }) ∧
      (¬ powered ∨ s.warmN = true → exec (.warmStart env) s = .next s) ∧
      (∀ e o, s.pending = [] → s.tick.early = some e → s.tick.aon = some o → s.tick.on = true → s.tick.fatal = false →
        (e.due ≤ s.tick.uptime → ∃ s', step s = .next s' ∧ Ran s' ∧ s'.early = none) ∧ (s.tick.uptime < e.due → step s = .next s.tick)))

/-- R385, R406, R460: the four fatal errors. The first records itself and takes the device out of READY; a later one only counts. A thermal
trip and the watchdog flush a valid journal, but not a trip of a die the flush needs; the two others drop it, and end a flush that PFAIL_N or
a reset began. That a trip's or the watchdog's own flush goes on through a later error, and what becomes of the journal (log entry 72), are the
model's choice. -/
def Obligations.FatalErrors : Prop :=
  ∀ s : State,
    let k := s.fld .clStatus 7 1
    let unsealed := fun (s' : State) => (kget s'.nand k {}).anchor = [] ∧ ∀ o, o ≠ k → kget s'.nand o {} = kget s.nand o {}
    let own := fun (w : FlushWhy) => w = .trip ∨ w = .watchdog
    let Fatal := fun (typ : Nat) (s' : State) => s'.fld .evCounts 48 16 = min 65535 (s.fld .evCounts 48 16 + 1) ∧
      (s.fatal = false → s'.ready = false ∧ s'.faultN = false ∧ s'.alertCause.getLsbD 3 = true ∧
        (s.reg .evFatal = 0 → s'.fld .evFatal 0 16 = typ ∧ s'.reg .evFatal 1 = s.uptime % 2 ^ 64))
    (∀ (d : Fin 22) (c : BitVec 8),
      let needed := d = 4 ∨ d = 0 ∨ d = 6 ∨ d = 7
      (s.engineOn = true → 115 ≤ c.toNat →
        (s.flush = none →
          ∃ s', exec (.thermTrip d c) s = .next s' ∧ Fatal 0x0F01 s' ∧ s'.thermN = false ∧ s'.gated = true ∧ s'.ready = false ∧ s'.faultN = false ∧
            s'.hbm = s.hbm ∧ (s.journalValid = true → ¬ needed → s'.flush = some .trip ∧ unsealed s') ∧
            (s.journalValid = false ∨ needed → s'.flush = none ∧ s'.journalValid = false ∧ s'.nand = s.nand)) ∧
        (∀ w, s.flush = some w → ¬ needed ∨ own w →
          ∃ s', exec (.thermTrip d c) s = .next s' ∧ Fatal 0x0F01 s' ∧ s'.thermN = false ∧ s'.gated = true ∧ s'.flush = some w ∧ s'.nand = s.nand) ∧
        (∀ w, s.flush = some w → needed → ¬ own w → s.resetAfter = none →
          ∃ s', exec (.thermTrip d c) s = .next s' ∧ Fatal 0x0F01 s' ∧ s'.thermN = false ∧ s'.gated = true ∧ s'.flush = none ∧
            s'.journalValid = false ∧ s'.nand = s.nand)) ∧
      (s.engineOn = false ∨ c.toNat < 115 → exec (.thermTrip d c) s = .next s)) ∧
    (∀ o : BitVec 32,
      (s.engineOn = true →
        let Both := fun (p : Nat → State → Prop) => (∃ s', exec .pllUnlock s = .next s' ∧ Fatal 0x0F02 s' ∧ s'.nand = s.nand ∧ p 2 s') ∧
          ∃ s', exec (.mgmtMemUe o) s = .next s' ∧ Fatal 0x0F03 s' ∧ s'.nand = s.nand ∧ p 3 s' ∧
            (s.fatal = false → s.reg .evFatal = 0 → s'.fld .evFatal 0 32 2 = o.toNat)
        (s.flush = none → s.fatal = false → Both fun typ s' => s'.flush = none ∧ s'.journalValid = false ∧ s'.gated = (s.gated || typ == 2)) ∧
        (s.flush = none → s.fatal = true → exec .pllUnlock s = .next (s.countClass 3) ∧ exec (.mgmtMemUe o) s = .next (s.countClass 3)) ∧
        (∀ w, s.flush = some w → own w → Both fun _ s' => s'.flush = some w ∧ s'.journalValid = s.journalValid ∧ s'.gated = s.gated) ∧
        (∀ w, s.flush = some w → ¬ own w → s.resetAfter = none → Both fun _ s' => s'.flush = none ∧ s'.journalValid = false)) ∧
      (s.engineOn = false → exec .pllUnlock s = .next s ∧ exec (.mgmtMemUe o) s = .next s)) ∧
    (s.engineOn = true →
      ∃ s', exec .watchdog s = .next s' ∧ Fatal 0x0F04 s' ∧
        (s.flush = none → s.journalValid = true → s'.flush = some .watchdog ∧ s'.gated = true ∧ unsealed s') ∧
        (s.flush ≠ none ∨ s.journalValid = false → s'.flush = s.flush ∧ s'.gated = s.gated ∧ s'.nand = s.nand)) ∧
    (s.engineOn = false → exec .watchdog s = .next s)

/-- R275, R281-R283, R341, R394, R395, R404, R405, R494: rails follow the levels, the thermal and power policies move the levels by one, and
the stacks follow their temperature. A rail whose transaction failed takes its voltage with the next that completes, and a rail is lowered 10 µs
after the levels allow it. Corners of the power level (log entry 90), of AVS (log entry 91) and of a stack's temperature steps (log entry 68)
are the model's choice. -/
def Obligations.PowerPolicy : Prop :=
  ∀ s : State,
    (s.on = true → ∀ (r : Fin 25) (how : AvsEnd) (done : Bool),
      let wait := kget s.avs r.val []
      let v := s.coreMv r s.wanted
      (how = .failed → ∃ s', exec (.avsComplete r how) s = .next s' ∧ s'.fld .rail 48 1 r = 1 ∧ r.val ∈ s'.avsBad ∧ s'.mv r = s.mv r ∧
        ∀ g, g < 64 → s'.level g = s.level g) ∧
      (how ≠ .failed → wait = [] → r.val ∉ s.avsBad → exec (.avsComplete r how) s = .next s) ∧
      (how ≠ .failed → (∀ g ∈ wait, g < 64) → wait ≠ [] ∨ r.val ∈ s.avsBad → ∃ s', exec (.avsComplete r how) s = .next s' ∧ s'.mv r = s.avsTarget r % 4096 ∧
        r.val ∉ s'.avsBad ∧ s'.avsOut = s.avsOut ++ [((avsBus r).1, (avsBus r).2, s.avsTarget r)] ∧
        (r.val ∉ s.avsBad → s.avsTarget r = v) ∧ (∀ g, g < 64 → s'.level g = s.level g ∨ s'.level g = s.target g % 16) ∧
        s'.fld .thermStatus 9 1 = ((List.range 64).any fun g => decide (s'.level g > s'.floorLevel)).toNat) ∧
      (r.val ∈ s.avsLower → ∃ s', exec (.voltageLower r done) s = .next s' ∧ r.val ∉ s'.avsLower ∧ (∀ g, g < 64 → s'.level g = s.level g) ∧
        (done = true → s'.mv r = min (s.mv r) v ∧ r.val ∉ s'.avsBad) ∧
        (done = false → s'.mv r = s.mv r ∧ s'.fld .rail 48 1 r = 1 ∧ r.val ∈ s'.avsBad)) ∧
      (r.val ∉ s.avsLower → exec (.voltageLower r done) s = .next s)) ∧
    (∀ x : Readings, (s.samples = false → exec (.thermalTick x) s = .next s) ∧
      (s.samples = false ∨ s.avsBegun = false → exec (.powerTick x) s = .next s)) ∧
    (s.samples = true → ∀ x : Readings,
      (∃ s', exec (.thermalTick x) s = .next s' ∧
        (∀ d v, x.die = [(d, v)] → d < 22 → s'.fld .thermDie 0 8 d = min v 255 ∧ s'.fld .thermDie 8 8 d = max (s.fld .thermDie 8 8 d) (min v 255)) ∧
        (∀ g, g < 64 → s.ready = true → s.gated = false →
          let t := (s.sampleDies x).fld .clkGroup 9 8 g
          let G := s.grp g
          let ago := fun (o : Option Nat) (n : Nat) => ∀ u, o = some u → n ≤ s.uptime - u
          (s.hot ≤ t → G.th < s.floorLevel → ago G.lastSlow 1000000 → (s'.grp g).th = G.th + 1) ∧
          (s.hot ≤ t → ¬ ago G.lastSlow 1000000 → (s'.grp g).th = G.th) ∧
          (t + 4 ≤ s.hot → 0 < G.th → ago G.lastChange 10000000 → (s'.grp g).th = G.th - 1) ∧
          (t < s.hot → s.hot < t + 4 ∨ ¬ ago G.lastChange 10000000 → (s'.grp g).th = G.th)) ∧
        (s.ready = false ∨ s.gated = true → s'.groups = s.groups)) ∧
      (s.avsBegun = true → ∃ s', exec (.powerTick x) s = .next s' ∧
        (let w := s'.fld .total 0 16
         w = min 65535 (((List.range 25).map fun r => s'.fld .rail 12 12 r * s'.fld .rail 24 12 r).sum / 1000) ∧
         (∀ g, g < 64 → s.ready = true → s.gated = false →
          (s'.grp g).th = (s.grp g).th ∧ s'.void = s.void ∧
          (s'.grp g).pw = if w > s.powerCap then max (s.grp g).pw (min (s.level g + 1) s.floorLevel) else (s.grp g).pw) ∧
         (s.ready = false ∨ s.gated = true → s'.groups = s.groups)))) ∧
    (s.on = true → ∀ (st : Fin 16) (bad later : List (Nat × List (Fin 68 × Byte))),
      let state := s.fld .stStatus 0 2 st
      (2 ≤ state ∨ s.diag = true → exec (.patrolScrub st ⟨bad, later⟩) s = .next s) ∧
      (state < 2 → s.diag = false → ∃ s', exec (.patrolScrub st ⟨bad, later⟩) s = .next s' ∧ s'.fld .stScrubDone 0 32 st = (s.fld .stScrubDone 0 32 st + 1) % 2 ^ 32 ∧
        (bad = [] → later = [] → s.poison = [] → s.upset = [] → s' = { s with regs := s'.regs }))) ∧
    (∀ (st : Fin 16) (t l : BitVec 8),
      let was := fun lo w => s.fld .stStatus lo w st
      (s.samples = false ∨ s.stackSampled st = false → exec (.stackTempSample st t l) s = .next s) ∧
      (s.samples = true → s.stackSampled st = true → ∃ s', exec (.stackTempSample st t l) s = .next s' ∧
        let is := fun lo w => s'.fld .stStatus lo w st
        let T := t.toNat
        let keeps := fun k (n : Nat) => n ≤ T ∨ (k ≤ was 15 3 ∧ n < T + 3)
        s'.fld .stTemp 0 8 st = T ∧ s'.fld .stTemp 8 8 st = l.toNat ∧
        (s.on = true → was 0 2 < 2 →
          (keeps 3 99 → is 15 3 = 3) ∧ (¬ keeps 3 99 → keeps 2 97 → is 15 3 = 2) ∧
          (¬ keeps 3 99 → ¬ keeps 2 97 → keeps 1 95 → is 15 3 = 1) ∧ (¬ keeps 3 99 → ¬ keeps 2 97 → ¬ keeps 1 95 → is 15 3 = 0) ∧
          (is 18 1 = if 100 ≤ T ∨ (was 18 1 = 1 ∧ 97 < T) then 1 else 0) ∧
          (is 14 1 = if 85 < T then 1 else if T ≤ 82 then 0 else was 14 1) ∧
          (is 0 2 = if 105 ≤ T then 3 else was 0 2) ∧ (105 ≤ T → s.stackPromised st = true → s'.void = true))))

/-! ### Management, I3C and test access -/

/-- R447-R450, R463-R466, R468, R472: a unit holds, folds or loses an event that is not fatal; the oldest one it holds is recorded; what follows
in the field log is chained to what stands there, and each record leaves the sector ahead erased (log entry 93). What
COUNTS counts, which unit an EVENTS_LOST names and that an event lost to a full ring raises no IBI (log entry 71) are the model's choice. -/
def Obligations.EventsAndFieldLog : Prop :=
  ∀ s : State,
    (∀ (src typ : Nat) (d : List Byte),
      let l := kget s.events src []
      let u := s.event src typ d
      let cls := evClass typ
      cls < 3 → u.fld .evCounts (16 * cls) 16 = min 65535 (s.fld .evCounts (16 * cls) 16 + 1) ∧
      (∀ o, o ≠ src → kget u.events o [] = kget s.events o []) ∧
      (∀ a e b, l = a ++ e :: b → (∀ x ∈ a, ¬ (x.typ = typ ∧ x.count < 255)) → e.typ = typ → e.count < 255 →
        kget u.events src [] = a ++ { e with count := e.count + 1 } :: b) ∧
      ((∀ x ∈ l, ¬ (x.typ = typ ∧ x.count < 255)) →
        (l.length < 16 → kget u.events src [] = l ++ [{ typ := typ, count := 1, src := src, uptime := s.uptime, data := slice d 0 16 }]) ∧
        (16 ≤ l.length → kget u.events src [] = l ∧ kget u.lost src 0 = kget s.lost src 0 + 1 ∧
          u.reg .evLost = (s.reg .evLost + 1) % 2 ^ 64))) ∧
    (s.on = true → ∀ src : BitVec 16,
      (kget s.events src.toNat [] = [] → exec (.eventRecord src) s = .next s) ∧
      (∀ e r, kget s.events src.toNat [] = e :: r → ∃ s', exec (.eventRecord src) s = .next s' ∧
        let n := kget s.lost src.toNat 0
        (n ≠ 0 → s.ringMapped = false → r.length < 16 → (∀ x ∈ r, ¬ (x.typ = 0x0104 ∧ x.count < 255)) → kget s'.lost src.toNat 0 = 0 ∧
          kget s'.events src.toNat [] = r ++ [{ typ := 0x0104, count := 1, src := src.toNat, uptime := s.uptime, data := slice (natLe 4 n ++ natLe 2 src.toNat) 0 16 }])) ∧
      (∀ e r, kget s.events src.toNat [] = e :: r → kget s.lost src.toNat 0 = 0 →
        let k := s.reg .evTail
        let rec' := e.bytes k
        let cls := evClass e.typ
        let written := s.ringMapped = false ∨ s.ringFull = false
        let alerts := s.fld .evCfg 5 2 ≤ cls ∧ written
        let sends := s.fld .evCfg 9 1 = 1 ∧ s.fld .evCfg 7 2 ≤ cls ∧ written
        let f := s.fld .evFwd 0 20
        (s.ringMapped = false ∨ s.ringFull = true ∨ s.ringLost = 0) →
        ∃ s', exec (.eventRecord src) s = .next s' ∧
          (alerts → s'.alertCause = s.alertCause ||| 1#8 ∧ (s.ibiBusy = false → s'.ibis = s.ibis ++ [s.alertCause ||| 1#8] ∧ s'.ibiBusy = true) ∧
            (s.ibiBusy = true → s'.ibis = s.ibis ∧ s'.ibiPend = true)) ∧
          (¬ alerts → s'.alertCause = s.alertCause ∧ s'.ibis = s.ibis) ∧
          (sends → (s.ctxRec f).st = 2 → s.ringMapped = false → ∃ t, (s'.ctx f).queue = (s.ctx f).queue ++ [t] ∧ t.op = 4 ∧ t.pay.drop 16 = rec' ∧
            (s'.ctx f).txMsn = ((s.ctx f).txMsn + 1) % 2 ^ 32) ∧
          (sends → (s.ctxRec f).st ≠ 2 → s.ringMapped = false → s'.ctxs = s.ctxs ∧
            s'.reg .evFwdDropped = (s.reg .evFwdDropped + 1) % 2 ^ 64) ∧
          (¬ sends → s'.ctxs = s.ctxs) ∧
          (s.ringMapped = false → kget s'.events src.toNat [] = r ∧ s'.evBuf = lastN 256 (s.evBuf ++ [rec']) ∧ s'.reg .evTail = (k + 1) % 2 ^ 32 ∧
            s'.hbm = s.hbm) ∧
          (s.ringMapped = true → s.ringFull = true → kget s'.events src.toNat [] = r ∧ s'.reg .evTail = k ∧ s'.ringLost = s.ringLost + 1 ∧
            s'.reg .evLost = (s.reg .evLost + 1) % 2 ^ 64 ∧ s'.hbm = s.hbm) ∧
          (s.ringMapped = true → s.ringFull = false → s.ringLost = 0 → s'.reg .evTail = (k + 1) % 2 ^ 32 ∧
            let a := s.reg .evRing + 32 * (k % s.ringLen)
            s'.hbm = (s.hbmWrite .mgmt rec' a (pieces a 32)).hbm)))  ∧
    (s.ibiPend = true → exec .ibiTimer s = .next { s with ibis := s.ibis ++ [s.alertCause], ibiPend := false, ibiBusy := true }) ∧
    (s.ibiPend = false → exec .ibiTimer s = .next { s with ibiBusy := false }) ∧
    (s.on = true →
      (s.flogQueue = [] → exec .fieldLogAppend s = .next s) ∧
      (∀ typ d rest, s.flogQueue = (typ, d) :: rest → d.length = 16 → s.flogAt < 2 ^ 20 →
        (s.pfailN = false ∨ s.flush ≠ none → exec .fieldLogAppend s = .next s) ∧
        (s.pfailN = true → s.flush = none → s.fld .flogStatus 0 1 = 0 → exec .fieldLogAppend s = .next { s with flogQueue := rest }) ∧
        (s.pfailN = true → s.flush = none → s.fld .flogStatus 0 1 = 1 →
          let head := natLe 2 typ ++ natLe 2 0 ++ natLe 4 (s.reg .flogInc) ++ natLe 8 s.uptime ++ d
          let chain := shake256 (s.flogChain ++ head) 32
          let seals := typ = 0xFF
          let since := if seals then 0 else s.flogSince + 1
          let next := (s.flogAt + if seals then 25 else 1) % 2 ^ 20
          ∃ s', exec .fieldLogAppend s = .next s' ∧
            s' = { s with flash := s'.flash, flogQueue := s'.flogQueue, flogChain := chain, flogSince := since, flogAt := next } ∧
            s'.flogUnit s.flogAt = head ++ chain ∧
            s'.flogQueue = (if 1024 ≤ since then (0xFF, List.replicate 16 0) :: rest else rest))))

/-- R471, R481, R487-R490: the telemetry map over I3C answers whenever power is good, but nothing between an HDR entry and exit; the test
access port, whose instructions take the pins only in reset with no flush running; the pins' levels in reset. That an address once taken is
kept (log entry 100) and that a command of the port is a scan of the instruction and of the data register (log entry 130) are the model's
choice. -/
def Obligations.I3cAndTestAccess : Prop :=
  ∀ s : State,
    (∀ (w : I3cWrite) (r : I3cRead) (a : I3cAssign),
      (s.pwrgood = false ∨ w.hdr = true → exec (.i3cPrivateWrite w) s = .next s) ∧ (s.pwrgood = false ∨ r.hdr = true → exec (.i3cPrivateRead r) s = .next s) ∧
      (s.pwrgood = false ∨ a.hdr = true → exec (.setdasa a) s = .next s ∧ exec (.entdaa a) s = .next s)) ∧
    (s.pwrgood = true →
      (∀ o b : Byte, exec (.i3cPrivateWrite ⟨[o], false⟩) s = .next { s with i3cOffset := o } ∧
        exec (.i3cPrivateWrite ⟨[2, b], false⟩) s = .next { s with alertCause := s.alertCause &&& ~~~ b, i3cOffset := 3 } ∧
        (∃ s', exec (.i3cPrivateWrite ⟨[0xA, b], false⟩) s = .next s' ∧ s' = { s with regs := s'.regs, i3cOffset := 0xB } ∧
          s'.fld .evAlert 0 8 = b.toNat ∧ s'.fld .evAlert 8 8 = s.fld .evAlert 8 8) ∧
        (∃ s', exec (.i3cPrivateWrite ⟨[0xB, b], false⟩) s = .next s' ∧ s' = { s with regs := s'.regs, i3cOffset := 0xC } ∧
          s'.fld .evAlert 8 8 = b.toNat ∧ s'.fld .evAlert 0 8 = s.fld .evAlert 0 8) ∧
        (o ≠ 2 → o ≠ 0xA → o ≠ 0xB → exec (.i3cPrivateWrite ⟨[o, b], false⟩) s = .next { s with i3cOffset := o + 1 })) ∧
      (∀ n : Nat, ∃ s', exec (.i3cPrivateRead ⟨n, false⟩) s = .next s' ∧ s' = { s with i3cOffset := s'.i3cOffset, i3cOut := s'.i3cOut } ∧
        s'.i3cOut.length = n ∧ s'.i3cOffset.toNat = (s.i3cOffset.toNat + n) % 256 ∧
        ∀ i, i < n →
          let o := (s.i3cOffset.toNat + i) % 256
          let b := s'.i3cOut.getD i 0
          (o = 0 → b = 1) ∧
          (o = 1 → b.getLsbD 0 = s.ready ∧ b.getLsbD 1 = s.diag ∧ b.getLsbD 2 = !s.faultN ∧ b.getLsbD 3 = !s.thermN ∧ b.getLsbD 4 = s.void ∧
            b.getLsbD 5 = s.flush.isSome ∧ b.getLsbD 6 = false ∧ b.getLsbD 7 = false) ∧
          (o = 2 → b = s.alertCause) ∧
          (4 ≤ o → o < 8 → b.toNat = s.uptime / 1000000000 / 256 ^ (o - 4) % 256) ∧
          (8 ≤ o → o < 0xA → b.toNat = s.fld .total 0 16 / 256 ^ (o - 8) % 256) ∧
          (o = 0xA → b.toNat = s.fld .evAlert 0 8) ∧ (o = 0xB → b.toNat = s.fld .evAlert 8 8) ∧
          (0x10 ≤ o → o < 0x26 → b.toNat = s.fld .thermDie 0 8 (o - 0x10)) ∧
          (0x30 ≤ o → o < 0x40 → b.toNat = s.fld .stTemp 0 8 (o - 0x30)) ∧
          (0x40 ≤ o → o < 0x72 → b.toNat = s.fld .rail 24 12 ((o - 0x40) / 2) / 256 ^ (o % 2) % 256) ∧
          (0x80 ≤ o → o < 0x88 → b.toNat = s.reg .evCounts / 256 ^ (o - 0x80) % 256) ∧
          (0x88 ≤ o → o < 0xA8 → b.toNat = s.reg .evFatal ((o - 0x88) / 8) / 256 ^ (o % 8) % 256) ∧
          (o = 0xA8 → b.toNat = s.tier) ∧ (o = 0xA9 → b.toNat = s.fld .boot 14 4)) ∧
      (∀ a : I3cAssign, a.hdr = false →
        (s.i3cAddr = none → a.static = 0x3A → exec (.setdasa a) s = .next { s with i3cAddr := some a.dyn }) ∧
        (s.i3cAddr = none → ∃ s', exec (.entdaa a) s = .next s' ∧ s'.i3cAddr = some a.dyn ∧ s'.i3cOut.length = 6 ∧ s'.i3cOut.getD 2 0 = 0x23 ∧
          s'.i3cOut.getD 3 0 = 0x04) ∧
        (s.i3cAddr ≠ none ∨ a.static ≠ 0x3A → exec (.setdasa a) s = .next s) ∧ (s.i3cAddr ≠ none → exec (.entdaa a) s = .next s))) ∧
    (let Scanned := fun (t : State) => { t with tdo := (List.range 8).map s.irCapture.getLsbD ++ t.drCapture }
     let Free := fun (i : Instr) (t : State) (out : State → State) =>
      (s.startWait = none ∨ s.resetN = false ∨ s.warmN = false ∨ s.flush ≠ none → exec i s = .next (out t)) ∧
      (∀ env, s.startWait = some env → s.resetN = true → s.warmN = true → s.pwrgood = true → s.pllLocked = true → s.flush = none → t.jtagHolds = false →
        ∃ u, exec (.coldStart env) { t with startWait := none, resetN := false } = .next u ∧ exec i s = .next (out u))
     let Loads := fun (i : Instr) (ir : BitVec 8) (x : Bool) => Free i { s with jtagIr := ir, jtagX := x, jtagPins := false } Scanned
     let Pins := fun (i : Instr) (ir : BitVec 8) =>
      (s.resetN = false → s.flush = none → exec i s = .next (Scanned { s with jtagIr := ir, jtagX := false, jtagPins := true })) ∧
      (s.resetN = true ∨ s.flush ≠ none → Loads i 0xFF true)
     Loads .idcode 1 false ∧ Free .tapReset { s with jtagIr := 1, jtagX := false, jtagPins := false } id ∧
     (∀ x : BoundaryScan, x.shift.length = 675 →
      Free (.samplePreload x) { s with jtagIr := 2, jtagX := false, jtagPins := false, cells := x.shift, outside := x.outside } Scanned) ∧
     Pins .extest 3 ∧ Pins .clamp 4 ∧ Pins .highz 5 ∧ Pins .extestPulse 6 ∧ Pins .extestTrain 7 ∧
     (∀ c : BitVec 8, ((c = 1 ∨ c = 2) → Loads (.bypass c) c false) ∧ (3 ≤ c.toNat → c.toNat ≤ 7 → Pins (.bypass c) c) ∧
      (c = 0 ∨ 7 < c.toNat → Loads (.bypass c) 0xFF false))) ∧
    (s.irCapture = if s.jtagX = true then 5 else 1) ∧
    (s.jtagIr = 1 → s.drCapture = (List.range 32).map fun k => (0x123045CB#32).getLsbD k) ∧
    (s.jtagIr = 2 ∨ s.jtagIr = 3 → s.outside.pins.length = 675 → s.drCapture = s.outside.pins) ∧
    (s.jtagIr = 6 ∨ s.jtagIr = 7 → s.drCapture.length = 675 ∧ ∀ k, k < 675 → s.drCapture.getD k false =
      if Config.scanTwin k = true ∧ s.outside.partner = false then Config.scanFault k else s.outside.lanes.getD k false) ∧
    (s.jtagIr = 0 ∨ s.jtagIr = 4 ∨ s.jtagIr = 5 ∨ 7 < s.jtagIr.toNat → s.drCapture = [false]) ∧
    (∀ p : Pin, (s.jtagPins = true → s.jtagIr = 5 → p ≠ .tdo → s.pin p = some .z) ∧
      (s.jtagPins = false → s.pwrgood = false ∨ s.resetN = false → s.xspiUp = false → s.ready = false → s.faultN = true → s.thermN = true → s.flush = none →
        s.pin p = some p.idle))
end

