-- ==== Sys2Proof/Laws/Ops.lean ====
section
/-! SUPPORT. The laws of sparse maps, of memory and of byte order: a read after a write, what a write leaves alone, and the
canonical form that every memory operation keeps. -/

namespace Sys2Proof.Machine

/-! ### Maps -/

@[simp] theorem kget_nil {α : Type} (k : Nat) (d : α) : kget ([] : KMap α) k d = d := rfl

/-- A read after a write: the value written at its key, the old value elsewhere. -/
theorem kget_kput {α : Type} (m : KMap α) (k j : Nat) (v d : α) :
    kget (kput m k v) j d = if k = j then v else kget m j d := by
  induction m with
  | nil => simp [kput, kget]
  | cons x r ih =>
    obtain ⟨a, w⟩ := x
    unfold kput
    by_cases h1 : k < a
    · simp [h1, kget]
    · by_cases h2 : k = a
      · subst h2
        simp only [Nat.lt_irrefl, if_false, beq_self_eq_true, if_true, kget]
        by_cases h3 : k = j <;> simp [h3]
      · have h4 : (k == a) = false := by simpa using h2
        simp only [h1, if_false, h4, kget, Bool.false_eq_true]
        by_cases h3 : a = j
        · subst h3
          simp [h2]
        · have : (a == j) = false := by simpa using h3
          simp [this, ih]

/-- A read after a removal. -/
theorem kget_kdel {α : Type} (m : KMap α) (k j : Nat) (d : α) :
    kget (kdel m k) j d = if k = j then d else kget m j d := by
  induction m with
  | nil => simp [kdel, kget]
  | cons x r ih =>
    obtain ⟨a, w⟩ := x
    unfold kdel
    by_cases h2 : k = a
    · subst h2
      simp only [beq_self_eq_true, if_true, ih, kget]
      by_cases h3 : k = j <;> simp [h3]
    · have h4 : (k == a) = false := by simpa using h2
      simp only [h4, Bool.false_eq_true, if_false, kget]
      by_cases h3 : a = j
      · subst h3
        simp [h2]
      · have : (a == j) = false := by simpa using h3
        simp [this, ih]

/-- A read after a write of a map with a default that is not listed. -/
theorem kget_kputD {α : Type} [DecidableEq α] (m : KMap α) (k j : Nat) (v d : α) :
    kget (kputD m k v d) j d = if k = j then v else kget m j d := by
  unfold kputD
  split
  · rename_i h
    subst h
    exact kget_kdel m k j v
  · exact kget_kput m k j v d

@[simp] theorem kget_kput_same {α : Type} (m : KMap α) (k : Nat) (v d : α) : kget (kput m k v) k d = v := by simp [kget_kput]
theorem kget_kput_other {α : Type} (m : KMap α) (k j : Nat) (v d : α) (h : k ≠ j) : kget (kput m k v) j d = kget m j d := by
  simp [kget_kput, h]
@[simp] theorem kget_kputD_same {α : Type} [DecidableEq α] (m : KMap α) (k : Nat) (v d : α) : kget (kputD m k v d) k d = v := by
  simp [kget_kputD]
theorem kget_kputD_other {α : Type} [DecidableEq α] (m : KMap α) (k j : Nat) (v d : α) (h : k ≠ j) :
    kget (kputD m k v d) j d = kget m j d := by simp [kget_kputD, h]
/-- Another key, whatever it reads as when unlisted. -/
theorem kget_kputD_ne {α : Type} [DecidableEq α] (m : KMap α) (k j : Nat) (v d e : α) (h : k ≠ j) :
    kget (kputD m k v d) j e = kget m j e := by
  unfold kputD
  split <;> simp [kget_kdel, kget_kput, h]
/-- Changing the value at a key. -/
theorem kget_kmod {α : Type} (m : KMap α) (k j : Nat) (d : α) (f : α → α) :
    kget (kmod m k d f) j d = if k = j then f (kget m k d) else kget m j d := by simp [kmod, kget_kput]

/-! ### Rising keys -/

theorem krising_mono {α : Type} (m : KMap α) (lo lo' : Nat) (h : lo' ≤ lo) (hr : krising lo m = true) : krising lo' m = true := by
  cases m with
  | nil => rfl
  | cons x r =>
    obtain ⟨a, w⟩ := x
    simp only [krising, Bool.and_eq_true, decide_eq_true_eq] at hr ⊢
    exact ⟨by omega, hr.2⟩

theorem krising_kput {α : Type} (m : KMap α) (lo k : Nat) (v : α) (hk : lo ≤ k) (h : krising lo m = true) :
    krising lo (kput m k v) = true := by
  induction m generalizing lo with
  | nil => simp [kput, krising, hk]
  | cons x r ih =>
    obtain ⟨a, w⟩ := x
    simp only [krising, Bool.and_eq_true, decide_eq_true_eq] at h
    unfold kput
    by_cases h1 : k < a
    · simp only [h1, if_true, krising, Bool.and_eq_true, decide_eq_true_eq]
      exact ⟨hk, by omega, h.2⟩
    · by_cases h2 : k = a
      · subst h2
        simp [krising, h.2, hk]
      · have h4 : (k == a) = false := by simpa using h2
        simp only [h1, if_false, h4, krising, Bool.false_eq_true, Bool.and_eq_true, decide_eq_true_eq]
        exact ⟨h.1, ih (a + 1) (by omega) h.2⟩

theorem krising_kdel {α : Type} (m : KMap α) (lo k : Nat) (h : krising lo m = true) : krising lo (kdel m k) = true := by
  induction m generalizing lo with
  | nil => rfl
  | cons x r ih =>
    obtain ⟨a, w⟩ := x
    simp only [krising, Bool.and_eq_true, decide_eq_true_eq] at h
    unfold kdel
    split
    · exact krising_mono _ _ _ (by omega) (ih (a + 1) h.2)
    · simp only [krising, Bool.and_eq_true, decide_eq_true_eq]
      exact ⟨h.1, ih (a + 1) h.2⟩

theorem all_kput {α : Type} (p : Nat × α → Bool) (m : KMap α) (k : Nat) (v : α) (hv : p (k, v) = true) (h : m.all p = true) :
    (kput m k v).all p = true := by
  induction m with
  | nil => simp [kput, hv]
  | cons x r ih =>
    obtain ⟨a, w⟩ := x
    simp only [List.all_cons, Bool.and_eq_true] at h
    unfold kput
    split
    · simp [hv, h.1, h.2]
    · split
      · simp [hv, h.2]
      · simp [h.1, ih h.2]

theorem all_kdel {α : Type} (p : Nat × α → Bool) (m : KMap α) (k : Nat) (h : m.all p = true) : (kdel m k).all p = true := by
  induction m with
  | nil => rfl
  | cons x r ih =>
    obtain ⟨a, w⟩ := x
    simp only [List.all_cons, Bool.and_eq_true] at h
    unfold kdel
    split
    · exact ih h.2
    · simp [h.1, ih h.2]

/-! ### Memory -/

/-- A byte read after a byte write. -/
theorem mget_mput (m : KMap Byte) (a a' : Nat) (b : Byte) : mget (mput m a b) a' = if a = a' then b else mget m a' := by
  simp [mget, mput, kget_kputD]
/-- Every byte write keeps the canonical form. -/
theorem Memory.wf_mput (m : KMap Byte) (a : Nat) (b : Byte) (h : Memory.wf m = true) : Memory.wf (mput m a b) = true := by
  simp only [Memory.wf, Bool.and_eq_true] at h ⊢
  unfold mput kputD
  split
  · exact ⟨krising_kdel _ _ _ h.1, all_kdel _ _ _ h.2⟩
  · rename_i hb
    exact ⟨krising_kput _ _ _ _ (Nat.zero_le _) h.1, all_kput _ _ _ _ (by simpa using hb) h.2⟩
/-- Every write of bytes keeps the canonical form. -/
theorem Memory.wf_mputs (m : KMap Byte) (a : Nat) (l : List Byte) (h : Memory.wf m = true) : Memory.wf (mputs m a l) = true := by
  induction l generalizing m a with
  | nil => exact h
  | cons b r ih => exact ih _ _ (Memory.wf_mput _ _ _ h)
@[simp] theorem Memory.wf_nil : Memory.wf [] = true := rfl
/-- A byte read after a write of bytes: from the list where it covers the address, else as before. -/
theorem mget_mputs (m : KMap Byte) (a : Nat) (l : List Byte) (a' : Nat) :
    mget (mputs m a l) a' = if a ≤ a' ∧ a' < a + l.length then l.getD (a' - a) 0 else mget m a' := by
  induction l generalizing m a with
  | nil =>
    simp only [mputs, List.length_nil, Nat.add_zero]
    rw [if_neg (by omega)]
  | cons b r ih =>
    simp only [mputs, ih, mget_mput, List.length_cons]
    by_cases h1 : a + 1 ≤ a' ∧ a' < a + 1 + r.length
    · have h2 : a ≤ a' ∧ a' < a + (r.length + 1) := by omega
      have h3 : a' - a = (a' - (a + 1)) + 1 := by omega
      rw [if_pos h1, if_pos h2, h3]
      simp
    · rw [if_neg h1]
      by_cases h4 : a = a'
      · subst h4
        simp
      · have h2 : ¬ (a ≤ a' ∧ a' < a + (r.length + 1)) := by omega
        rw [if_neg h2, if_neg h4]
/-- Reading n bytes gives n bytes. -/
@[simp] theorem length_mgets (m : KMap Byte) (a n : Nat) : (mgets m a n).length = n := by
  induction n generalizing a with
  | zero => rfl
  | succ n ih => simp [mgets, ih]

/-! ### Bytes -/

@[simp] theorem length_natLe (n v : Nat) : (natLe n v).length = n := by
  induction n generalizing v with
  | zero => rfl
  | succ n ih => simp [natLe, ih]
/-- Little-endian bytes and back. -/
theorem leNat_natLe (n v : Nat) : leNat (natLe n v) = v % 256 ^ n := by
  induction n generalizing v with
  | zero => simp [natLe, leNat, Nat.mod_one]
  | succ n ih =>
    have h : (256 : Nat) ^ (n + 1) = 256 * 256 ^ n := by rw [Nat.pow_succ, Nat.mul_comm]
    simp only [natLe, leNat, ih, BitVec.toNat_ofNat, h, Nat.mod_mul]
theorem leNat_lt (l : List Byte) : leNat l < 256 ^ l.length := by
  induction l with
  | nil => simp [leNat]
  | cons b r ih =>
    simp only [leNat, List.length_cons, Nat.pow_succ]
    have := b.isLt
    omega

/-! ### Bit fields -/

theorem bits_eq (v lo w : Nat) : bits v lo w = v / 2 ^ lo % 2 ^ w := by rw [bits, Nat.shiftRight_eq_div_pow]

/-- A number as the part above a field, the field, and the part below it. -/
theorem bits_split (v lo w : Nat) : v = v / 2 ^ (lo + w) * 2 ^ (lo + w) + bits v lo w * 2 ^ lo + v % 2 ^ lo := by
  have h1 := Nat.div_add_mod v (2 ^ lo)
  have h2 := Nat.div_add_mod (v / 2 ^ lo) (2 ^ w)
  rw [Nat.div_div_eq_div_mul, ← Nat.pow_add] at h2
  rw [bits_eq, Nat.pow_add, ← Nat.mul_assoc, Nat.mul_right_comm, ← Nat.add_mul, ← Nat.pow_add]
  rw [Nat.mul_comm (2 ^ w)] at h2
  rw [h2, Nat.mul_comm, h1]

/-- A number with a field replaced, in the same three parts. -/
theorem setBits_split (v lo w x : Nat) : setBits v lo w x = v / 2 ^ (lo + w) * 2 ^ (lo + w) + x % 2 ^ w * 2 ^ lo + v % 2 ^ lo := by
  have h := bits_split v lo w
  unfold setBits
  rw [Nat.shiftLeft_eq, Nat.shiftLeft_eq]
  generalize bits v lo w * 2 ^ lo = b at *
  generalize x % 2 ^ w * 2 ^ lo = c at *
  generalize v / 2 ^ (lo + w) * 2 ^ (lo + w) = a at *
  generalize v % 2 ^ lo = r at *
  omega

theorem setBits_low (v lo w x : Nat) : setBits v lo w x % 2 ^ lo = v % 2 ^ lo := by
  rw [setBits_split, Nat.pow_add, Nat.mul_comm (2 ^ lo), ← Nat.mul_assoc, ← Nat.add_mul, Nat.add_comm, Nat.add_mul_mod_self_right]
  exact Nat.mod_mod _ _
theorem setBits_div (v lo w x : Nat) : setBits v lo w x / 2 ^ lo = v / 2 ^ (lo + w) * 2 ^ w + x % 2 ^ w := by
  rw [setBits_split, Nat.pow_add, Nat.mul_comm (2 ^ lo), ← Nat.mul_assoc, ← Nat.add_mul, Nat.add_comm]
  rw [Nat.add_mul_div_right _ _ (Nat.two_pow_pos lo), Nat.div_eq_of_lt (Nat.mod_lt _ (Nat.two_pow_pos lo)), Nat.zero_add]
theorem setBits_high (v lo w x : Nat) : setBits v lo w x / 2 ^ (lo + w) = v / 2 ^ (lo + w) := by
  rw [Nat.pow_add, ← Nat.div_div_eq_div_mul, setBits_div, ← Nat.pow_add]
  rw [Nat.add_comm, Nat.add_mul_div_right _ _ (Nat.two_pow_pos w), Nat.div_eq_of_lt (Nat.mod_lt _ (Nat.two_pow_pos w)), Nat.zero_add]

/-- The field that was replaced. -/
theorem bits_setBits (v lo w x : Nat) : bits (setBits v lo w x) lo w = x % 2 ^ w := by
  rw [bits_eq, setBits_div, Nat.add_comm, Nat.add_mul_mod_self_right, Nat.mod_mod]
/-- A field above it. -/
theorem bits_setBits_above (v lo w x hi n : Nat) (h : lo + w ≤ hi) : bits (setBits v lo w x) hi n = bits v hi n := by
  rw [bits_eq, bits_eq]
  obtain ⟨d, rfl⟩ := Nat.le.dest h
  rw [Nat.pow_add 2 (lo + w), ← Nat.div_div_eq_div_mul, ← Nat.div_div_eq_div_mul, setBits_high]
/-- A field below it. -/
theorem bits_setBits_below (v lo w x d n : Nat) (h : d + n ≤ lo) : bits (setBits v lo w x) d n = bits v d n := by
  have key (u : Nat) : bits u d n = bits (u % 2 ^ lo) d n := by
    rw [bits_eq, bits_eq]
    obtain ⟨e, rfl⟩ := Nat.le.dest h
    rw [Nat.pow_add 2 (d + n), Nat.pow_add 2 d, Nat.mul_assoc, Nat.mod_mul_right_div_self, Nat.mod_mul_right_mod]
  rw [key, setBits_low, ← key]
/-- Replacing a field keeps a number within its width. -/
theorem setBits_lt (v lo w x n : Nat) (h : lo + w ≤ n) (hv : v < 2 ^ n) : setBits v lo w x < 2 ^ n := by
  obtain ⟨e, rfl⟩ := Nat.le.dest h
  have h1 : setBits v lo w x / 2 ^ (lo + w) < 2 ^ e := by
    rw [setBits_high, Nat.div_lt_iff_lt_mul (Nat.two_pow_pos _), ← Nat.pow_add, Nat.add_comm e]
    exact hv
  rw [Nat.div_lt_iff_lt_mul (Nat.two_pow_pos _), ← Nat.pow_add, Nat.add_comm e] at h1
  exact h1
theorem bits_lt (v lo w : Nat) : bits v lo w < 2 ^ w := Nat.mod_lt _ (Nat.two_pow_pos w)

end Sys2Proof.Machine
end

