-- ==== Sys2Proof/Laws/State.lean ====
section
/-! SUPPORT. One lemma for each field of the state and each named update: what the update leaves alone, and what it sets. -/

namespace Sys2Proof.Machine

@[simp] theorem State.setReg_pending (s : State) (k : RegKind) (v i j : Nat) : (s.setReg k v i j).pending = s.pending := rfl
@[simp] theorem State.setReg_tiles (s : State) (k : RegKind) (v i j : Nat) : (s.setReg k v i j).tiles = s.tiles := rfl
@[simp] theorem State.setReg_latches (s : State) (k : RegKind) (v i j : Nat) : (s.setReg k v i j).latches = s.latches := rfl
@[simp] theorem State.setReg_hbm (s : State) (k : RegKind) (v i j : Nat) : (s.setReg k v i j).hbm = s.hbm := rfl
@[simp] theorem State.setReg_poison (s : State) (k : RegKind) (v i j : Nat) : (s.setReg k v i j).poison = s.poison := rfl
@[simp] theorem State.setReg_upset (s : State) (k : RegKind) (v i j : Nat) : (s.setReg k v i j).upset = s.upset := rfl
@[simp] theorem State.setReg_dirMem (s : State) (k : RegKind) (v i j : Nat) : (s.setReg k v i j).dirMem = s.dirMem := rfl
@[simp] theorem State.setReg_rdata (s : State) (k : RegKind) (v i j : Nat) : (s.setReg k v i j).rdata = s.rdata := rfl
@[simp] theorem State.setReg_unitOut (s : State) (k : RegKind) (v i j : Nat) : (s.setReg k v i j).unitOut = s.unitOut := rfl
@[simp] theorem State.setReg_unitLost (s : State) (k : RegKind) (v i j : Nat) : (s.setReg k v i j).unitLost = s.unitLost := rfl
@[simp] theorem State.setReg_fwdNext (s : State) (k : RegKind) (v i j : Nat) : (s.setReg k v i j).fwdNext = s.fwdNext := rfl
@[simp] theorem State.setReg_freeCount (s : State) (k : RegKind) (v i j : Nat) : (s.setReg k v i j).freeCount = s.freeCount := rfl
@[simp] theorem State.setReg_uptime (s : State) (k : RegKind) (v i j : Nat) : (s.setReg k v i j).uptime = s.uptime := rfl
@[simp] theorem State.setReg_pllLocked (s : State) (k : RegKind) (v i j : Nat) : (s.setReg k v i j).pllLocked = s.pllLocked := rfl
@[simp] theorem State.setReg_events (s : State) (k : RegKind) (v i j : Nat) : (s.setReg k v i j).events = s.events := rfl
@[simp] theorem State.setReg_lost (s : State) (k : RegKind) (v i j : Nat) : (s.setReg k v i j).lost = s.lost := rfl
@[simp] theorem State.setReg_evBuf (s : State) (k : RegKind) (v i j : Nat) : (s.setReg k v i j).evBuf = s.evBuf := rfl
@[simp] theorem State.setReg_ringMapped (s : State) (k : RegKind) (v i j : Nat) : (s.setReg k v i j).ringMapped = s.ringMapped := rfl
@[simp] theorem State.setReg_ringLost (s : State) (k : RegKind) (v i j : Nat) : (s.setReg k v i j).ringLost = s.ringLost := rfl
@[simp] theorem State.setReg_fatal (s : State) (k : RegKind) (v i j : Nat) : (s.setReg k v i j).fatal = s.fatal := rfl
@[simp] theorem State.setReg_ibis (s : State) (k : RegKind) (v i j : Nat) : (s.setReg k v i j).ibis = s.ibis := rfl
@[simp] theorem State.setReg_ibiBusy (s : State) (k : RegKind) (v i j : Nat) : (s.setReg k v i j).ibiBusy = s.ibiBusy := rfl
@[simp] theorem State.setReg_ibiPend (s : State) (k : RegKind) (v i j : Nat) : (s.setReg k v i j).ibiPend = s.ibiPend := rfl
@[simp] theorem State.setReg_alertCause (s : State) (k : RegKind) (v i j : Nat) : (s.setReg k v i j).alertCause = s.alertCause := rfl
@[simp] theorem State.setReg_tempArmed (s : State) (k : RegKind) (v i j : Nat) : (s.setReg k v i j).tempArmed = s.tempArmed := rfl
@[simp] theorem State.setReg_powerArmed (s : State) (k : RegKind) (v i j : Nat) : (s.setReg k v i j).powerArmed = s.powerArmed := rfl
@[simp] theorem State.setReg_i3cOffset (s : State) (k : RegKind) (v i j : Nat) : (s.setReg k v i j).i3cOffset = s.i3cOffset := rfl
@[simp] theorem State.setReg_i3cAddr (s : State) (k : RegKind) (v i j : Nat) : (s.setReg k v i j).i3cAddr = s.i3cAddr := rfl
@[simp] theorem State.setReg_i3cOut (s : State) (k : RegKind) (v i j : Nat) : (s.setReg k v i j).i3cOut = s.i3cOut := rfl
@[simp] theorem State.setReg_embs (s : State) (k : RegKind) (v i j : Nat) : (s.setReg k v i j).embs = s.embs := rfl
@[simp] theorem State.setReg_migDir (s : State) (k : RegKind) (v i j : Nat) : (s.setReg k v i j).migDir = s.migDir := rfl
@[simp] theorem State.setReg_migNext (s : State) (k : RegKind) (v i j : Nat) : (s.setReg k v i j).migNext = s.migNext := rfl
@[simp] theorem State.setReg_migSlots (s : State) (k : RegKind) (v i j : Nat) : (s.setReg k v i j).migSlots = s.migSlots := rfl
@[simp] theorem State.setReg_pushFly (s : State) (k : RegKind) (v i j : Nat) : (s.setReg k v i j).pushFly = s.pushFly := rfl
@[simp] theorem State.setReg_stage (s : State) (k : RegKind) (v i j : Nat) : (s.setReg k v i j).stage = s.stage := rfl
@[simp] theorem State.setReg_jobs (s : State) (k : RegKind) (v i j : Nat) : (s.setReg k v i j).jobs = s.jobs := rfl
@[simp] theorem State.setReg_cmdPos (s : State) (k : RegKind) (v i j : Nat) : (s.setReg k v i j).cmdPos = s.cmdPos := rfl
@[simp] theorem State.setReg_nextCmd (s : State) (k : RegKind) (v i j : Nat) : (s.setReg k v i j).nextCmd = s.nextCmd := rfl
@[simp] theorem State.setReg_running (s : State) (k : RegKind) (v i j : Nat) : (s.setReg k v i j).running = s.running := rfl
@[simp] theorem State.setReg_deferred (s : State) (k : RegKind) (v i j : Nat) : (s.setReg k v i j).deferred = s.deferred := rfl
@[simp] theorem State.setReg_segFly (s : State) (k : RegKind) (v i j : Nat) : (s.setReg k v i j).segFly = s.segFly := rfl
@[simp] theorem State.setReg_endFly (s : State) (k : RegKind) (v i j : Nat) : (s.setReg k v i j).endFly = s.endFly := rfl
@[simp] theorem State.setReg_segWait (s : State) (k : RegKind) (v i j : Nat) : (s.setReg k v i j).segWait = s.segWait := rfl
@[simp] theorem State.setReg_colls (s : State) (k : RegKind) (v i j : Nat) : (s.setReg k v i j).colls = s.colls := rfl
@[simp] theorem State.setReg_scrubs (s : State) (k : RegKind) (v i j : Nat) : (s.setReg k v i j).scrubs = s.scrubs := rfl
@[simp] theorem State.setReg_loads (s : State) (k : RegKind) (v i j : Nat) : (s.setReg k v i j).loads = s.loads := rfl
@[simp] theorem State.setReg_loader (s : State) (k : RegKind) (v i j : Nat) : (s.setReg k v i j).loader = s.loader := rfl
@[simp] theorem State.setReg_ctxs (s : State) (k : RegKind) (v i j : Nat) : (s.setReg k v i j).ctxs = s.ctxs := rfl
@[simp] theorem State.setReg_ctxCache (s : State) (k : RegKind) (v i j : Nat) : (s.setReg k v i j).ctxCache = s.ctxCache := rfl
@[simp] theorem State.setReg_wire (s : State) (k : RegKind) (v i j : Nat) : (s.setReg k v i j).wire = s.wire := rfl
@[simp] theorem State.setReg_turn (s : State) (k : RegKind) (v i j : Nat) : (s.setReg k v i j).turn = s.turn := rfl
@[simp] theorem State.setReg_pause (s : State) (k : RegKind) (v i j : Nat) : (s.setReg k v i j).pause = s.pause := rfl
@[simp] theorem State.setReg_xoff (s : State) (k : RegKind) (v i j : Nat) : (s.setReg k v i j).xoff = s.xoff := rfl
@[simp] theorem State.setReg_xrDown (s : State) (k : RegKind) (v i j : Nat) : (s.setReg k v i j).xrDown = s.xrDown := rfl
@[simp] theorem State.setReg_anPages (s : State) (k : RegKind) (v i j : Nat) : (s.setReg k v i j).anPages = s.anPages := rfl
@[simp] theorem State.setReg_diagPeer (s : State) (k : RegKind) (v i j : Nat) : (s.setReg k v i j).diagPeer = s.diagPeer := rfl
@[simp] theorem State.setReg_items (s : State) (k : RegKind) (v i j : Nat) : (s.setReg k v i j).items = s.items := rfl
@[simp] theorem State.setReg_nextItem (s : State) (k : RegKind) (v i j : Nat) : (s.setReg k v i j).nextItem = s.nextItem := rfl
@[simp] theorem State.setReg_acceptNo (s : State) (k : RegKind) (v i j : Nat) : (s.setReg k v i j).acceptNo = s.acceptNo := rfl
@[simp] theorem State.setReg_egress (s : State) (k : RegKind) (v i j : Nat) : (s.setReg k v i j).egress = s.egress := rfl
@[simp] theorem State.setReg_delivered (s : State) (k : RegKind) (v i j : Nat) : (s.setReg k v i j).delivered = s.delivered := rfl
@[simp] theorem State.setReg_twinOut (s : State) (k : RegKind) (v i j : Nat) : (s.setReg k v i j).twinOut = s.twinOut := rfl
@[simp] theorem State.setReg_twinFrom (s : State) (k : RegKind) (v i j : Nat) : (s.setReg k v i j).twinFrom = s.twinFrom := rfl
@[simp] theorem State.setReg_td (s : State) (k : RegKind) (v i j : Nat) : (s.setReg k v i j).td = s.td := rfl
@[simp] theorem State.setReg_ad (s : State) (k : RegKind) (v i j : Nat) : (s.setReg k v i j).ad = s.ad := rfl
@[simp] theorem State.setReg_ordNext (s : State) (k : RegKind) (v i j : Nat) : (s.setReg k v i j).ordNext = s.ordNext := rfl
@[simp] theorem State.setReg_takeMsn (s : State) (k : RegKind) (v i j : Nat) : (s.setReg k v i j).takeMsn = s.takeMsn := rfl
@[simp] theorem State.setReg_partnerJoining (s : State) (k : RegKind) (v i j : Nat) : (s.setReg k v i j).partnerJoining = s.partnerJoining := rfl
@[simp] theorem State.setReg_baseline (s : State) (k : RegKind) (v i j : Nat) : (s.setReg k v i j).baseline = s.baseline := rfl
@[simp] theorem State.setReg_peerBaseline (s : State) (k : RegKind) (v i j : Nat) : (s.setReg k v i j).peerBaseline = s.peerBaseline := rfl
@[simp] theorem State.setReg_rejoining (s : State) (k : RegKind) (v i j : Nat) : (s.setReg k v i j).rejoining = s.rejoining := rfl
@[simp] theorem State.setReg_ueSince (s : State) (k : RegKind) (v i j : Nat) : (s.setReg k v i j).ueSince = s.ueSince := rfl
@[simp] theorem State.setReg_journal (s : State) (k : RegKind) (v i j : Nat) : (s.setReg k v i j).journal = s.journal := rfl
@[simp] theorem State.setReg_nextJsn (s : State) (k : RegKind) (v i j : Nat) : (s.setReg k v i j).nextJsn = s.nextJsn := rfl
@[simp] theorem State.setReg_msnTab (s : State) (k : RegKind) (v i j : Nat) : (s.setReg k v i j).msnTab = s.msnTab := rfl
@[simp] theorem State.setReg_nand (s : State) (k : RegKind) (v i j : Nat) : (s.setReg k v i j).nand = s.nand := rfl
@[simp] theorem State.setReg_nandBad (s : State) (k : RegKind) (v i j : Nat) : (s.setReg k v i j).nandBad = s.nandBad := rfl
@[simp] theorem State.setReg_journalValid (s : State) (k : RegKind) (v i j : Nat) : (s.setReg k v i j).journalValid = s.journalValid := rfl
@[simp] theorem State.setReg_flush (s : State) (k : RegKind) (v i j : Nat) : (s.setReg k v i j).flush = s.flush := rfl
@[simp] theorem State.setReg_warmUntil (s : State) (k : RegKind) (v i j : Nat) : (s.setReg k v i j).warmUntil = s.warmUntil := rfl
@[simp] theorem State.setReg_flushAt (s : State) (k : RegKind) (v i j : Nat) : (s.setReg k v i j).flushAt = s.flushAt := rfl
@[simp] theorem State.setReg_onfi (s : State) (k : RegKind) (v i j : Nat) : (s.setReg k v i j).onfi = s.onfi := rfl
@[simp] theorem State.setReg_resetAfter (s : State) (k : RegKind) (v i j : Nat) : (s.setReg k v i j).resetAfter = s.resetAfter := rfl
@[simp] theorem State.setReg_groups (s : State) (k : RegKind) (v i j : Nat) : (s.setReg k v i j).groups = s.groups := rfl
@[simp] theorem State.setReg_avs (s : State) (k : RegKind) (v i j : Nat) : (s.setReg k v i j).avs = s.avs := rfl
@[simp] theorem State.setReg_avsLower (s : State) (k : RegKind) (v i j : Nat) : (s.setReg k v i j).avsLower = s.avsLower := rfl
@[simp] theorem State.setReg_avsOut (s : State) (k : RegKind) (v i j : Nat) : (s.setReg k v i j).avsOut = s.avsOut := rfl
@[simp] theorem State.setReg_avsBad (s : State) (k : RegKind) (v i j : Nat) : (s.setReg k v i j).avsBad = s.avsBad := rfl
@[simp] theorem State.setReg_gated (s : State) (k : RegKind) (v i j : Nat) : (s.setReg k v i j).gated = s.gated := rfl
@[simp] theorem State.setReg_pwrgood (s : State) (k : RegKind) (v i j : Nat) : (s.setReg k v i j).pwrgood = s.pwrgood := rfl
@[simp] theorem State.setReg_resetN (s : State) (k : RegKind) (v i j : Nat) : (s.setReg k v i j).resetN = s.resetN := rfl
@[simp] theorem State.setReg_warmN (s : State) (k : RegKind) (v i j : Nat) : (s.setReg k v i j).warmN = s.warmN := rfl
@[simp] theorem State.setReg_pfailN (s : State) (k : RegKind) (v i j : Nat) : (s.setReg k v i j).pfailN = s.pfailN := rfl
@[simp] theorem State.setReg_ready (s : State) (k : RegKind) (v i j : Nat) : (s.setReg k v i j).ready = s.ready := rfl
@[simp] theorem State.setReg_faultN (s : State) (k : RegKind) (v i j : Nat) : (s.setReg k v i j).faultN = s.faultN := rfl
@[simp] theorem State.setReg_thermN (s : State) (k : RegKind) (v i j : Nat) : (s.setReg k v i j).thermN = s.thermN := rfl
@[simp] theorem State.setReg_flash (s : State) (k : RegKind) (v i j : Nat) : (s.setReg k v i j).flash = s.flash := rfl
@[simp] theorem State.setReg_flashOp (s : State) (k : RegKind) (v i j : Nat) : (s.setReg k v i j).flashOp = s.flashOp := rfl
@[simp] theorem State.setReg_rom (s : State) (k : RegKind) (v i j : Nat) : (s.setReg k v i j).rom = s.rom := rfl
@[simp] theorem State.setReg_devKey (s : State) (k : RegKind) (v i j : Nat) : (s.setReg k v i j).devKey = s.devKey := rfl
@[simp] theorem State.setReg_aon (s : State) (k : RegKind) (v i j : Nat) : (s.setReg k v i j).aon = s.aon := rfl
@[simp] theorem State.setReg_early (s : State) (k : RegKind) (v i j : Nat) : (s.setReg k v i j).early = s.early := rfl
@[simp] theorem State.setReg_xspiUp (s : State) (k : RegKind) (v i j : Nat) : (s.setReg k v i j).xspiUp = s.xspiUp := rfl
@[simp] theorem State.setReg_xspiOctal (s : State) (k : RegKind) (v i j : Nat) : (s.setReg k v i j).xspiOctal = s.xspiOctal := rfl
@[simp] theorem State.setReg_imgHeader (s : State) (k : RegKind) (v i j : Nat) : (s.setReg k v i j).imgHeader = s.imgHeader := rfl
@[simp] theorem State.setReg_licDigests (s : State) (k : RegKind) (v i j : Nat) : (s.setReg k v i j).licDigests = s.licDigests := rfl
@[simp] theorem State.setReg_avsTab (s : State) (k : RegKind) (v i j : Nat) : (s.setReg k v i j).avsTab = s.avsTab := rfl
@[simp] theorem State.setReg_flogAt (s : State) (k : RegKind) (v i j : Nat) : (s.setReg k v i j).flogAt = s.flogAt := rfl
@[simp] theorem State.setReg_flogChain (s : State) (k : RegKind) (v i j : Nat) : (s.setReg k v i j).flogChain = s.flogChain := rfl
@[simp] theorem State.setReg_flogSince (s : State) (k : RegKind) (v i j : Nat) : (s.setReg k v i j).flogSince = s.flogSince := rfl
@[simp] theorem State.setReg_flogQueue (s : State) (k : RegKind) (v i j : Nat) : (s.setReg k v i j).flogQueue = s.flogQueue := rfl
@[simp] theorem State.setReg_att (s : State) (k : RegKind) (v i j : Nat) : (s.setReg k v i j).att = s.att := rfl
@[simp] theorem State.setReg_ingress (s : State) (k : RegKind) (v i j : Nat) : (s.setReg k v i j).ingress = s.ingress := rfl
@[simp] theorem State.setReg_jtagIr (s : State) (k : RegKind) (v i j : Nat) : (s.setReg k v i j).jtagIr = s.jtagIr := rfl
@[simp] theorem State.setReg_jtagX (s : State) (k : RegKind) (v i j : Nat) : (s.setReg k v i j).jtagX = s.jtagX := rfl
@[simp] theorem State.setReg_cells (s : State) (k : RegKind) (v i j : Nat) : (s.setReg k v i j).cells = s.cells := rfl
@[simp] theorem State.setReg_outside (s : State) (k : RegKind) (v i j : Nat) : (s.setReg k v i j).outside = s.outside := rfl
@[simp] theorem State.setReg_tdo (s : State) (k : RegKind) (v i j : Nat) : (s.setReg k v i j).tdo = s.tdo := rfl
@[simp] theorem State.setReg_jtagPins (s : State) (k : RegKind) (v i j : Nat) : (s.setReg k v i j).jtagPins = s.jtagPins := rfl
@[simp] theorem State.setReg_startWait (s : State) (k : RegKind) (v i j : Nat) : (s.setReg k v i j).startWait = s.startWait := rfl
@[simp] theorem State.setTile_pending (s : State) (c : Nat) (T : Tile) : (s.setTile c T).pending = s.pending := rfl
@[simp] theorem State.setTile_regs (s : State) (c : Nat) (T : Tile) : (s.setTile c T).regs = s.regs := rfl
@[simp] theorem State.setTile_latches (s : State) (c : Nat) (T : Tile) : (s.setTile c T).latches = s.latches := rfl
@[simp] theorem State.setTile_hbm (s : State) (c : Nat) (T : Tile) : (s.setTile c T).hbm = s.hbm := rfl
@[simp] theorem State.setTile_poison (s : State) (c : Nat) (T : Tile) : (s.setTile c T).poison = s.poison := rfl
@[simp] theorem State.setTile_upset (s : State) (c : Nat) (T : Tile) : (s.setTile c T).upset = s.upset := rfl
@[simp] theorem State.setTile_dirMem (s : State) (c : Nat) (T : Tile) : (s.setTile c T).dirMem = s.dirMem := rfl
@[simp] theorem State.setTile_rdata (s : State) (c : Nat) (T : Tile) : (s.setTile c T).rdata = s.rdata := rfl
@[simp] theorem State.setTile_unitOut (s : State) (c : Nat) (T : Tile) : (s.setTile c T).unitOut = s.unitOut := rfl
@[simp] theorem State.setTile_unitLost (s : State) (c : Nat) (T : Tile) : (s.setTile c T).unitLost = s.unitLost := rfl
@[simp] theorem State.setTile_fwdNext (s : State) (c : Nat) (T : Tile) : (s.setTile c T).fwdNext = s.fwdNext := rfl
@[simp] theorem State.setTile_freeCount (s : State) (c : Nat) (T : Tile) : (s.setTile c T).freeCount = s.freeCount := rfl
@[simp] theorem State.setTile_uptime (s : State) (c : Nat) (T : Tile) : (s.setTile c T).uptime = s.uptime := rfl
@[simp] theorem State.setTile_pllLocked (s : State) (c : Nat) (T : Tile) : (s.setTile c T).pllLocked = s.pllLocked := rfl
@[simp] theorem State.setTile_events (s : State) (c : Nat) (T : Tile) : (s.setTile c T).events = s.events := rfl
@[simp] theorem State.setTile_lost (s : State) (c : Nat) (T : Tile) : (s.setTile c T).lost = s.lost := rfl
@[simp] theorem State.setTile_evBuf (s : State) (c : Nat) (T : Tile) : (s.setTile c T).evBuf = s.evBuf := rfl
@[simp] theorem State.setTile_ringMapped (s : State) (c : Nat) (T : Tile) : (s.setTile c T).ringMapped = s.ringMapped := rfl
@[simp] theorem State.setTile_ringLost (s : State) (c : Nat) (T : Tile) : (s.setTile c T).ringLost = s.ringLost := rfl
@[simp] theorem State.setTile_fatal (s : State) (c : Nat) (T : Tile) : (s.setTile c T).fatal = s.fatal := rfl
@[simp] theorem State.setTile_ibis (s : State) (c : Nat) (T : Tile) : (s.setTile c T).ibis = s.ibis := rfl
@[simp] theorem State.setTile_ibiBusy (s : State) (c : Nat) (T : Tile) : (s.setTile c T).ibiBusy = s.ibiBusy := rfl
@[simp] theorem State.setTile_ibiPend (s : State) (c : Nat) (T : Tile) : (s.setTile c T).ibiPend = s.ibiPend := rfl
@[simp] theorem State.setTile_alertCause (s : State) (c : Nat) (T : Tile) : (s.setTile c T).alertCause = s.alertCause := rfl
@[simp] theorem State.setTile_tempArmed (s : State) (c : Nat) (T : Tile) : (s.setTile c T).tempArmed = s.tempArmed := rfl
@[simp] theorem State.setTile_powerArmed (s : State) (c : Nat) (T : Tile) : (s.setTile c T).powerArmed = s.powerArmed := rfl
@[simp] theorem State.setTile_i3cOffset (s : State) (c : Nat) (T : Tile) : (s.setTile c T).i3cOffset = s.i3cOffset := rfl
@[simp] theorem State.setTile_i3cAddr (s : State) (c : Nat) (T : Tile) : (s.setTile c T).i3cAddr = s.i3cAddr := rfl
@[simp] theorem State.setTile_i3cOut (s : State) (c : Nat) (T : Tile) : (s.setTile c T).i3cOut = s.i3cOut := rfl
@[simp] theorem State.setTile_embs (s : State) (c : Nat) (T : Tile) : (s.setTile c T).embs = s.embs := rfl
@[simp] theorem State.setTile_migDir (s : State) (c : Nat) (T : Tile) : (s.setTile c T).migDir = s.migDir := rfl
@[simp] theorem State.setTile_migNext (s : State) (c : Nat) (T : Tile) : (s.setTile c T).migNext = s.migNext := rfl
@[simp] theorem State.setTile_migSlots (s : State) (c : Nat) (T : Tile) : (s.setTile c T).migSlots = s.migSlots := rfl
@[simp] theorem State.setTile_pushFly (s : State) (c : Nat) (T : Tile) : (s.setTile c T).pushFly = s.pushFly := rfl
@[simp] theorem State.setTile_stage (s : State) (c : Nat) (T : Tile) : (s.setTile c T).stage = s.stage := rfl
@[simp] theorem State.setTile_jobs (s : State) (c : Nat) (T : Tile) : (s.setTile c T).jobs = s.jobs := rfl
@[simp] theorem State.setTile_cmdPos (s : State) (c : Nat) (T : Tile) : (s.setTile c T).cmdPos = s.cmdPos := rfl
@[simp] theorem State.setTile_nextCmd (s : State) (c : Nat) (T : Tile) : (s.setTile c T).nextCmd = s.nextCmd := rfl
@[simp] theorem State.setTile_running (s : State) (c : Nat) (T : Tile) : (s.setTile c T).running = s.running := rfl
@[simp] theorem State.setTile_deferred (s : State) (c : Nat) (T : Tile) : (s.setTile c T).deferred = s.deferred := rfl
@[simp] theorem State.setTile_segFly (s : State) (c : Nat) (T : Tile) : (s.setTile c T).segFly = s.segFly := rfl
@[simp] theorem State.setTile_endFly (s : State) (c : Nat) (T : Tile) : (s.setTile c T).endFly = s.endFly := rfl
@[simp] theorem State.setTile_segWait (s : State) (c : Nat) (T : Tile) : (s.setTile c T).segWait = s.segWait := rfl
@[simp] theorem State.setTile_colls (s : State) (c : Nat) (T : Tile) : (s.setTile c T).colls = s.colls := rfl
@[simp] theorem State.setTile_scrubs (s : State) (c : Nat) (T : Tile) : (s.setTile c T).scrubs = s.scrubs := rfl
@[simp] theorem State.setTile_loads (s : State) (c : Nat) (T : Tile) : (s.setTile c T).loads = s.loads := rfl
@[simp] theorem State.setTile_loader (s : State) (c : Nat) (T : Tile) : (s.setTile c T).loader = s.loader := rfl
@[simp] theorem State.setTile_ctxs (s : State) (c : Nat) (T : Tile) : (s.setTile c T).ctxs = s.ctxs := rfl
@[simp] theorem State.setTile_ctxCache (s : State) (c : Nat) (T : Tile) : (s.setTile c T).ctxCache = s.ctxCache := rfl
@[simp] theorem State.setTile_wire (s : State) (c : Nat) (T : Tile) : (s.setTile c T).wire = s.wire := rfl
@[simp] theorem State.setTile_turn (s : State) (c : Nat) (T : Tile) : (s.setTile c T).turn = s.turn := rfl
@[simp] theorem State.setTile_pause (s : State) (c : Nat) (T : Tile) : (s.setTile c T).pause = s.pause := rfl
@[simp] theorem State.setTile_xoff (s : State) (c : Nat) (T : Tile) : (s.setTile c T).xoff = s.xoff := rfl
@[simp] theorem State.setTile_xrDown (s : State) (c : Nat) (T : Tile) : (s.setTile c T).xrDown = s.xrDown := rfl
@[simp] theorem State.setTile_anPages (s : State) (c : Nat) (T : Tile) : (s.setTile c T).anPages = s.anPages := rfl
@[simp] theorem State.setTile_diagPeer (s : State) (c : Nat) (T : Tile) : (s.setTile c T).diagPeer = s.diagPeer := rfl
@[simp] theorem State.setTile_items (s : State) (c : Nat) (T : Tile) : (s.setTile c T).items = s.items := rfl
@[simp] theorem State.setTile_nextItem (s : State) (c : Nat) (T : Tile) : (s.setTile c T).nextItem = s.nextItem := rfl
@[simp] theorem State.setTile_acceptNo (s : State) (c : Nat) (T : Tile) : (s.setTile c T).acceptNo = s.acceptNo := rfl
@[simp] theorem State.setTile_egress (s : State) (c : Nat) (T : Tile) : (s.setTile c T).egress = s.egress := rfl
@[simp] theorem State.setTile_delivered (s : State) (c : Nat) (T : Tile) : (s.setTile c T).delivered = s.delivered := rfl
@[simp] theorem State.setTile_twinOut (s : State) (c : Nat) (T : Tile) : (s.setTile c T).twinOut = s.twinOut := rfl
@[simp] theorem State.setTile_twinFrom (s : State) (c : Nat) (T : Tile) : (s.setTile c T).twinFrom = s.twinFrom := rfl
@[simp] theorem State.setTile_td (s : State) (c : Nat) (T : Tile) : (s.setTile c T).td = s.td := rfl
@[simp] theorem State.setTile_ad (s : State) (c : Nat) (T : Tile) : (s.setTile c T).ad = s.ad := rfl
@[simp] theorem State.setTile_ordNext (s : State) (c : Nat) (T : Tile) : (s.setTile c T).ordNext = s.ordNext := rfl
@[simp] theorem State.setTile_takeMsn (s : State) (c : Nat) (T : Tile) : (s.setTile c T).takeMsn = s.takeMsn := rfl
@[simp] theorem State.setTile_partnerJoining (s : State) (c : Nat) (T : Tile) : (s.setTile c T).partnerJoining = s.partnerJoining := rfl
@[simp] theorem State.setTile_baseline (s : State) (c : Nat) (T : Tile) : (s.setTile c T).baseline = s.baseline := rfl
@[simp] theorem State.setTile_peerBaseline (s : State) (c : Nat) (T : Tile) : (s.setTile c T).peerBaseline = s.peerBaseline := rfl
@[simp] theorem State.setTile_rejoining (s : State) (c : Nat) (T : Tile) : (s.setTile c T).rejoining = s.rejoining := rfl
@[simp] theorem State.setTile_ueSince (s : State) (c : Nat) (T : Tile) : (s.setTile c T).ueSince = s.ueSince := rfl
@[simp] theorem State.setTile_journal (s : State) (c : Nat) (T : Tile) : (s.setTile c T).journal = s.journal := rfl
@[simp] theorem State.setTile_nextJsn (s : State) (c : Nat) (T : Tile) : (s.setTile c T).nextJsn = s.nextJsn := rfl
@[simp] theorem State.setTile_msnTab (s : State) (c : Nat) (T : Tile) : (s.setTile c T).msnTab = s.msnTab := rfl
@[simp] theorem State.setTile_nand (s : State) (c : Nat) (T : Tile) : (s.setTile c T).nand = s.nand := rfl
@[simp] theorem State.setTile_nandBad (s : State) (c : Nat) (T : Tile) : (s.setTile c T).nandBad = s.nandBad := rfl
@[simp] theorem State.setTile_journalValid (s : State) (c : Nat) (T : Tile) : (s.setTile c T).journalValid = s.journalValid := rfl
@[simp] theorem State.setTile_flush (s : State) (c : Nat) (T : Tile) : (s.setTile c T).flush = s.flush := rfl
@[simp] theorem State.setTile_warmUntil (s : State) (c : Nat) (T : Tile) : (s.setTile c T).warmUntil = s.warmUntil := rfl
@[simp] theorem State.setTile_flushAt (s : State) (c : Nat) (T : Tile) : (s.setTile c T).flushAt = s.flushAt := rfl
@[simp] theorem State.setTile_onfi (s : State) (c : Nat) (T : Tile) : (s.setTile c T).onfi = s.onfi := rfl
@[simp] theorem State.setTile_resetAfter (s : State) (c : Nat) (T : Tile) : (s.setTile c T).resetAfter = s.resetAfter := rfl
@[simp] theorem State.setTile_groups (s : State) (c : Nat) (T : Tile) : (s.setTile c T).groups = s.groups := rfl
@[simp] theorem State.setTile_avs (s : State) (c : Nat) (T : Tile) : (s.setTile c T).avs = s.avs := rfl
@[simp] theorem State.setTile_avsLower (s : State) (c : Nat) (T : Tile) : (s.setTile c T).avsLower = s.avsLower := rfl
@[simp] theorem State.setTile_avsOut (s : State) (c : Nat) (T : Tile) : (s.setTile c T).avsOut = s.avsOut := rfl
@[simp] theorem State.setTile_avsBad (s : State) (c : Nat) (T : Tile) : (s.setTile c T).avsBad = s.avsBad := rfl
@[simp] theorem State.setTile_gated (s : State) (c : Nat) (T : Tile) : (s.setTile c T).gated = s.gated := rfl
@[simp] theorem State.setTile_pwrgood (s : State) (c : Nat) (T : Tile) : (s.setTile c T).pwrgood = s.pwrgood := rfl
@[simp] theorem State.setTile_resetN (s : State) (c : Nat) (T : Tile) : (s.setTile c T).resetN = s.resetN := rfl
@[simp] theorem State.setTile_warmN (s : State) (c : Nat) (T : Tile) : (s.setTile c T).warmN = s.warmN := rfl
@[simp] theorem State.setTile_pfailN (s : State) (c : Nat) (T : Tile) : (s.setTile c T).pfailN = s.pfailN := rfl
@[simp] theorem State.setTile_ready (s : State) (c : Nat) (T : Tile) : (s.setTile c T).ready = s.ready := rfl
@[simp] theorem State.setTile_faultN (s : State) (c : Nat) (T : Tile) : (s.setTile c T).faultN = s.faultN := rfl
@[simp] theorem State.setTile_thermN (s : State) (c : Nat) (T : Tile) : (s.setTile c T).thermN = s.thermN := rfl
@[simp] theorem State.setTile_flash (s : State) (c : Nat) (T : Tile) : (s.setTile c T).flash = s.flash := rfl
@[simp] theorem State.setTile_flashOp (s : State) (c : Nat) (T : Tile) : (s.setTile c T).flashOp = s.flashOp := rfl
@[simp] theorem State.setTile_rom (s : State) (c : Nat) (T : Tile) : (s.setTile c T).rom = s.rom := rfl
@[simp] theorem State.setTile_devKey (s : State) (c : Nat) (T : Tile) : (s.setTile c T).devKey = s.devKey := rfl
@[simp] theorem State.setTile_aon (s : State) (c : Nat) (T : Tile) : (s.setTile c T).aon = s.aon := rfl
@[simp] theorem State.setTile_early (s : State) (c : Nat) (T : Tile) : (s.setTile c T).early = s.early := rfl
@[simp] theorem State.setTile_xspiUp (s : State) (c : Nat) (T : Tile) : (s.setTile c T).xspiUp = s.xspiUp := rfl
@[simp] theorem State.setTile_xspiOctal (s : State) (c : Nat) (T : Tile) : (s.setTile c T).xspiOctal = s.xspiOctal := rfl
@[simp] theorem State.setTile_imgHeader (s : State) (c : Nat) (T : Tile) : (s.setTile c T).imgHeader = s.imgHeader := rfl
@[simp] theorem State.setTile_licDigests (s : State) (c : Nat) (T : Tile) : (s.setTile c T).licDigests = s.licDigests := rfl
@[simp] theorem State.setTile_avsTab (s : State) (c : Nat) (T : Tile) : (s.setTile c T).avsTab = s.avsTab := rfl
@[simp] theorem State.setTile_flogAt (s : State) (c : Nat) (T : Tile) : (s.setTile c T).flogAt = s.flogAt := rfl
@[simp] theorem State.setTile_flogChain (s : State) (c : Nat) (T : Tile) : (s.setTile c T).flogChain = s.flogChain := rfl
@[simp] theorem State.setTile_flogSince (s : State) (c : Nat) (T : Tile) : (s.setTile c T).flogSince = s.flogSince := rfl
@[simp] theorem State.setTile_flogQueue (s : State) (c : Nat) (T : Tile) : (s.setTile c T).flogQueue = s.flogQueue := rfl
@[simp] theorem State.setTile_att (s : State) (c : Nat) (T : Tile) : (s.setTile c T).att = s.att := rfl
@[simp] theorem State.setTile_ingress (s : State) (c : Nat) (T : Tile) : (s.setTile c T).ingress = s.ingress := rfl
@[simp] theorem State.setTile_jtagIr (s : State) (c : Nat) (T : Tile) : (s.setTile c T).jtagIr = s.jtagIr := rfl
@[simp] theorem State.setTile_jtagX (s : State) (c : Nat) (T : Tile) : (s.setTile c T).jtagX = s.jtagX := rfl
@[simp] theorem State.setTile_cells (s : State) (c : Nat) (T : Tile) : (s.setTile c T).cells = s.cells := rfl
@[simp] theorem State.setTile_outside (s : State) (c : Nat) (T : Tile) : (s.setTile c T).outside = s.outside := rfl
@[simp] theorem State.setTile_tdo (s : State) (c : Nat) (T : Tile) : (s.setTile c T).tdo = s.tdo := rfl
@[simp] theorem State.setTile_jtagPins (s : State) (c : Nat) (T : Tile) : (s.setTile c T).jtagPins = s.jtagPins := rfl
@[simp] theorem State.setTile_startWait (s : State) (c : Nat) (T : Tile) : (s.setTile c T).startWait = s.startWait := rfl
@[simp] theorem State.modTile_pending (s : State) (c : Nat) (f : Tile → Tile) : (s.modTile c f).pending = s.pending := rfl
@[simp] theorem State.modTile_regs (s : State) (c : Nat) (f : Tile → Tile) : (s.modTile c f).regs = s.regs := rfl
@[simp] theorem State.modTile_latches (s : State) (c : Nat) (f : Tile → Tile) : (s.modTile c f).latches = s.latches := rfl
@[simp] theorem State.modTile_hbm (s : State) (c : Nat) (f : Tile → Tile) : (s.modTile c f).hbm = s.hbm := rfl
@[simp] theorem State.modTile_poison (s : State) (c : Nat) (f : Tile → Tile) : (s.modTile c f).poison = s.poison := rfl
@[simp] theorem State.modTile_upset (s : State) (c : Nat) (f : Tile → Tile) : (s.modTile c f).upset = s.upset := rfl
@[simp] theorem State.modTile_dirMem (s : State) (c : Nat) (f : Tile → Tile) : (s.modTile c f).dirMem = s.dirMem := rfl
@[simp] theorem State.modTile_rdata (s : State) (c : Nat) (f : Tile → Tile) : (s.modTile c f).rdata = s.rdata := rfl
@[simp] theorem State.modTile_unitOut (s : State) (c : Nat) (f : Tile → Tile) : (s.modTile c f).unitOut = s.unitOut := rfl
@[simp] theorem State.modTile_unitLost (s : State) (c : Nat) (f : Tile → Tile) : (s.modTile c f).unitLost = s.unitLost := rfl
@[simp] theorem State.modTile_fwdNext (s : State) (c : Nat) (f : Tile → Tile) : (s.modTile c f).fwdNext = s.fwdNext := rfl
@[simp] theorem State.modTile_freeCount (s : State) (c : Nat) (f : Tile → Tile) : (s.modTile c f).freeCount = s.freeCount := rfl
@[simp] theorem State.modTile_uptime (s : State) (c : Nat) (f : Tile → Tile) : (s.modTile c f).uptime = s.uptime := rfl
@[simp] theorem State.modTile_pllLocked (s : State) (c : Nat) (f : Tile → Tile) : (s.modTile c f).pllLocked = s.pllLocked := rfl
@[simp] theorem State.modTile_events (s : State) (c : Nat) (f : Tile → Tile) : (s.modTile c f).events = s.events := rfl
@[simp] theorem State.modTile_lost (s : State) (c : Nat) (f : Tile → Tile) : (s.modTile c f).lost = s.lost := rfl
@[simp] theorem State.modTile_evBuf (s : State) (c : Nat) (f : Tile → Tile) : (s.modTile c f).evBuf = s.evBuf := rfl
@[simp] theorem State.modTile_ringMapped (s : State) (c : Nat) (f : Tile → Tile) : (s.modTile c f).ringMapped = s.ringMapped := rfl
@[simp] theorem State.modTile_ringLost (s : State) (c : Nat) (f : Tile → Tile) : (s.modTile c f).ringLost = s.ringLost := rfl
@[simp] theorem State.modTile_fatal (s : State) (c : Nat) (f : Tile → Tile) : (s.modTile c f).fatal = s.fatal := rfl
@[simp] theorem State.modTile_ibis (s : State) (c : Nat) (f : Tile → Tile) : (s.modTile c f).ibis = s.ibis := rfl
@[simp] theorem State.modTile_ibiBusy (s : State) (c : Nat) (f : Tile → Tile) : (s.modTile c f).ibiBusy = s.ibiBusy := rfl
@[simp] theorem State.modTile_ibiPend (s : State) (c : Nat) (f : Tile → Tile) : (s.modTile c f).ibiPend = s.ibiPend := rfl
@[simp] theorem State.modTile_alertCause (s : State) (c : Nat) (f : Tile → Tile) : (s.modTile c f).alertCause = s.alertCause := rfl
@[simp] theorem State.modTile_tempArmed (s : State) (c : Nat) (f : Tile → Tile) : (s.modTile c f).tempArmed = s.tempArmed := rfl
@[simp] theorem State.modTile_powerArmed (s : State) (c : Nat) (f : Tile → Tile) : (s.modTile c f).powerArmed = s.powerArmed := rfl
@[simp] theorem State.modTile_i3cOffset (s : State) (c : Nat) (f : Tile → Tile) : (s.modTile c f).i3cOffset = s.i3cOffset := rfl
@[simp] theorem State.modTile_i3cAddr (s : State) (c : Nat) (f : Tile → Tile) : (s.modTile c f).i3cAddr = s.i3cAddr := rfl
@[simp] theorem State.modTile_i3cOut (s : State) (c : Nat) (f : Tile → Tile) : (s.modTile c f).i3cOut = s.i3cOut := rfl
@[simp] theorem State.modTile_embs (s : State) (c : Nat) (f : Tile → Tile) : (s.modTile c f).embs = s.embs := rfl
@[simp] theorem State.modTile_migDir (s : State) (c : Nat) (f : Tile → Tile) : (s.modTile c f).migDir = s.migDir := rfl
@[simp] theorem State.modTile_migNext (s : State) (c : Nat) (f : Tile → Tile) : (s.modTile c f).migNext = s.migNext := rfl
@[simp] theorem State.modTile_migSlots (s : State) (c : Nat) (f : Tile → Tile) : (s.modTile c f).migSlots = s.migSlots := rfl
@[simp] theorem State.modTile_pushFly (s : State) (c : Nat) (f : Tile → Tile) : (s.modTile c f).pushFly = s.pushFly := rfl
@[simp] theorem State.modTile_stage (s : State) (c : Nat) (f : Tile → Tile) : (s.modTile c f).stage = s.stage := rfl
@[simp] theorem State.modTile_jobs (s : State) (c : Nat) (f : Tile → Tile) : (s.modTile c f).jobs = s.jobs := rfl
@[simp] theorem State.modTile_cmdPos (s : State) (c : Nat) (f : Tile → Tile) : (s.modTile c f).cmdPos = s.cmdPos := rfl
@[simp] theorem State.modTile_nextCmd (s : State) (c : Nat) (f : Tile → Tile) : (s.modTile c f).nextCmd = s.nextCmd := rfl
@[simp] theorem State.modTile_running (s : State) (c : Nat) (f : Tile → Tile) : (s.modTile c f).running = s.running := rfl
@[simp] theorem State.modTile_deferred (s : State) (c : Nat) (f : Tile → Tile) : (s.modTile c f).deferred = s.deferred := rfl
@[simp] theorem State.modTile_segFly (s : State) (c : Nat) (f : Tile → Tile) : (s.modTile c f).segFly = s.segFly := rfl
@[simp] theorem State.modTile_endFly (s : State) (c : Nat) (f : Tile → Tile) : (s.modTile c f).endFly = s.endFly := rfl
@[simp] theorem State.modTile_segWait (s : State) (c : Nat) (f : Tile → Tile) : (s.modTile c f).segWait = s.segWait := rfl
@[simp] theorem State.modTile_colls (s : State) (c : Nat) (f : Tile → Tile) : (s.modTile c f).colls = s.colls := rfl
@[simp] theorem State.modTile_scrubs (s : State) (c : Nat) (f : Tile → Tile) : (s.modTile c f).scrubs = s.scrubs := rfl
@[simp] theorem State.modTile_loads (s : State) (c : Nat) (f : Tile → Tile) : (s.modTile c f).loads = s.loads := rfl
@[simp] theorem State.modTile_loader (s : State) (c : Nat) (f : Tile → Tile) : (s.modTile c f).loader = s.loader := rfl
@[simp] theorem State.modTile_ctxs (s : State) (c : Nat) (f : Tile → Tile) : (s.modTile c f).ctxs = s.ctxs := rfl
@[simp] theorem State.modTile_ctxCache (s : State) (c : Nat) (f : Tile → Tile) : (s.modTile c f).ctxCache = s.ctxCache := rfl
@[simp] theorem State.modTile_wire (s : State) (c : Nat) (f : Tile → Tile) : (s.modTile c f).wire = s.wire := rfl
@[simp] theorem State.modTile_turn (s : State) (c : Nat) (f : Tile → Tile) : (s.modTile c f).turn = s.turn := rfl
@[simp] theorem State.modTile_pause (s : State) (c : Nat) (f : Tile → Tile) : (s.modTile c f).pause = s.pause := rfl
@[simp] theorem State.modTile_xoff (s : State) (c : Nat) (f : Tile → Tile) : (s.modTile c f).xoff = s.xoff := rfl
@[simp] theorem State.modTile_xrDown (s : State) (c : Nat) (f : Tile → Tile) : (s.modTile c f).xrDown = s.xrDown := rfl
@[simp] theorem State.modTile_anPages (s : State) (c : Nat) (f : Tile → Tile) : (s.modTile c f).anPages = s.anPages := rfl
@[simp] theorem State.modTile_diagPeer (s : State) (c : Nat) (f : Tile → Tile) : (s.modTile c f).diagPeer = s.diagPeer := rfl
@[simp] theorem State.modTile_items (s : State) (c : Nat) (f : Tile → Tile) : (s.modTile c f).items = s.items := rfl
@[simp] theorem State.modTile_nextItem (s : State) (c : Nat) (f : Tile → Tile) : (s.modTile c f).nextItem = s.nextItem := rfl
@[simp] theorem State.modTile_acceptNo (s : State) (c : Nat) (f : Tile → Tile) : (s.modTile c f).acceptNo = s.acceptNo := rfl
@[simp] theorem State.modTile_egress (s : State) (c : Nat) (f : Tile → Tile) : (s.modTile c f).egress = s.egress := rfl
@[simp] theorem State.modTile_delivered (s : State) (c : Nat) (f : Tile → Tile) : (s.modTile c f).delivered = s.delivered := rfl
@[simp] theorem State.modTile_twinOut (s : State) (c : Nat) (f : Tile → Tile) : (s.modTile c f).twinOut = s.twinOut := rfl
@[simp] theorem State.modTile_twinFrom (s : State) (c : Nat) (f : Tile → Tile) : (s.modTile c f).twinFrom = s.twinFrom := rfl
@[simp] theorem State.modTile_td (s : State) (c : Nat) (f : Tile → Tile) : (s.modTile c f).td = s.td := rfl
@[simp] theorem State.modTile_ad (s : State) (c : Nat) (f : Tile → Tile) : (s.modTile c f).ad = s.ad := rfl
@[simp] theorem State.modTile_ordNext (s : State) (c : Nat) (f : Tile → Tile) : (s.modTile c f).ordNext = s.ordNext := rfl
@[simp] theorem State.modTile_takeMsn (s : State) (c : Nat) (f : Tile → Tile) : (s.modTile c f).takeMsn = s.takeMsn := rfl
@[simp] theorem State.modTile_partnerJoining (s : State) (c : Nat) (f : Tile → Tile) : (s.modTile c f).partnerJoining = s.partnerJoining := rfl
@[simp] theorem State.modTile_baseline (s : State) (c : Nat) (f : Tile → Tile) : (s.modTile c f).baseline = s.baseline := rfl
@[simp] theorem State.modTile_peerBaseline (s : State) (c : Nat) (f : Tile → Tile) : (s.modTile c f).peerBaseline = s.peerBaseline := rfl
@[simp] theorem State.modTile_rejoining (s : State) (c : Nat) (f : Tile → Tile) : (s.modTile c f).rejoining = s.rejoining := rfl
@[simp] theorem State.modTile_ueSince (s : State) (c : Nat) (f : Tile → Tile) : (s.modTile c f).ueSince = s.ueSince := rfl
@[simp] theorem State.modTile_journal (s : State) (c : Nat) (f : Tile → Tile) : (s.modTile c f).journal = s.journal := rfl
@[simp] theorem State.modTile_nextJsn (s : State) (c : Nat) (f : Tile → Tile) : (s.modTile c f).nextJsn = s.nextJsn := rfl
@[simp] theorem State.modTile_msnTab (s : State) (c : Nat) (f : Tile → Tile) : (s.modTile c f).msnTab = s.msnTab := rfl
@[simp] theorem State.modTile_nand (s : State) (c : Nat) (f : Tile → Tile) : (s.modTile c f).nand = s.nand := rfl
@[simp] theorem State.modTile_nandBad (s : State) (c : Nat) (f : Tile → Tile) : (s.modTile c f).nandBad = s.nandBad := rfl
@[simp] theorem State.modTile_journalValid (s : State) (c : Nat) (f : Tile → Tile) : (s.modTile c f).journalValid = s.journalValid := rfl
@[simp] theorem State.modTile_flush (s : State) (c : Nat) (f : Tile → Tile) : (s.modTile c f).flush = s.flush := rfl
@[simp] theorem State.modTile_warmUntil (s : State) (c : Nat) (f : Tile → Tile) : (s.modTile c f).warmUntil = s.warmUntil := rfl
@[simp] theorem State.modTile_flushAt (s : State) (c : Nat) (f : Tile → Tile) : (s.modTile c f).flushAt = s.flushAt := rfl
@[simp] theorem State.modTile_onfi (s : State) (c : Nat) (f : Tile → Tile) : (s.modTile c f).onfi = s.onfi := rfl
@[simp] theorem State.modTile_resetAfter (s : State) (c : Nat) (f : Tile → Tile) : (s.modTile c f).resetAfter = s.resetAfter := rfl
@[simp] theorem State.modTile_groups (s : State) (c : Nat) (f : Tile → Tile) : (s.modTile c f).groups = s.groups := rfl
@[simp] theorem State.modTile_avs (s : State) (c : Nat) (f : Tile → Tile) : (s.modTile c f).avs = s.avs := rfl
@[simp] theorem State.modTile_avsLower (s : State) (c : Nat) (f : Tile → Tile) : (s.modTile c f).avsLower = s.avsLower := rfl
@[simp] theorem State.modTile_avsOut (s : State) (c : Nat) (f : Tile → Tile) : (s.modTile c f).avsOut = s.avsOut := rfl
@[simp] theorem State.modTile_avsBad (s : State) (c : Nat) (f : Tile → Tile) : (s.modTile c f).avsBad = s.avsBad := rfl
@[simp] theorem State.modTile_gated (s : State) (c : Nat) (f : Tile → Tile) : (s.modTile c f).gated = s.gated := rfl
@[simp] theorem State.modTile_pwrgood (s : State) (c : Nat) (f : Tile → Tile) : (s.modTile c f).pwrgood = s.pwrgood := rfl
@[simp] theorem State.modTile_resetN (s : State) (c : Nat) (f : Tile → Tile) : (s.modTile c f).resetN = s.resetN := rfl
@[simp] theorem State.modTile_warmN (s : State) (c : Nat) (f : Tile → Tile) : (s.modTile c f).warmN = s.warmN := rfl
@[simp] theorem State.modTile_pfailN (s : State) (c : Nat) (f : Tile → Tile) : (s.modTile c f).pfailN = s.pfailN := rfl
@[simp] theorem State.modTile_ready (s : State) (c : Nat) (f : Tile → Tile) : (s.modTile c f).ready = s.ready := rfl
@[simp] theorem State.modTile_faultN (s : State) (c : Nat) (f : Tile → Tile) : (s.modTile c f).faultN = s.faultN := rfl
@[simp] theorem State.modTile_thermN (s : State) (c : Nat) (f : Tile → Tile) : (s.modTile c f).thermN = s.thermN := rfl
@[simp] theorem State.modTile_flash (s : State) (c : Nat) (f : Tile → Tile) : (s.modTile c f).flash = s.flash := rfl
@[simp] theorem State.modTile_flashOp (s : State) (c : Nat) (f : Tile → Tile) : (s.modTile c f).flashOp = s.flashOp := rfl
@[simp] theorem State.modTile_rom (s : State) (c : Nat) (f : Tile → Tile) : (s.modTile c f).rom = s.rom := rfl
@[simp] theorem State.modTile_devKey (s : State) (c : Nat) (f : Tile → Tile) : (s.modTile c f).devKey = s.devKey := rfl
@[simp] theorem State.modTile_aon (s : State) (c : Nat) (f : Tile → Tile) : (s.modTile c f).aon = s.aon := rfl
@[simp] theorem State.modTile_early (s : State) (c : Nat) (f : Tile → Tile) : (s.modTile c f).early = s.early := rfl
@[simp] theorem State.modTile_xspiUp (s : State) (c : Nat) (f : Tile → Tile) : (s.modTile c f).xspiUp = s.xspiUp := rfl
@[simp] theorem State.modTile_xspiOctal (s : State) (c : Nat) (f : Tile → Tile) : (s.modTile c f).xspiOctal = s.xspiOctal := rfl
@[simp] theorem State.modTile_imgHeader (s : State) (c : Nat) (f : Tile → Tile) : (s.modTile c f).imgHeader = s.imgHeader := rfl
@[simp] theorem State.modTile_licDigests (s : State) (c : Nat) (f : Tile → Tile) : (s.modTile c f).licDigests = s.licDigests := rfl
@[simp] theorem State.modTile_avsTab (s : State) (c : Nat) (f : Tile → Tile) : (s.modTile c f).avsTab = s.avsTab := rfl
@[simp] theorem State.modTile_flogAt (s : State) (c : Nat) (f : Tile → Tile) : (s.modTile c f).flogAt = s.flogAt := rfl
@[simp] theorem State.modTile_flogChain (s : State) (c : Nat) (f : Tile → Tile) : (s.modTile c f).flogChain = s.flogChain := rfl
@[simp] theorem State.modTile_flogSince (s : State) (c : Nat) (f : Tile → Tile) : (s.modTile c f).flogSince = s.flogSince := rfl
@[simp] theorem State.modTile_flogQueue (s : State) (c : Nat) (f : Tile → Tile) : (s.modTile c f).flogQueue = s.flogQueue := rfl
@[simp] theorem State.modTile_att (s : State) (c : Nat) (f : Tile → Tile) : (s.modTile c f).att = s.att := rfl
@[simp] theorem State.modTile_ingress (s : State) (c : Nat) (f : Tile → Tile) : (s.modTile c f).ingress = s.ingress := rfl
@[simp] theorem State.modTile_jtagIr (s : State) (c : Nat) (f : Tile → Tile) : (s.modTile c f).jtagIr = s.jtagIr := rfl
@[simp] theorem State.modTile_jtagX (s : State) (c : Nat) (f : Tile → Tile) : (s.modTile c f).jtagX = s.jtagX := rfl
@[simp] theorem State.modTile_cells (s : State) (c : Nat) (f : Tile → Tile) : (s.modTile c f).cells = s.cells := rfl
@[simp] theorem State.modTile_outside (s : State) (c : Nat) (f : Tile → Tile) : (s.modTile c f).outside = s.outside := rfl
@[simp] theorem State.modTile_tdo (s : State) (c : Nat) (f : Tile → Tile) : (s.modTile c f).tdo = s.tdo := rfl
@[simp] theorem State.modTile_jtagPins (s : State) (c : Nat) (f : Tile → Tile) : (s.modTile c f).jtagPins = s.jtagPins := rfl
@[simp] theorem State.modTile_startWait (s : State) (c : Nat) (f : Tile → Tile) : (s.modTile c f).startWait = s.startWait := rfl
@[simp] theorem State.modEmb_pending (s : State) (d : Nat) (f : EmbDie → EmbDie) : (s.modEmb d f).pending = s.pending := rfl
@[simp] theorem State.modEmb_tiles (s : State) (d : Nat) (f : EmbDie → EmbDie) : (s.modEmb d f).tiles = s.tiles := rfl
@[simp] theorem State.modEmb_regs (s : State) (d : Nat) (f : EmbDie → EmbDie) : (s.modEmb d f).regs = s.regs := rfl
@[simp] theorem State.modEmb_latches (s : State) (d : Nat) (f : EmbDie → EmbDie) : (s.modEmb d f).latches = s.latches := rfl
@[simp] theorem State.modEmb_hbm (s : State) (d : Nat) (f : EmbDie → EmbDie) : (s.modEmb d f).hbm = s.hbm := rfl
@[simp] theorem State.modEmb_poison (s : State) (d : Nat) (f : EmbDie → EmbDie) : (s.modEmb d f).poison = s.poison := rfl
@[simp] theorem State.modEmb_upset (s : State) (d : Nat) (f : EmbDie → EmbDie) : (s.modEmb d f).upset = s.upset := rfl
@[simp] theorem State.modEmb_dirMem (s : State) (d : Nat) (f : EmbDie → EmbDie) : (s.modEmb d f).dirMem = s.dirMem := rfl
@[simp] theorem State.modEmb_rdata (s : State) (d : Nat) (f : EmbDie → EmbDie) : (s.modEmb d f).rdata = s.rdata := rfl
@[simp] theorem State.modEmb_unitOut (s : State) (d : Nat) (f : EmbDie → EmbDie) : (s.modEmb d f).unitOut = s.unitOut := rfl
@[simp] theorem State.modEmb_unitLost (s : State) (d : Nat) (f : EmbDie → EmbDie) : (s.modEmb d f).unitLost = s.unitLost := rfl
@[simp] theorem State.modEmb_fwdNext (s : State) (d : Nat) (f : EmbDie → EmbDie) : (s.modEmb d f).fwdNext = s.fwdNext := rfl
@[simp] theorem State.modEmb_freeCount (s : State) (d : Nat) (f : EmbDie → EmbDie) : (s.modEmb d f).freeCount = s.freeCount := rfl
@[simp] theorem State.modEmb_uptime (s : State) (d : Nat) (f : EmbDie → EmbDie) : (s.modEmb d f).uptime = s.uptime := rfl
@[simp] theorem State.modEmb_pllLocked (s : State) (d : Nat) (f : EmbDie → EmbDie) : (s.modEmb d f).pllLocked = s.pllLocked := rfl
@[simp] theorem State.modEmb_events (s : State) (d : Nat) (f : EmbDie → EmbDie) : (s.modEmb d f).events = s.events := rfl
@[simp] theorem State.modEmb_lost (s : State) (d : Nat) (f : EmbDie → EmbDie) : (s.modEmb d f).lost = s.lost := rfl
@[simp] theorem State.modEmb_evBuf (s : State) (d : Nat) (f : EmbDie → EmbDie) : (s.modEmb d f).evBuf = s.evBuf := rfl
@[simp] theorem State.modEmb_ringMapped (s : State) (d : Nat) (f : EmbDie → EmbDie) : (s.modEmb d f).ringMapped = s.ringMapped := rfl
@[simp] theorem State.modEmb_ringLost (s : State) (d : Nat) (f : EmbDie → EmbDie) : (s.modEmb d f).ringLost = s.ringLost := rfl
@[simp] theorem State.modEmb_fatal (s : State) (d : Nat) (f : EmbDie → EmbDie) : (s.modEmb d f).fatal = s.fatal := rfl
@[simp] theorem State.modEmb_ibis (s : State) (d : Nat) (f : EmbDie → EmbDie) : (s.modEmb d f).ibis = s.ibis := rfl
@[simp] theorem State.modEmb_ibiBusy (s : State) (d : Nat) (f : EmbDie → EmbDie) : (s.modEmb d f).ibiBusy = s.ibiBusy := rfl
@[simp] theorem State.modEmb_ibiPend (s : State) (d : Nat) (f : EmbDie → EmbDie) : (s.modEmb d f).ibiPend = s.ibiPend := rfl
@[simp] theorem State.modEmb_alertCause (s : State) (d : Nat) (f : EmbDie → EmbDie) : (s.modEmb d f).alertCause = s.alertCause := rfl
@[simp] theorem State.modEmb_tempArmed (s : State) (d : Nat) (f : EmbDie → EmbDie) : (s.modEmb d f).tempArmed = s.tempArmed := rfl
@[simp] theorem State.modEmb_powerArmed (s : State) (d : Nat) (f : EmbDie → EmbDie) : (s.modEmb d f).powerArmed = s.powerArmed := rfl
@[simp] theorem State.modEmb_i3cOffset (s : State) (d : Nat) (f : EmbDie → EmbDie) : (s.modEmb d f).i3cOffset = s.i3cOffset := rfl
@[simp] theorem State.modEmb_i3cAddr (s : State) (d : Nat) (f : EmbDie → EmbDie) : (s.modEmb d f).i3cAddr = s.i3cAddr := rfl
@[simp] theorem State.modEmb_i3cOut (s : State) (d : Nat) (f : EmbDie → EmbDie) : (s.modEmb d f).i3cOut = s.i3cOut := rfl
@[simp] theorem State.modEmb_migDir (s : State) (d : Nat) (f : EmbDie → EmbDie) : (s.modEmb d f).migDir = s.migDir := rfl
@[simp] theorem State.modEmb_migNext (s : State) (d : Nat) (f : EmbDie → EmbDie) : (s.modEmb d f).migNext = s.migNext := rfl
@[simp] theorem State.modEmb_migSlots (s : State) (d : Nat) (f : EmbDie → EmbDie) : (s.modEmb d f).migSlots = s.migSlots := rfl
@[simp] theorem State.modEmb_pushFly (s : State) (d : Nat) (f : EmbDie → EmbDie) : (s.modEmb d f).pushFly = s.pushFly := rfl
@[simp] theorem State.modEmb_stage (s : State) (d : Nat) (f : EmbDie → EmbDie) : (s.modEmb d f).stage = s.stage := rfl
@[simp] theorem State.modEmb_jobs (s : State) (d : Nat) (f : EmbDie → EmbDie) : (s.modEmb d f).jobs = s.jobs := rfl
@[simp] theorem State.modEmb_cmdPos (s : State) (d : Nat) (f : EmbDie → EmbDie) : (s.modEmb d f).cmdPos = s.cmdPos := rfl
@[simp] theorem State.modEmb_nextCmd (s : State) (d : Nat) (f : EmbDie → EmbDie) : (s.modEmb d f).nextCmd = s.nextCmd := rfl
@[simp] theorem State.modEmb_running (s : State) (d : Nat) (f : EmbDie → EmbDie) : (s.modEmb d f).running = s.running := rfl
@[simp] theorem State.modEmb_deferred (s : State) (d : Nat) (f : EmbDie → EmbDie) : (s.modEmb d f).deferred = s.deferred := rfl
@[simp] theorem State.modEmb_segFly (s : State) (d : Nat) (f : EmbDie → EmbDie) : (s.modEmb d f).segFly = s.segFly := rfl
@[simp] theorem State.modEmb_endFly (s : State) (d : Nat) (f : EmbDie → EmbDie) : (s.modEmb d f).endFly = s.endFly := rfl
@[simp] theorem State.modEmb_segWait (s : State) (d : Nat) (f : EmbDie → EmbDie) : (s.modEmb d f).segWait = s.segWait := rfl
@[simp] theorem State.modEmb_colls (s : State) (d : Nat) (f : EmbDie → EmbDie) : (s.modEmb d f).colls = s.colls := rfl
@[simp] theorem State.modEmb_scrubs (s : State) (d : Nat) (f : EmbDie → EmbDie) : (s.modEmb d f).scrubs = s.scrubs := rfl
@[simp] theorem State.modEmb_loads (s : State) (d : Nat) (f : EmbDie → EmbDie) : (s.modEmb d f).loads = s.loads := rfl
@[simp] theorem State.modEmb_loader (s : State) (d : Nat) (f : EmbDie → EmbDie) : (s.modEmb d f).loader = s.loader := rfl
@[simp] theorem State.modEmb_ctxs (s : State) (d : Nat) (f : EmbDie → EmbDie) : (s.modEmb d f).ctxs = s.ctxs := rfl
@[simp] theorem State.modEmb_ctxCache (s : State) (d : Nat) (f : EmbDie → EmbDie) : (s.modEmb d f).ctxCache = s.ctxCache := rfl
@[simp] theorem State.modEmb_wire (s : State) (d : Nat) (f : EmbDie → EmbDie) : (s.modEmb d f).wire = s.wire := rfl
@[simp] theorem State.modEmb_turn (s : State) (d : Nat) (f : EmbDie → EmbDie) : (s.modEmb d f).turn = s.turn := rfl
@[simp] theorem State.modEmb_pause (s : State) (d : Nat) (f : EmbDie → EmbDie) : (s.modEmb d f).pause = s.pause := rfl
@[simp] theorem State.modEmb_xoff (s : State) (d : Nat) (f : EmbDie → EmbDie) : (s.modEmb d f).xoff = s.xoff := rfl
@[simp] theorem State.modEmb_xrDown (s : State) (d : Nat) (f : EmbDie → EmbDie) : (s.modEmb d f).xrDown = s.xrDown := rfl
@[simp] theorem State.modEmb_anPages (s : State) (d : Nat) (f : EmbDie → EmbDie) : (s.modEmb d f).anPages = s.anPages := rfl
@[simp] theorem State.modEmb_diagPeer (s : State) (d : Nat) (f : EmbDie → EmbDie) : (s.modEmb d f).diagPeer = s.diagPeer := rfl
@[simp] theorem State.modEmb_items (s : State) (d : Nat) (f : EmbDie → EmbDie) : (s.modEmb d f).items = s.items := rfl
@[simp] theorem State.modEmb_nextItem (s : State) (d : Nat) (f : EmbDie → EmbDie) : (s.modEmb d f).nextItem = s.nextItem := rfl
@[simp] theorem State.modEmb_acceptNo (s : State) (d : Nat) (f : EmbDie → EmbDie) : (s.modEmb d f).acceptNo = s.acceptNo := rfl
@[simp] theorem State.modEmb_egress (s : State) (d : Nat) (f : EmbDie → EmbDie) : (s.modEmb d f).egress = s.egress := rfl
@[simp] theorem State.modEmb_delivered (s : State) (d : Nat) (f : EmbDie → EmbDie) : (s.modEmb d f).delivered = s.delivered := rfl
@[simp] theorem State.modEmb_twinOut (s : State) (d : Nat) (f : EmbDie → EmbDie) : (s.modEmb d f).twinOut = s.twinOut := rfl
@[simp] theorem State.modEmb_twinFrom (s : State) (d : Nat) (f : EmbDie → EmbDie) : (s.modEmb d f).twinFrom = s.twinFrom := rfl
@[simp] theorem State.modEmb_td (s : State) (d : Nat) (f : EmbDie → EmbDie) : (s.modEmb d f).td = s.td := rfl
@[simp] theorem State.modEmb_ad (s : State) (d : Nat) (f : EmbDie → EmbDie) : (s.modEmb d f).ad = s.ad := rfl
@[simp] theorem State.modEmb_ordNext (s : State) (d : Nat) (f : EmbDie → EmbDie) : (s.modEmb d f).ordNext = s.ordNext := rfl
@[simp] theorem State.modEmb_takeMsn (s : State) (d : Nat) (f : EmbDie → EmbDie) : (s.modEmb d f).takeMsn = s.takeMsn := rfl
@[simp] theorem State.modEmb_partnerJoining (s : State) (d : Nat) (f : EmbDie → EmbDie) : (s.modEmb d f).partnerJoining = s.partnerJoining := rfl
@[simp] theorem State.modEmb_baseline (s : State) (d : Nat) (f : EmbDie → EmbDie) : (s.modEmb d f).baseline = s.baseline := rfl
@[simp] theorem State.modEmb_peerBaseline (s : State) (d : Nat) (f : EmbDie → EmbDie) : (s.modEmb d f).peerBaseline = s.peerBaseline := rfl
@[simp] theorem State.modEmb_rejoining (s : State) (d : Nat) (f : EmbDie → EmbDie) : (s.modEmb d f).rejoining = s.rejoining := rfl
@[simp] theorem State.modEmb_ueSince (s : State) (d : Nat) (f : EmbDie → EmbDie) : (s.modEmb d f).ueSince = s.ueSince := rfl
@[simp] theorem State.modEmb_journal (s : State) (d : Nat) (f : EmbDie → EmbDie) : (s.modEmb d f).journal = s.journal := rfl
@[simp] theorem State.modEmb_nextJsn (s : State) (d : Nat) (f : EmbDie → EmbDie) : (s.modEmb d f).nextJsn = s.nextJsn := rfl
@[simp] theorem State.modEmb_msnTab (s : State) (d : Nat) (f : EmbDie → EmbDie) : (s.modEmb d f).msnTab = s.msnTab := rfl
@[simp] theorem State.modEmb_nand (s : State) (d : Nat) (f : EmbDie → EmbDie) : (s.modEmb d f).nand = s.nand := rfl
@[simp] theorem State.modEmb_nandBad (s : State) (d : Nat) (f : EmbDie → EmbDie) : (s.modEmb d f).nandBad = s.nandBad := rfl
@[simp] theorem State.modEmb_journalValid (s : State) (d : Nat) (f : EmbDie → EmbDie) : (s.modEmb d f).journalValid = s.journalValid := rfl
@[simp] theorem State.modEmb_flush (s : State) (d : Nat) (f : EmbDie → EmbDie) : (s.modEmb d f).flush = s.flush := rfl
@[simp] theorem State.modEmb_warmUntil (s : State) (d : Nat) (f : EmbDie → EmbDie) : (s.modEmb d f).warmUntil = s.warmUntil := rfl
@[simp] theorem State.modEmb_flushAt (s : State) (d : Nat) (f : EmbDie → EmbDie) : (s.modEmb d f).flushAt = s.flushAt := rfl
@[simp] theorem State.modEmb_onfi (s : State) (d : Nat) (f : EmbDie → EmbDie) : (s.modEmb d f).onfi = s.onfi := rfl
@[simp] theorem State.modEmb_resetAfter (s : State) (d : Nat) (f : EmbDie → EmbDie) : (s.modEmb d f).resetAfter = s.resetAfter := rfl
@[simp] theorem State.modEmb_groups (s : State) (d : Nat) (f : EmbDie → EmbDie) : (s.modEmb d f).groups = s.groups := rfl
@[simp] theorem State.modEmb_avs (s : State) (d : Nat) (f : EmbDie → EmbDie) : (s.modEmb d f).avs = s.avs := rfl
@[simp] theorem State.modEmb_avsLower (s : State) (d : Nat) (f : EmbDie → EmbDie) : (s.modEmb d f).avsLower = s.avsLower := rfl
@[simp] theorem State.modEmb_avsOut (s : State) (d : Nat) (f : EmbDie → EmbDie) : (s.modEmb d f).avsOut = s.avsOut := rfl
@[simp] theorem State.modEmb_avsBad (s : State) (d : Nat) (f : EmbDie → EmbDie) : (s.modEmb d f).avsBad = s.avsBad := rfl
@[simp] theorem State.modEmb_gated (s : State) (d : Nat) (f : EmbDie → EmbDie) : (s.modEmb d f).gated = s.gated := rfl
@[simp] theorem State.modEmb_pwrgood (s : State) (d : Nat) (f : EmbDie → EmbDie) : (s.modEmb d f).pwrgood = s.pwrgood := rfl
@[simp] theorem State.modEmb_resetN (s : State) (d : Nat) (f : EmbDie → EmbDie) : (s.modEmb d f).resetN = s.resetN := rfl
@[simp] theorem State.modEmb_warmN (s : State) (d : Nat) (f : EmbDie → EmbDie) : (s.modEmb d f).warmN = s.warmN := rfl
@[simp] theorem State.modEmb_pfailN (s : State) (d : Nat) (f : EmbDie → EmbDie) : (s.modEmb d f).pfailN = s.pfailN := rfl
@[simp] theorem State.modEmb_ready (s : State) (d : Nat) (f : EmbDie → EmbDie) : (s.modEmb d f).ready = s.ready := rfl
@[simp] theorem State.modEmb_faultN (s : State) (d : Nat) (f : EmbDie → EmbDie) : (s.modEmb d f).faultN = s.faultN := rfl
@[simp] theorem State.modEmb_thermN (s : State) (d : Nat) (f : EmbDie → EmbDie) : (s.modEmb d f).thermN = s.thermN := rfl
@[simp] theorem State.modEmb_flash (s : State) (d : Nat) (f : EmbDie → EmbDie) : (s.modEmb d f).flash = s.flash := rfl
@[simp] theorem State.modEmb_flashOp (s : State) (d : Nat) (f : EmbDie → EmbDie) : (s.modEmb d f).flashOp = s.flashOp := rfl
@[simp] theorem State.modEmb_rom (s : State) (d : Nat) (f : EmbDie → EmbDie) : (s.modEmb d f).rom = s.rom := rfl
@[simp] theorem State.modEmb_devKey (s : State) (d : Nat) (f : EmbDie → EmbDie) : (s.modEmb d f).devKey = s.devKey := rfl
@[simp] theorem State.modEmb_aon (s : State) (d : Nat) (f : EmbDie → EmbDie) : (s.modEmb d f).aon = s.aon := rfl
@[simp] theorem State.modEmb_early (s : State) (d : Nat) (f : EmbDie → EmbDie) : (s.modEmb d f).early = s.early := rfl
@[simp] theorem State.modEmb_xspiUp (s : State) (d : Nat) (f : EmbDie → EmbDie) : (s.modEmb d f).xspiUp = s.xspiUp := rfl
@[simp] theorem State.modEmb_xspiOctal (s : State) (d : Nat) (f : EmbDie → EmbDie) : (s.modEmb d f).xspiOctal = s.xspiOctal := rfl
@[simp] theorem State.modEmb_imgHeader (s : State) (d : Nat) (f : EmbDie → EmbDie) : (s.modEmb d f).imgHeader = s.imgHeader := rfl
@[simp] theorem State.modEmb_licDigests (s : State) (d : Nat) (f : EmbDie → EmbDie) : (s.modEmb d f).licDigests = s.licDigests := rfl
@[simp] theorem State.modEmb_avsTab (s : State) (d : Nat) (f : EmbDie → EmbDie) : (s.modEmb d f).avsTab = s.avsTab := rfl
@[simp] theorem State.modEmb_flogAt (s : State) (d : Nat) (f : EmbDie → EmbDie) : (s.modEmb d f).flogAt = s.flogAt := rfl
@[simp] theorem State.modEmb_flogChain (s : State) (d : Nat) (f : EmbDie → EmbDie) : (s.modEmb d f).flogChain = s.flogChain := rfl
@[simp] theorem State.modEmb_flogSince (s : State) (d : Nat) (f : EmbDie → EmbDie) : (s.modEmb d f).flogSince = s.flogSince := rfl
@[simp] theorem State.modEmb_flogQueue (s : State) (d : Nat) (f : EmbDie → EmbDie) : (s.modEmb d f).flogQueue = s.flogQueue := rfl
@[simp] theorem State.modEmb_att (s : State) (d : Nat) (f : EmbDie → EmbDie) : (s.modEmb d f).att = s.att := rfl
@[simp] theorem State.modEmb_ingress (s : State) (d : Nat) (f : EmbDie → EmbDie) : (s.modEmb d f).ingress = s.ingress := rfl
@[simp] theorem State.modEmb_jtagIr (s : State) (d : Nat) (f : EmbDie → EmbDie) : (s.modEmb d f).jtagIr = s.jtagIr := rfl
@[simp] theorem State.modEmb_jtagX (s : State) (d : Nat) (f : EmbDie → EmbDie) : (s.modEmb d f).jtagX = s.jtagX := rfl
@[simp] theorem State.modEmb_cells (s : State) (d : Nat) (f : EmbDie → EmbDie) : (s.modEmb d f).cells = s.cells := rfl
@[simp] theorem State.modEmb_outside (s : State) (d : Nat) (f : EmbDie → EmbDie) : (s.modEmb d f).outside = s.outside := rfl
@[simp] theorem State.modEmb_tdo (s : State) (d : Nat) (f : EmbDie → EmbDie) : (s.modEmb d f).tdo = s.tdo := rfl
@[simp] theorem State.modEmb_jtagPins (s : State) (d : Nat) (f : EmbDie → EmbDie) : (s.modEmb d f).jtagPins = s.jtagPins := rfl
@[simp] theorem State.modEmb_startWait (s : State) (d : Nat) (f : EmbDie → EmbDie) : (s.modEmb d f).startWait = s.startWait := rfl
@[simp] theorem State.modJob_pending (s : State) (j : Nat) (f : Job → Job) : (s.modJob j f).pending = s.pending := rfl
@[simp] theorem State.modJob_tiles (s : State) (j : Nat) (f : Job → Job) : (s.modJob j f).tiles = s.tiles := rfl
@[simp] theorem State.modJob_regs (s : State) (j : Nat) (f : Job → Job) : (s.modJob j f).regs = s.regs := rfl
@[simp] theorem State.modJob_latches (s : State) (j : Nat) (f : Job → Job) : (s.modJob j f).latches = s.latches := rfl
@[simp] theorem State.modJob_hbm (s : State) (j : Nat) (f : Job → Job) : (s.modJob j f).hbm = s.hbm := rfl
@[simp] theorem State.modJob_poison (s : State) (j : Nat) (f : Job → Job) : (s.modJob j f).poison = s.poison := rfl
@[simp] theorem State.modJob_upset (s : State) (j : Nat) (f : Job → Job) : (s.modJob j f).upset = s.upset := rfl
@[simp] theorem State.modJob_dirMem (s : State) (j : Nat) (f : Job → Job) : (s.modJob j f).dirMem = s.dirMem := rfl
@[simp] theorem State.modJob_rdata (s : State) (j : Nat) (f : Job → Job) : (s.modJob j f).rdata = s.rdata := rfl
@[simp] theorem State.modJob_unitOut (s : State) (j : Nat) (f : Job → Job) : (s.modJob j f).unitOut = s.unitOut := rfl
@[simp] theorem State.modJob_unitLost (s : State) (j : Nat) (f : Job → Job) : (s.modJob j f).unitLost = s.unitLost := rfl
@[simp] theorem State.modJob_fwdNext (s : State) (j : Nat) (f : Job → Job) : (s.modJob j f).fwdNext = s.fwdNext := rfl
@[simp] theorem State.modJob_freeCount (s : State) (j : Nat) (f : Job → Job) : (s.modJob j f).freeCount = s.freeCount := rfl
@[simp] theorem State.modJob_uptime (s : State) (j : Nat) (f : Job → Job) : (s.modJob j f).uptime = s.uptime := rfl
@[simp] theorem State.modJob_pllLocked (s : State) (j : Nat) (f : Job → Job) : (s.modJob j f).pllLocked = s.pllLocked := rfl
@[simp] theorem State.modJob_events (s : State) (j : Nat) (f : Job → Job) : (s.modJob j f).events = s.events := rfl
@[simp] theorem State.modJob_lost (s : State) (j : Nat) (f : Job → Job) : (s.modJob j f).lost = s.lost := rfl
@[simp] theorem State.modJob_evBuf (s : State) (j : Nat) (f : Job → Job) : (s.modJob j f).evBuf = s.evBuf := rfl
@[simp] theorem State.modJob_ringMapped (s : State) (j : Nat) (f : Job → Job) : (s.modJob j f).ringMapped = s.ringMapped := rfl
@[simp] theorem State.modJob_ringLost (s : State) (j : Nat) (f : Job → Job) : (s.modJob j f).ringLost = s.ringLost := rfl
@[simp] theorem State.modJob_fatal (s : State) (j : Nat) (f : Job → Job) : (s.modJob j f).fatal = s.fatal := rfl
@[simp] theorem State.modJob_ibis (s : State) (j : Nat) (f : Job → Job) : (s.modJob j f).ibis = s.ibis := rfl
@[simp] theorem State.modJob_ibiBusy (s : State) (j : Nat) (f : Job → Job) : (s.modJob j f).ibiBusy = s.ibiBusy := rfl
@[simp] theorem State.modJob_ibiPend (s : State) (j : Nat) (f : Job → Job) : (s.modJob j f).ibiPend = s.ibiPend := rfl
@[simp] theorem State.modJob_alertCause (s : State) (j : Nat) (f : Job → Job) : (s.modJob j f).alertCause = s.alertCause := rfl
@[simp] theorem State.modJob_tempArmed (s : State) (j : Nat) (f : Job → Job) : (s.modJob j f).tempArmed = s.tempArmed := rfl
@[simp] theorem State.modJob_powerArmed (s : State) (j : Nat) (f : Job → Job) : (s.modJob j f).powerArmed = s.powerArmed := rfl
@[simp] theorem State.modJob_i3cOffset (s : State) (j : Nat) (f : Job → Job) : (s.modJob j f).i3cOffset = s.i3cOffset := rfl
@[simp] theorem State.modJob_i3cAddr (s : State) (j : Nat) (f : Job → Job) : (s.modJob j f).i3cAddr = s.i3cAddr := rfl
@[simp] theorem State.modJob_i3cOut (s : State) (j : Nat) (f : Job → Job) : (s.modJob j f).i3cOut = s.i3cOut := rfl
@[simp] theorem State.modJob_embs (s : State) (j : Nat) (f : Job → Job) : (s.modJob j f).embs = s.embs := rfl
@[simp] theorem State.modJob_migDir (s : State) (j : Nat) (f : Job → Job) : (s.modJob j f).migDir = s.migDir := rfl
@[simp] theorem State.modJob_migNext (s : State) (j : Nat) (f : Job → Job) : (s.modJob j f).migNext = s.migNext := rfl
@[simp] theorem State.modJob_migSlots (s : State) (j : Nat) (f : Job → Job) : (s.modJob j f).migSlots = s.migSlots := rfl
@[simp] theorem State.modJob_pushFly (s : State) (j : Nat) (f : Job → Job) : (s.modJob j f).pushFly = s.pushFly := rfl
@[simp] theorem State.modJob_stage (s : State) (j : Nat) (f : Job → Job) : (s.modJob j f).stage = s.stage := rfl
@[simp] theorem State.modJob_cmdPos (s : State) (j : Nat) (f : Job → Job) : (s.modJob j f).cmdPos = s.cmdPos := rfl
@[simp] theorem State.modJob_nextCmd (s : State) (j : Nat) (f : Job → Job) : (s.modJob j f).nextCmd = s.nextCmd := rfl
@[simp] theorem State.modJob_running (s : State) (j : Nat) (f : Job → Job) : (s.modJob j f).running = s.running := rfl
@[simp] theorem State.modJob_deferred (s : State) (j : Nat) (f : Job → Job) : (s.modJob j f).deferred = s.deferred := rfl
@[simp] theorem State.modJob_segFly (s : State) (j : Nat) (f : Job → Job) : (s.modJob j f).segFly = s.segFly := rfl
@[simp] theorem State.modJob_endFly (s : State) (j : Nat) (f : Job → Job) : (s.modJob j f).endFly = s.endFly := rfl
@[simp] theorem State.modJob_segWait (s : State) (j : Nat) (f : Job → Job) : (s.modJob j f).segWait = s.segWait := rfl
@[simp] theorem State.modJob_colls (s : State) (j : Nat) (f : Job → Job) : (s.modJob j f).colls = s.colls := rfl
@[simp] theorem State.modJob_scrubs (s : State) (j : Nat) (f : Job → Job) : (s.modJob j f).scrubs = s.scrubs := rfl
@[simp] theorem State.modJob_loads (s : State) (j : Nat) (f : Job → Job) : (s.modJob j f).loads = s.loads := rfl
@[simp] theorem State.modJob_loader (s : State) (j : Nat) (f : Job → Job) : (s.modJob j f).loader = s.loader := rfl
@[simp] theorem State.modJob_ctxs (s : State) (j : Nat) (f : Job → Job) : (s.modJob j f).ctxs = s.ctxs := rfl
@[simp] theorem State.modJob_ctxCache (s : State) (j : Nat) (f : Job → Job) : (s.modJob j f).ctxCache = s.ctxCache := rfl
@[simp] theorem State.modJob_wire (s : State) (j : Nat) (f : Job → Job) : (s.modJob j f).wire = s.wire := rfl
@[simp] theorem State.modJob_turn (s : State) (j : Nat) (f : Job → Job) : (s.modJob j f).turn = s.turn := rfl
@[simp] theorem State.modJob_pause (s : State) (j : Nat) (f : Job → Job) : (s.modJob j f).pause = s.pause := rfl
@[simp] theorem State.modJob_xoff (s : State) (j : Nat) (f : Job → Job) : (s.modJob j f).xoff = s.xoff := rfl
@[simp] theorem State.modJob_xrDown (s : State) (j : Nat) (f : Job → Job) : (s.modJob j f).xrDown = s.xrDown := rfl
@[simp] theorem State.modJob_anPages (s : State) (j : Nat) (f : Job → Job) : (s.modJob j f).anPages = s.anPages := rfl
@[simp] theorem State.modJob_diagPeer (s : State) (j : Nat) (f : Job → Job) : (s.modJob j f).diagPeer = s.diagPeer := rfl
@[simp] theorem State.modJob_items (s : State) (j : Nat) (f : Job → Job) : (s.modJob j f).items = s.items := rfl
@[simp] theorem State.modJob_nextItem (s : State) (j : Nat) (f : Job → Job) : (s.modJob j f).nextItem = s.nextItem := rfl
@[simp] theorem State.modJob_acceptNo (s : State) (j : Nat) (f : Job → Job) : (s.modJob j f).acceptNo = s.acceptNo := rfl
@[simp] theorem State.modJob_egress (s : State) (j : Nat) (f : Job → Job) : (s.modJob j f).egress = s.egress := rfl
@[simp] theorem State.modJob_delivered (s : State) (j : Nat) (f : Job → Job) : (s.modJob j f).delivered = s.delivered := rfl
@[simp] theorem State.modJob_twinOut (s : State) (j : Nat) (f : Job → Job) : (s.modJob j f).twinOut = s.twinOut := rfl
@[simp] theorem State.modJob_twinFrom (s : State) (j : Nat) (f : Job → Job) : (s.modJob j f).twinFrom = s.twinFrom := rfl
@[simp] theorem State.modJob_td (s : State) (j : Nat) (f : Job → Job) : (s.modJob j f).td = s.td := rfl
@[simp] theorem State.modJob_ad (s : State) (j : Nat) (f : Job → Job) : (s.modJob j f).ad = s.ad := rfl
@[simp] theorem State.modJob_ordNext (s : State) (j : Nat) (f : Job → Job) : (s.modJob j f).ordNext = s.ordNext := rfl
@[simp] theorem State.modJob_takeMsn (s : State) (j : Nat) (f : Job → Job) : (s.modJob j f).takeMsn = s.takeMsn := rfl
@[simp] theorem State.modJob_partnerJoining (s : State) (j : Nat) (f : Job → Job) : (s.modJob j f).partnerJoining = s.partnerJoining := rfl
@[simp] theorem State.modJob_baseline (s : State) (j : Nat) (f : Job → Job) : (s.modJob j f).baseline = s.baseline := rfl
@[simp] theorem State.modJob_peerBaseline (s : State) (j : Nat) (f : Job → Job) : (s.modJob j f).peerBaseline = s.peerBaseline := rfl
@[simp] theorem State.modJob_rejoining (s : State) (j : Nat) (f : Job → Job) : (s.modJob j f).rejoining = s.rejoining := rfl
@[simp] theorem State.modJob_ueSince (s : State) (j : Nat) (f : Job → Job) : (s.modJob j f).ueSince = s.ueSince := rfl
@[simp] theorem State.modJob_journal (s : State) (j : Nat) (f : Job → Job) : (s.modJob j f).journal = s.journal := rfl
@[simp] theorem State.modJob_nextJsn (s : State) (j : Nat) (f : Job → Job) : (s.modJob j f).nextJsn = s.nextJsn := rfl
@[simp] theorem State.modJob_msnTab (s : State) (j : Nat) (f : Job → Job) : (s.modJob j f).msnTab = s.msnTab := rfl
@[simp] theorem State.modJob_nand (s : State) (j : Nat) (f : Job → Job) : (s.modJob j f).nand = s.nand := rfl
@[simp] theorem State.modJob_nandBad (s : State) (j : Nat) (f : Job → Job) : (s.modJob j f).nandBad = s.nandBad := rfl
@[simp] theorem State.modJob_journalValid (s : State) (j : Nat) (f : Job → Job) : (s.modJob j f).journalValid = s.journalValid := rfl
@[simp] theorem State.modJob_flush (s : State) (j : Nat) (f : Job → Job) : (s.modJob j f).flush = s.flush := rfl
@[simp] theorem State.modJob_warmUntil (s : State) (j : Nat) (f : Job → Job) : (s.modJob j f).warmUntil = s.warmUntil := rfl
@[simp] theorem State.modJob_flushAt (s : State) (j : Nat) (f : Job → Job) : (s.modJob j f).flushAt = s.flushAt := rfl
@[simp] theorem State.modJob_onfi (s : State) (j : Nat) (f : Job → Job) : (s.modJob j f).onfi = s.onfi := rfl
@[simp] theorem State.modJob_resetAfter (s : State) (j : Nat) (f : Job → Job) : (s.modJob j f).resetAfter = s.resetAfter := rfl
@[simp] theorem State.modJob_groups (s : State) (j : Nat) (f : Job → Job) : (s.modJob j f).groups = s.groups := rfl
@[simp] theorem State.modJob_avs (s : State) (j : Nat) (f : Job → Job) : (s.modJob j f).avs = s.avs := rfl
@[simp] theorem State.modJob_avsLower (s : State) (j : Nat) (f : Job → Job) : (s.modJob j f).avsLower = s.avsLower := rfl
@[simp] theorem State.modJob_avsOut (s : State) (j : Nat) (f : Job → Job) : (s.modJob j f).avsOut = s.avsOut := rfl
@[simp] theorem State.modJob_avsBad (s : State) (j : Nat) (f : Job → Job) : (s.modJob j f).avsBad = s.avsBad := rfl
@[simp] theorem State.modJob_gated (s : State) (j : Nat) (f : Job → Job) : (s.modJob j f).gated = s.gated := rfl
@[simp] theorem State.modJob_pwrgood (s : State) (j : Nat) (f : Job → Job) : (s.modJob j f).pwrgood = s.pwrgood := rfl
@[simp] theorem State.modJob_resetN (s : State) (j : Nat) (f : Job → Job) : (s.modJob j f).resetN = s.resetN := rfl
@[simp] theorem State.modJob_warmN (s : State) (j : Nat) (f : Job → Job) : (s.modJob j f).warmN = s.warmN := rfl
@[simp] theorem State.modJob_pfailN (s : State) (j : Nat) (f : Job → Job) : (s.modJob j f).pfailN = s.pfailN := rfl
@[simp] theorem State.modJob_ready (s : State) (j : Nat) (f : Job → Job) : (s.modJob j f).ready = s.ready := rfl
@[simp] theorem State.modJob_faultN (s : State) (j : Nat) (f : Job → Job) : (s.modJob j f).faultN = s.faultN := rfl
@[simp] theorem State.modJob_thermN (s : State) (j : Nat) (f : Job → Job) : (s.modJob j f).thermN = s.thermN := rfl
@[simp] theorem State.modJob_flash (s : State) (j : Nat) (f : Job → Job) : (s.modJob j f).flash = s.flash := rfl
@[simp] theorem State.modJob_flashOp (s : State) (j : Nat) (f : Job → Job) : (s.modJob j f).flashOp = s.flashOp := rfl
@[simp] theorem State.modJob_rom (s : State) (j : Nat) (f : Job → Job) : (s.modJob j f).rom = s.rom := rfl
@[simp] theorem State.modJob_devKey (s : State) (j : Nat) (f : Job → Job) : (s.modJob j f).devKey = s.devKey := rfl
@[simp] theorem State.modJob_aon (s : State) (j : Nat) (f : Job → Job) : (s.modJob j f).aon = s.aon := rfl
@[simp] theorem State.modJob_early (s : State) (j : Nat) (f : Job → Job) : (s.modJob j f).early = s.early := rfl
@[simp] theorem State.modJob_xspiUp (s : State) (j : Nat) (f : Job → Job) : (s.modJob j f).xspiUp = s.xspiUp := rfl
@[simp] theorem State.modJob_xspiOctal (s : State) (j : Nat) (f : Job → Job) : (s.modJob j f).xspiOctal = s.xspiOctal := rfl
@[simp] theorem State.modJob_imgHeader (s : State) (j : Nat) (f : Job → Job) : (s.modJob j f).imgHeader = s.imgHeader := rfl
@[simp] theorem State.modJob_licDigests (s : State) (j : Nat) (f : Job → Job) : (s.modJob j f).licDigests = s.licDigests := rfl
@[simp] theorem State.modJob_avsTab (s : State) (j : Nat) (f : Job → Job) : (s.modJob j f).avsTab = s.avsTab := rfl
@[simp] theorem State.modJob_flogAt (s : State) (j : Nat) (f : Job → Job) : (s.modJob j f).flogAt = s.flogAt := rfl
@[simp] theorem State.modJob_flogChain (s : State) (j : Nat) (f : Job → Job) : (s.modJob j f).flogChain = s.flogChain := rfl
@[simp] theorem State.modJob_flogSince (s : State) (j : Nat) (f : Job → Job) : (s.modJob j f).flogSince = s.flogSince := rfl
@[simp] theorem State.modJob_flogQueue (s : State) (j : Nat) (f : Job → Job) : (s.modJob j f).flogQueue = s.flogQueue := rfl
@[simp] theorem State.modJob_att (s : State) (j : Nat) (f : Job → Job) : (s.modJob j f).att = s.att := rfl
@[simp] theorem State.modJob_ingress (s : State) (j : Nat) (f : Job → Job) : (s.modJob j f).ingress = s.ingress := rfl
@[simp] theorem State.modJob_jtagIr (s : State) (j : Nat) (f : Job → Job) : (s.modJob j f).jtagIr = s.jtagIr := rfl
@[simp] theorem State.modJob_jtagX (s : State) (j : Nat) (f : Job → Job) : (s.modJob j f).jtagX = s.jtagX := rfl
@[simp] theorem State.modJob_cells (s : State) (j : Nat) (f : Job → Job) : (s.modJob j f).cells = s.cells := rfl
@[simp] theorem State.modJob_outside (s : State) (j : Nat) (f : Job → Job) : (s.modJob j f).outside = s.outside := rfl
@[simp] theorem State.modJob_tdo (s : State) (j : Nat) (f : Job → Job) : (s.modJob j f).tdo = s.tdo := rfl
@[simp] theorem State.modJob_jtagPins (s : State) (j : Nat) (f : Job → Job) : (s.modJob j f).jtagPins = s.jtagPins := rfl
@[simp] theorem State.modJob_startWait (s : State) (j : Nat) (f : Job → Job) : (s.modJob j f).startWait = s.startWait := rfl
@[simp] theorem State.modCtx_pending (s : State) (c : Nat) (f : Ctx → Ctx) : (s.modCtx c f).pending = s.pending := rfl
@[simp] theorem State.modCtx_tiles (s : State) (c : Nat) (f : Ctx → Ctx) : (s.modCtx c f).tiles = s.tiles := rfl
@[simp] theorem State.modCtx_regs (s : State) (c : Nat) (f : Ctx → Ctx) : (s.modCtx c f).regs = s.regs := rfl
@[simp] theorem State.modCtx_latches (s : State) (c : Nat) (f : Ctx → Ctx) : (s.modCtx c f).latches = s.latches := rfl
@[simp] theorem State.modCtx_hbm (s : State) (c : Nat) (f : Ctx → Ctx) : (s.modCtx c f).hbm = s.hbm := rfl
@[simp] theorem State.modCtx_poison (s : State) (c : Nat) (f : Ctx → Ctx) : (s.modCtx c f).poison = s.poison := rfl
@[simp] theorem State.modCtx_upset (s : State) (c : Nat) (f : Ctx → Ctx) : (s.modCtx c f).upset = s.upset := rfl
@[simp] theorem State.modCtx_dirMem (s : State) (c : Nat) (f : Ctx → Ctx) : (s.modCtx c f).dirMem = s.dirMem := rfl
@[simp] theorem State.modCtx_rdata (s : State) (c : Nat) (f : Ctx → Ctx) : (s.modCtx c f).rdata = s.rdata := rfl
@[simp] theorem State.modCtx_unitOut (s : State) (c : Nat) (f : Ctx → Ctx) : (s.modCtx c f).unitOut = s.unitOut := rfl
@[simp] theorem State.modCtx_unitLost (s : State) (c : Nat) (f : Ctx → Ctx) : (s.modCtx c f).unitLost = s.unitLost := rfl
@[simp] theorem State.modCtx_fwdNext (s : State) (c : Nat) (f : Ctx → Ctx) : (s.modCtx c f).fwdNext = s.fwdNext := rfl
@[simp] theorem State.modCtx_freeCount (s : State) (c : Nat) (f : Ctx → Ctx) : (s.modCtx c f).freeCount = s.freeCount := rfl
@[simp] theorem State.modCtx_uptime (s : State) (c : Nat) (f : Ctx → Ctx) : (s.modCtx c f).uptime = s.uptime := rfl
@[simp] theorem State.modCtx_pllLocked (s : State) (c : Nat) (f : Ctx → Ctx) : (s.modCtx c f).pllLocked = s.pllLocked := rfl
@[simp] theorem State.modCtx_events (s : State) (c : Nat) (f : Ctx → Ctx) : (s.modCtx c f).events = s.events := rfl
@[simp] theorem State.modCtx_lost (s : State) (c : Nat) (f : Ctx → Ctx) : (s.modCtx c f).lost = s.lost := rfl
@[simp] theorem State.modCtx_evBuf (s : State) (c : Nat) (f : Ctx → Ctx) : (s.modCtx c f).evBuf = s.evBuf := rfl
@[simp] theorem State.modCtx_ringMapped (s : State) (c : Nat) (f : Ctx → Ctx) : (s.modCtx c f).ringMapped = s.ringMapped := rfl
@[simp] theorem State.modCtx_ringLost (s : State) (c : Nat) (f : Ctx → Ctx) : (s.modCtx c f).ringLost = s.ringLost := rfl
@[simp] theorem State.modCtx_fatal (s : State) (c : Nat) (f : Ctx → Ctx) : (s.modCtx c f).fatal = s.fatal := rfl
@[simp] theorem State.modCtx_ibis (s : State) (c : Nat) (f : Ctx → Ctx) : (s.modCtx c f).ibis = s.ibis := rfl
@[simp] theorem State.modCtx_ibiBusy (s : State) (c : Nat) (f : Ctx → Ctx) : (s.modCtx c f).ibiBusy = s.ibiBusy := rfl
@[simp] theorem State.modCtx_ibiPend (s : State) (c : Nat) (f : Ctx → Ctx) : (s.modCtx c f).ibiPend = s.ibiPend := rfl
@[simp] theorem State.modCtx_alertCause (s : State) (c : Nat) (f : Ctx → Ctx) : (s.modCtx c f).alertCause = s.alertCause := rfl
@[simp] theorem State.modCtx_tempArmed (s : State) (c : Nat) (f : Ctx → Ctx) : (s.modCtx c f).tempArmed = s.tempArmed := rfl
@[simp] theorem State.modCtx_powerArmed (s : State) (c : Nat) (f : Ctx → Ctx) : (s.modCtx c f).powerArmed = s.powerArmed := rfl
@[simp] theorem State.modCtx_i3cOffset (s : State) (c : Nat) (f : Ctx → Ctx) : (s.modCtx c f).i3cOffset = s.i3cOffset := rfl
@[simp] theorem State.modCtx_i3cAddr (s : State) (c : Nat) (f : Ctx → Ctx) : (s.modCtx c f).i3cAddr = s.i3cAddr := rfl
@[simp] theorem State.modCtx_i3cOut (s : State) (c : Nat) (f : Ctx → Ctx) : (s.modCtx c f).i3cOut = s.i3cOut := rfl
@[simp] theorem State.modCtx_embs (s : State) (c : Nat) (f : Ctx → Ctx) : (s.modCtx c f).embs = s.embs := rfl
@[simp] theorem State.modCtx_migDir (s : State) (c : Nat) (f : Ctx → Ctx) : (s.modCtx c f).migDir = s.migDir := rfl
@[simp] theorem State.modCtx_migNext (s : State) (c : Nat) (f : Ctx → Ctx) : (s.modCtx c f).migNext = s.migNext := rfl
@[simp] theorem State.modCtx_migSlots (s : State) (c : Nat) (f : Ctx → Ctx) : (s.modCtx c f).migSlots = s.migSlots := rfl
@[simp] theorem State.modCtx_pushFly (s : State) (c : Nat) (f : Ctx → Ctx) : (s.modCtx c f).pushFly = s.pushFly := rfl
@[simp] theorem State.modCtx_stage (s : State) (c : Nat) (f : Ctx → Ctx) : (s.modCtx c f).stage = s.stage := rfl
@[simp] theorem State.modCtx_jobs (s : State) (c : Nat) (f : Ctx → Ctx) : (s.modCtx c f).jobs = s.jobs := rfl
@[simp] theorem State.modCtx_cmdPos (s : State) (c : Nat) (f : Ctx → Ctx) : (s.modCtx c f).cmdPos = s.cmdPos := rfl
@[simp] theorem State.modCtx_nextCmd (s : State) (c : Nat) (f : Ctx → Ctx) : (s.modCtx c f).nextCmd = s.nextCmd := rfl
@[simp] theorem State.modCtx_running (s : State) (c : Nat) (f : Ctx → Ctx) : (s.modCtx c f).running = s.running := rfl
@[simp] theorem State.modCtx_deferred (s : State) (c : Nat) (f : Ctx → Ctx) : (s.modCtx c f).deferred = s.deferred := rfl
@[simp] theorem State.modCtx_segFly (s : State) (c : Nat) (f : Ctx → Ctx) : (s.modCtx c f).segFly = s.segFly := rfl
@[simp] theorem State.modCtx_endFly (s : State) (c : Nat) (f : Ctx → Ctx) : (s.modCtx c f).endFly = s.endFly := rfl
@[simp] theorem State.modCtx_segWait (s : State) (c : Nat) (f : Ctx → Ctx) : (s.modCtx c f).segWait = s.segWait := rfl
@[simp] theorem State.modCtx_colls (s : State) (c : Nat) (f : Ctx → Ctx) : (s.modCtx c f).colls = s.colls := rfl
@[simp] theorem State.modCtx_scrubs (s : State) (c : Nat) (f : Ctx → Ctx) : (s.modCtx c f).scrubs = s.scrubs := rfl
@[simp] theorem State.modCtx_loads (s : State) (c : Nat) (f : Ctx → Ctx) : (s.modCtx c f).loads = s.loads := rfl
@[simp] theorem State.modCtx_loader (s : State) (c : Nat) (f : Ctx → Ctx) : (s.modCtx c f).loader = s.loader := rfl
@[simp] theorem State.modCtx_ctxCache (s : State) (c : Nat) (f : Ctx → Ctx) : (s.modCtx c f).ctxCache = s.ctxCache := rfl
@[simp] theorem State.modCtx_wire (s : State) (c : Nat) (f : Ctx → Ctx) : (s.modCtx c f).wire = s.wire := rfl
@[simp] theorem State.modCtx_turn (s : State) (c : Nat) (f : Ctx → Ctx) : (s.modCtx c f).turn = s.turn := rfl
@[simp] theorem State.modCtx_pause (s : State) (c : Nat) (f : Ctx → Ctx) : (s.modCtx c f).pause = s.pause := rfl
@[simp] theorem State.modCtx_xoff (s : State) (c : Nat) (f : Ctx → Ctx) : (s.modCtx c f).xoff = s.xoff := rfl
@[simp] theorem State.modCtx_xrDown (s : State) (c : Nat) (f : Ctx → Ctx) : (s.modCtx c f).xrDown = s.xrDown := rfl
@[simp] theorem State.modCtx_anPages (s : State) (c : Nat) (f : Ctx → Ctx) : (s.modCtx c f).anPages = s.anPages := rfl
@[simp] theorem State.modCtx_diagPeer (s : State) (c : Nat) (f : Ctx → Ctx) : (s.modCtx c f).diagPeer = s.diagPeer := rfl
@[simp] theorem State.modCtx_items (s : State) (c : Nat) (f : Ctx → Ctx) : (s.modCtx c f).items = s.items := rfl
@[simp] theorem State.modCtx_nextItem (s : State) (c : Nat) (f : Ctx → Ctx) : (s.modCtx c f).nextItem = s.nextItem := rfl
@[simp] theorem State.modCtx_acceptNo (s : State) (c : Nat) (f : Ctx → Ctx) : (s.modCtx c f).acceptNo = s.acceptNo := rfl
@[simp] theorem State.modCtx_egress (s : State) (c : Nat) (f : Ctx → Ctx) : (s.modCtx c f).egress = s.egress := rfl
@[simp] theorem State.modCtx_delivered (s : State) (c : Nat) (f : Ctx → Ctx) : (s.modCtx c f).delivered = s.delivered := rfl
@[simp] theorem State.modCtx_twinOut (s : State) (c : Nat) (f : Ctx → Ctx) : (s.modCtx c f).twinOut = s.twinOut := rfl
@[simp] theorem State.modCtx_twinFrom (s : State) (c : Nat) (f : Ctx → Ctx) : (s.modCtx c f).twinFrom = s.twinFrom := rfl
@[simp] theorem State.modCtx_td (s : State) (c : Nat) (f : Ctx → Ctx) : (s.modCtx c f).td = s.td := rfl
@[simp] theorem State.modCtx_ad (s : State) (c : Nat) (f : Ctx → Ctx) : (s.modCtx c f).ad = s.ad := rfl
@[simp] theorem State.modCtx_ordNext (s : State) (c : Nat) (f : Ctx → Ctx) : (s.modCtx c f).ordNext = s.ordNext := rfl
@[simp] theorem State.modCtx_takeMsn (s : State) (c : Nat) (f : Ctx → Ctx) : (s.modCtx c f).takeMsn = s.takeMsn := rfl
@[simp] theorem State.modCtx_partnerJoining (s : State) (c : Nat) (f : Ctx → Ctx) : (s.modCtx c f).partnerJoining = s.partnerJoining := rfl
@[simp] theorem State.modCtx_baseline (s : State) (c : Nat) (f : Ctx → Ctx) : (s.modCtx c f).baseline = s.baseline := rfl
@[simp] theorem State.modCtx_peerBaseline (s : State) (c : Nat) (f : Ctx → Ctx) : (s.modCtx c f).peerBaseline = s.peerBaseline := rfl
@[simp] theorem State.modCtx_rejoining (s : State) (c : Nat) (f : Ctx → Ctx) : (s.modCtx c f).rejoining = s.rejoining := rfl
@[simp] theorem State.modCtx_ueSince (s : State) (c : Nat) (f : Ctx → Ctx) : (s.modCtx c f).ueSince = s.ueSince := rfl
@[simp] theorem State.modCtx_journal (s : State) (c : Nat) (f : Ctx → Ctx) : (s.modCtx c f).journal = s.journal := rfl
@[simp] theorem State.modCtx_nextJsn (s : State) (c : Nat) (f : Ctx → Ctx) : (s.modCtx c f).nextJsn = s.nextJsn := rfl
@[simp] theorem State.modCtx_msnTab (s : State) (c : Nat) (f : Ctx → Ctx) : (s.modCtx c f).msnTab = s.msnTab := rfl
@[simp] theorem State.modCtx_nand (s : State) (c : Nat) (f : Ctx → Ctx) : (s.modCtx c f).nand = s.nand := rfl
@[simp] theorem State.modCtx_nandBad (s : State) (c : Nat) (f : Ctx → Ctx) : (s.modCtx c f).nandBad = s.nandBad := rfl
@[simp] theorem State.modCtx_journalValid (s : State) (c : Nat) (f : Ctx → Ctx) : (s.modCtx c f).journalValid = s.journalValid := rfl
@[simp] theorem State.modCtx_flush (s : State) (c : Nat) (f : Ctx → Ctx) : (s.modCtx c f).flush = s.flush := rfl
@[simp] theorem State.modCtx_warmUntil (s : State) (c : Nat) (f : Ctx → Ctx) : (s.modCtx c f).warmUntil = s.warmUntil := rfl
@[simp] theorem State.modCtx_flushAt (s : State) (c : Nat) (f : Ctx → Ctx) : (s.modCtx c f).flushAt = s.flushAt := rfl
@[simp] theorem State.modCtx_onfi (s : State) (c : Nat) (f : Ctx → Ctx) : (s.modCtx c f).onfi = s.onfi := rfl
@[simp] theorem State.modCtx_resetAfter (s : State) (c : Nat) (f : Ctx → Ctx) : (s.modCtx c f).resetAfter = s.resetAfter := rfl
@[simp] theorem State.modCtx_groups (s : State) (c : Nat) (f : Ctx → Ctx) : (s.modCtx c f).groups = s.groups := rfl
@[simp] theorem State.modCtx_avs (s : State) (c : Nat) (f : Ctx → Ctx) : (s.modCtx c f).avs = s.avs := rfl
@[simp] theorem State.modCtx_avsLower (s : State) (c : Nat) (f : Ctx → Ctx) : (s.modCtx c f).avsLower = s.avsLower := rfl
@[simp] theorem State.modCtx_avsOut (s : State) (c : Nat) (f : Ctx → Ctx) : (s.modCtx c f).avsOut = s.avsOut := rfl
@[simp] theorem State.modCtx_avsBad (s : State) (c : Nat) (f : Ctx → Ctx) : (s.modCtx c f).avsBad = s.avsBad := rfl
@[simp] theorem State.modCtx_gated (s : State) (c : Nat) (f : Ctx → Ctx) : (s.modCtx c f).gated = s.gated := rfl
@[simp] theorem State.modCtx_pwrgood (s : State) (c : Nat) (f : Ctx → Ctx) : (s.modCtx c f).pwrgood = s.pwrgood := rfl
@[simp] theorem State.modCtx_resetN (s : State) (c : Nat) (f : Ctx → Ctx) : (s.modCtx c f).resetN = s.resetN := rfl
@[simp] theorem State.modCtx_warmN (s : State) (c : Nat) (f : Ctx → Ctx) : (s.modCtx c f).warmN = s.warmN := rfl
@[simp] theorem State.modCtx_pfailN (s : State) (c : Nat) (f : Ctx → Ctx) : (s.modCtx c f).pfailN = s.pfailN := rfl
@[simp] theorem State.modCtx_ready (s : State) (c : Nat) (f : Ctx → Ctx) : (s.modCtx c f).ready = s.ready := rfl
@[simp] theorem State.modCtx_faultN (s : State) (c : Nat) (f : Ctx → Ctx) : (s.modCtx c f).faultN = s.faultN := rfl
@[simp] theorem State.modCtx_thermN (s : State) (c : Nat) (f : Ctx → Ctx) : (s.modCtx c f).thermN = s.thermN := rfl
@[simp] theorem State.modCtx_flash (s : State) (c : Nat) (f : Ctx → Ctx) : (s.modCtx c f).flash = s.flash := rfl
@[simp] theorem State.modCtx_flashOp (s : State) (c : Nat) (f : Ctx → Ctx) : (s.modCtx c f).flashOp = s.flashOp := rfl
@[simp] theorem State.modCtx_rom (s : State) (c : Nat) (f : Ctx → Ctx) : (s.modCtx c f).rom = s.rom := rfl
@[simp] theorem State.modCtx_devKey (s : State) (c : Nat) (f : Ctx → Ctx) : (s.modCtx c f).devKey = s.devKey := rfl
@[simp] theorem State.modCtx_aon (s : State) (c : Nat) (f : Ctx → Ctx) : (s.modCtx c f).aon = s.aon := rfl
@[simp] theorem State.modCtx_early (s : State) (c : Nat) (f : Ctx → Ctx) : (s.modCtx c f).early = s.early := rfl
@[simp] theorem State.modCtx_xspiUp (s : State) (c : Nat) (f : Ctx → Ctx) : (s.modCtx c f).xspiUp = s.xspiUp := rfl
@[simp] theorem State.modCtx_xspiOctal (s : State) (c : Nat) (f : Ctx → Ctx) : (s.modCtx c f).xspiOctal = s.xspiOctal := rfl
@[simp] theorem State.modCtx_imgHeader (s : State) (c : Nat) (f : Ctx → Ctx) : (s.modCtx c f).imgHeader = s.imgHeader := rfl
@[simp] theorem State.modCtx_licDigests (s : State) (c : Nat) (f : Ctx → Ctx) : (s.modCtx c f).licDigests = s.licDigests := rfl
@[simp] theorem State.modCtx_avsTab (s : State) (c : Nat) (f : Ctx → Ctx) : (s.modCtx c f).avsTab = s.avsTab := rfl
@[simp] theorem State.modCtx_flogAt (s : State) (c : Nat) (f : Ctx → Ctx) : (s.modCtx c f).flogAt = s.flogAt := rfl
@[simp] theorem State.modCtx_flogChain (s : State) (c : Nat) (f : Ctx → Ctx) : (s.modCtx c f).flogChain = s.flogChain := rfl
@[simp] theorem State.modCtx_flogSince (s : State) (c : Nat) (f : Ctx → Ctx) : (s.modCtx c f).flogSince = s.flogSince := rfl
@[simp] theorem State.modCtx_flogQueue (s : State) (c : Nat) (f : Ctx → Ctx) : (s.modCtx c f).flogQueue = s.flogQueue := rfl
@[simp] theorem State.modCtx_att (s : State) (c : Nat) (f : Ctx → Ctx) : (s.modCtx c f).att = s.att := rfl
@[simp] theorem State.modCtx_ingress (s : State) (c : Nat) (f : Ctx → Ctx) : (s.modCtx c f).ingress = s.ingress := rfl
@[simp] theorem State.modCtx_jtagIr (s : State) (c : Nat) (f : Ctx → Ctx) : (s.modCtx c f).jtagIr = s.jtagIr := rfl
@[simp] theorem State.modCtx_jtagX (s : State) (c : Nat) (f : Ctx → Ctx) : (s.modCtx c f).jtagX = s.jtagX := rfl
@[simp] theorem State.modCtx_cells (s : State) (c : Nat) (f : Ctx → Ctx) : (s.modCtx c f).cells = s.cells := rfl
@[simp] theorem State.modCtx_outside (s : State) (c : Nat) (f : Ctx → Ctx) : (s.modCtx c f).outside = s.outside := rfl
@[simp] theorem State.modCtx_tdo (s : State) (c : Nat) (f : Ctx → Ctx) : (s.modCtx c f).tdo = s.tdo := rfl
@[simp] theorem State.modCtx_jtagPins (s : State) (c : Nat) (f : Ctx → Ctx) : (s.modCtx c f).jtagPins = s.jtagPins := rfl
@[simp] theorem State.modCtx_startWait (s : State) (c : Nat) (f : Ctx → Ctx) : (s.modCtx c f).startWait = s.startWait := rfl
@[simp] theorem State.during_pending (s t : State) : (s.during t).pending = s.pending := rfl
@[simp] theorem State.during_tiles (s t : State) : (s.during t).tiles = t.tiles := rfl
@[simp] theorem State.during_regs (s t : State) : (s.during t).regs = t.regs := rfl
@[simp] theorem State.during_latches (s t : State) : (s.during t).latches = t.latches := rfl
@[simp] theorem State.during_hbm (s t : State) : (s.during t).hbm = t.hbm := rfl
@[simp] theorem State.during_poison (s t : State) : (s.during t).poison = t.poison := rfl
@[simp] theorem State.during_upset (s t : State) : (s.during t).upset = t.upset := rfl
@[simp] theorem State.during_dirMem (s t : State) : (s.during t).dirMem = t.dirMem := rfl
@[simp] theorem State.during_rdata (s t : State) : (s.during t).rdata = t.rdata := rfl
@[simp] theorem State.during_unitOut (s t : State) : (s.during t).unitOut = t.unitOut := rfl
@[simp] theorem State.during_unitLost (s t : State) : (s.during t).unitLost = t.unitLost := rfl
@[simp] theorem State.during_fwdNext (s t : State) : (s.during t).fwdNext = t.fwdNext := rfl
@[simp] theorem State.during_freeCount (s t : State) : (s.during t).freeCount = t.freeCount := rfl
@[simp] theorem State.during_uptime (s t : State) : (s.during t).uptime = s.uptime := rfl
@[simp] theorem State.during_pllLocked (s t : State) : (s.during t).pllLocked = s.pllLocked := rfl
@[simp] theorem State.during_events (s t : State) : (s.during t).events = t.events := rfl
@[simp] theorem State.during_lost (s t : State) : (s.during t).lost = t.lost := rfl
@[simp] theorem State.during_evBuf (s t : State) : (s.during t).evBuf = t.evBuf := rfl
@[simp] theorem State.during_ringMapped (s t : State) : (s.during t).ringMapped = t.ringMapped := rfl
@[simp] theorem State.during_ringLost (s t : State) : (s.during t).ringLost = t.ringLost := rfl
@[simp] theorem State.during_fatal (s t : State) : (s.during t).fatal = t.fatal := rfl
@[simp] theorem State.during_ibis (s t : State) : (s.during t).ibis = t.ibis := rfl
@[simp] theorem State.during_ibiBusy (s t : State) : (s.during t).ibiBusy = t.ibiBusy := rfl
@[simp] theorem State.during_ibiPend (s t : State) : (s.during t).ibiPend = t.ibiPend := rfl
@[simp] theorem State.during_alertCause (s t : State) : (s.during t).alertCause = t.alertCause := rfl
@[simp] theorem State.during_tempArmed (s t : State) : (s.during t).tempArmed = t.tempArmed := rfl
@[simp] theorem State.during_powerArmed (s t : State) : (s.during t).powerArmed = t.powerArmed := rfl
@[simp] theorem State.during_i3cOffset (s t : State) : (s.during t).i3cOffset = t.i3cOffset := rfl
@[simp] theorem State.during_i3cAddr (s t : State) : (s.during t).i3cAddr = t.i3cAddr := rfl
@[simp] theorem State.during_i3cOut (s t : State) : (s.during t).i3cOut = t.i3cOut := rfl
@[simp] theorem State.during_embs (s t : State) : (s.during t).embs = t.embs := rfl
@[simp] theorem State.during_migDir (s t : State) : (s.during t).migDir = t.migDir := rfl
@[simp] theorem State.during_migNext (s t : State) : (s.during t).migNext = t.migNext := rfl
@[simp] theorem State.during_migSlots (s t : State) : (s.during t).migSlots = t.migSlots := rfl
@[simp] theorem State.during_pushFly (s t : State) : (s.during t).pushFly = t.pushFly := rfl
@[simp] theorem State.during_stage (s t : State) : (s.during t).stage = t.stage := rfl
@[simp] theorem State.during_jobs (s t : State) : (s.during t).jobs = t.jobs := rfl
@[simp] theorem State.during_cmdPos (s t : State) : (s.during t).cmdPos = t.cmdPos := rfl
@[simp] theorem State.during_nextCmd (s t : State) : (s.during t).nextCmd = t.nextCmd := rfl
@[simp] theorem State.during_running (s t : State) : (s.during t).running = t.running := rfl
@[simp] theorem State.during_deferred (s t : State) : (s.during t).deferred = t.deferred := rfl
@[simp] theorem State.during_segFly (s t : State) : (s.during t).segFly = t.segFly := rfl
@[simp] theorem State.during_endFly (s t : State) : (s.during t).endFly = t.endFly := rfl
@[simp] theorem State.during_segWait (s t : State) : (s.during t).segWait = t.segWait := rfl
@[simp] theorem State.during_colls (s t : State) : (s.during t).colls = t.colls := rfl
@[simp] theorem State.during_scrubs (s t : State) : (s.during t).scrubs = t.scrubs := rfl
@[simp] theorem State.during_loads (s t : State) : (s.during t).loads = t.loads := rfl
@[simp] theorem State.during_loader (s t : State) : (s.during t).loader = t.loader := rfl
@[simp] theorem State.during_ctxs (s t : State) : (s.during t).ctxs = t.ctxs := rfl
@[simp] theorem State.during_ctxCache (s t : State) : (s.during t).ctxCache = t.ctxCache := rfl
@[simp] theorem State.during_wire (s t : State) : (s.during t).wire = t.wire := rfl
@[simp] theorem State.during_turn (s t : State) : (s.during t).turn = t.turn := rfl
@[simp] theorem State.during_pause (s t : State) : (s.during t).pause = t.pause := rfl
@[simp] theorem State.during_xoff (s t : State) : (s.during t).xoff = t.xoff := rfl
@[simp] theorem State.during_xrDown (s t : State) : (s.during t).xrDown = t.xrDown := rfl
@[simp] theorem State.during_anPages (s t : State) : (s.during t).anPages = t.anPages := rfl
@[simp] theorem State.during_diagPeer (s t : State) : (s.during t).diagPeer = t.diagPeer := rfl
@[simp] theorem State.during_items (s t : State) : (s.during t).items = t.items := rfl
@[simp] theorem State.during_nextItem (s t : State) : (s.during t).nextItem = t.nextItem := rfl
@[simp] theorem State.during_acceptNo (s t : State) : (s.during t).acceptNo = t.acceptNo := rfl
@[simp] theorem State.during_egress (s t : State) : (s.during t).egress = t.egress := rfl
@[simp] theorem State.during_delivered (s t : State) : (s.during t).delivered = t.delivered := rfl
@[simp] theorem State.during_twinOut (s t : State) : (s.during t).twinOut = t.twinOut := rfl
@[simp] theorem State.during_twinFrom (s t : State) : (s.during t).twinFrom = t.twinFrom := rfl
@[simp] theorem State.during_td (s t : State) : (s.during t).td = t.td := rfl
@[simp] theorem State.during_ad (s t : State) : (s.during t).ad = t.ad := rfl
@[simp] theorem State.during_ordNext (s t : State) : (s.during t).ordNext = t.ordNext := rfl
@[simp] theorem State.during_takeMsn (s t : State) : (s.during t).takeMsn = t.takeMsn := rfl
@[simp] theorem State.during_partnerJoining (s t : State) : (s.during t).partnerJoining = t.partnerJoining := rfl
@[simp] theorem State.during_baseline (s t : State) : (s.during t).baseline = t.baseline := rfl
@[simp] theorem State.during_peerBaseline (s t : State) : (s.during t).peerBaseline = t.peerBaseline := rfl
@[simp] theorem State.during_rejoining (s t : State) : (s.during t).rejoining = t.rejoining := rfl
@[simp] theorem State.during_ueSince (s t : State) : (s.during t).ueSince = t.ueSince := rfl
@[simp] theorem State.during_journal (s t : State) : (s.during t).journal = t.journal := rfl
@[simp] theorem State.during_nextJsn (s t : State) : (s.during t).nextJsn = t.nextJsn := rfl
@[simp] theorem State.during_msnTab (s t : State) : (s.during t).msnTab = t.msnTab := rfl
@[simp] theorem State.during_nand (s t : State) : (s.during t).nand = t.nand := rfl
@[simp] theorem State.during_nandBad (s t : State) : (s.during t).nandBad = t.nandBad := rfl
@[simp] theorem State.during_journalValid (s t : State) : (s.during t).journalValid = t.journalValid := rfl
@[simp] theorem State.during_flush (s t : State) : (s.during t).flush = t.flush := rfl
@[simp] theorem State.during_warmUntil (s t : State) : (s.during t).warmUntil = t.warmUntil := rfl
@[simp] theorem State.during_flushAt (s t : State) : (s.during t).flushAt = t.flushAt := rfl
@[simp] theorem State.during_onfi (s t : State) : (s.during t).onfi = t.onfi := rfl
@[simp] theorem State.during_resetAfter (s t : State) : (s.during t).resetAfter = t.resetAfter := rfl
@[simp] theorem State.during_groups (s t : State) : (s.during t).groups = t.groups := rfl
@[simp] theorem State.during_avs (s t : State) : (s.during t).avs = t.avs := rfl
@[simp] theorem State.during_avsLower (s t : State) : (s.during t).avsLower = t.avsLower := rfl
@[simp] theorem State.during_avsOut (s t : State) : (s.during t).avsOut = t.avsOut := rfl
@[simp] theorem State.during_avsBad (s t : State) : (s.during t).avsBad = t.avsBad := rfl
@[simp] theorem State.during_gated (s t : State) : (s.during t).gated = t.gated := rfl
@[simp] theorem State.during_pwrgood (s t : State) : (s.during t).pwrgood = s.pwrgood := rfl
@[simp] theorem State.during_resetN (s t : State) : (s.during t).resetN = t.resetN := rfl
@[simp] theorem State.during_warmN (s t : State) : (s.during t).warmN = t.warmN := rfl
@[simp] theorem State.during_pfailN (s t : State) : (s.during t).pfailN = t.pfailN := rfl
@[simp] theorem State.during_ready (s t : State) : (s.during t).ready = t.ready := rfl
@[simp] theorem State.during_faultN (s t : State) : (s.during t).faultN = t.faultN := rfl
@[simp] theorem State.during_thermN (s t : State) : (s.during t).thermN = t.thermN := rfl
@[simp] theorem State.during_flash (s t : State) : (s.during t).flash = t.flash := rfl
@[simp] theorem State.during_flashOp (s t : State) : (s.during t).flashOp = t.flashOp := rfl
@[simp] theorem State.during_rom (s t : State) : (s.during t).rom = s.rom := rfl
@[simp] theorem State.during_devKey (s t : State) : (s.during t).devKey = t.devKey := rfl
@[simp] theorem State.during_aon (s t : State) : (s.during t).aon = t.aon := rfl
@[simp] theorem State.during_early (s t : State) : (s.during t).early = t.early := rfl
@[simp] theorem State.during_xspiUp (s t : State) : (s.during t).xspiUp = t.xspiUp := rfl
@[simp] theorem State.during_xspiOctal (s t : State) : (s.during t).xspiOctal = t.xspiOctal := rfl
@[simp] theorem State.during_imgHeader (s t : State) : (s.during t).imgHeader = t.imgHeader := rfl
@[simp] theorem State.during_licDigests (s t : State) : (s.during t).licDigests = t.licDigests := rfl
@[simp] theorem State.during_avsTab (s t : State) : (s.during t).avsTab = t.avsTab := rfl
@[simp] theorem State.during_flogAt (s t : State) : (s.during t).flogAt = t.flogAt := rfl
@[simp] theorem State.during_flogChain (s t : State) : (s.during t).flogChain = t.flogChain := rfl
@[simp] theorem State.during_flogSince (s t : State) : (s.during t).flogSince = t.flogSince := rfl
@[simp] theorem State.during_flogQueue (s t : State) : (s.during t).flogQueue = t.flogQueue := rfl
@[simp] theorem State.during_att (s t : State) : (s.during t).att = t.att := rfl
@[simp] theorem State.during_ingress (s t : State) : (s.during t).ingress = t.ingress := rfl
@[simp] theorem State.during_jtagIr (s t : State) : (s.during t).jtagIr = t.jtagIr := rfl
@[simp] theorem State.during_jtagX (s t : State) : (s.during t).jtagX = t.jtagX := rfl
@[simp] theorem State.during_cells (s t : State) : (s.during t).cells = t.cells := rfl
@[simp] theorem State.during_outside (s t : State) : (s.during t).outside = t.outside := rfl
@[simp] theorem State.during_tdo (s t : State) : (s.during t).tdo = t.tdo := rfl
@[simp] theorem State.during_jtagPins (s t : State) : (s.during t).jtagPins = t.jtagPins := rfl
@[simp] theorem State.during_startWait (s t : State) : (s.during t).startWait = t.startWait := rfl
@[simp] theorem Tile.setSlot_tokens (T : Tile) (k : Nat) (x : Slot) : (T.setSlot k x).tokens = T.tokens := rfl
@[simp] theorem Tile.setSlot_tokenOvf (T : Tile) (k : Nat) (x : Slot) : (T.setSlot k x).tokenOvf = T.tokenOvf := rfl
@[simp] theorem Tile.setSlot_quantum (T : Tile) (k : Nat) (x : Slot) : (T.setSlot k x).quantum = T.quantum := rfl
@[simp] theorem Tile.setSlot_cycles (T : Tile) (k : Nat) (x : Slot) : (T.setSlot k x).cycles = T.cycles := rfl
@[simp] theorem Tile.setSlot_cycFrac (T : Tile) (k : Nat) (x : Slot) : (T.setSlot k x).cycFrac = T.cycFrac := rfl
@[simp] theorem Tile.setSlot_progress (T : Tile) (k : Nat) (x : Slot) : (T.setSlot k x).progress = T.progress := rfl
@[simp] theorem Tile.setSlot_sendRetry (T : Tile) (k : Nat) (x : Slot) : (T.setSlot k x).sendRetry = T.sendRetry := rfl
@[simp] theorem Tile.setSlot_group (T : Tile) (k : Nat) (x : Slot) : (T.setSlot k x).group = T.group := rfl
@[simp] theorem Tile.setSlot_lag (T : Tile) (k : Nat) (x : Slot) : (T.setSlot k x).lag = T.lag := rfl
@[simp] theorem Tile.setSlot_last (T : Tile) (k : Nat) (x : Slot) : (T.setSlot k x).last = T.last := rfl
@[simp] theorem Tile.setSlot_run (T : Tile) (k : Nat) (x : Slot) : (T.setSlot k x).run = T.run := rfl
@[simp] theorem Tile.setSlot_hot (T : Tile) (k : Nat) (x : Slot) : (T.setSlot k x).hot = T.hot := rfl
@[simp] theorem Tile.setSlot_yielded (T : Tile) (k : Nat) (x : Slot) : (T.setSlot k x).yielded = T.yielded := rfl
@[simp] theorem Tile.setSlot_imgState (T : Tile) (k : Nat) (x : Slot) : (T.setSlot k x).imgState = T.imgState := rfl
@[simp] theorem Tile.setSlot_loadId (T : Tile) (k : Nat) (x : Slot) : (T.setSlot k x).loadId = T.loadId := rfl
@[simp] theorem Tile.setSlot_imgRound (T : Tile) (k : Nat) (x : Slot) : (T.setSlot k x).imgRound = T.imgRound := rfl
@[simp] theorem Tile.setSlot_chunks (T : Tile) (k : Nat) (x : Slot) : (T.setSlot k x).chunks = T.chunks := rfl
@[simp] theorem Tile.setSlot_chunk0 (T : Tile) (k : Nat) (x : Slot) : (T.setSlot k x).chunk0 = T.chunk0 := rfl
@[simp] theorem Tile.setSlot_sealed (T : Tile) (k : Nat) (x : Slot) : (T.setSlot k x).sealed = T.sealed := rfl
@[simp] theorem Tile.setSlot_reply (T : Tile) (k : Nat) (x : Slot) : (T.setSlot k x).reply = T.reply := rfl
@[simp] theorem Tile.setSlot_lagPrev (T : Tile) (k : Nat) (x : Slot) : (T.setSlot k x).lagPrev = T.lagPrev := rfl
@[simp] theorem Tile.setSlot_lagCount (T : Tile) (k : Nat) (x : Slot) : (T.setSlot k x).lagCount = T.lagCount := rfl
@[simp] theorem Tile.setSlot_mboxTok (T : Tile) (k : Nat) (x : Slot) : (T.setSlot k x).mboxTok = T.mboxTok := rfl
@[simp] theorem Tile.setSlot_mboxes (T : Tile) (k : Nat) (x : Slot) : (T.setSlot k x).mboxes = T.mboxes := rfl
@[simp] theorem Tile.setSlot_ops (T : Tile) (k : Nat) (x : Slot) : (T.setSlot k x).ops = T.ops := rfl
@[simp] theorem Tile.setSlot_nextTag (T : Tile) (k : Nat) (x : Slot) : (T.setSlot k x).nextTag = T.nextTag := rfl
@[simp] theorem Tile.setSlot_nextTask (T : Tile) (k : Nat) (x : Slot) : (T.setSlot k x).nextTask = T.nextTask := rfl
@[simp] theorem Tile.setSlot_kept (T : Tile) (k : Nat) (x : Slot) : (T.setSlot k x).kept = T.kept := rfl
@[simp] theorem Tile.setSlot_mq (T : Tile) (k : Nat) (x : Slot) : (T.setSlot k x).mq = T.mq := rfl
@[simp] theorem Tile.setSlot_mrunLoad (T : Tile) (k : Nat) (x : Slot) : (T.setSlot k x).mrunLoad = T.mrunLoad := rfl
@[simp] theorem Tile.setSlot_mrun (T : Tile) (k : Nat) (x : Slot) : (T.setSlot k x).mrun = T.mrun := rfl
@[simp] theorem Tile.setSlot_vq (T : Tile) (k : Nat) (x : Slot) : (T.setSlot k x).vq = T.vq := rfl
@[simp] theorem Tile.setSlot_vrun (T : Tile) (k : Nat) (x : Slot) : (T.setSlot k x).vrun = T.vrun := rfl
@[simp] theorem Tile.setSlot_engSeq (T : Tile) (k : Nat) (x : Slot) : (T.setSlot k x).engSeq = T.engSeq := rfl
@[simp] theorem Tile.setSlot_wb0 (T : Tile) (k : Nat) (x : Slot) : (T.setSlot k x).wb0 = T.wb0 := rfl
@[simp] theorem Tile.setSlot_wb1 (T : Tile) (k : Nat) (x : Slot) : (T.setSlot k x).wb1 = T.wb1 := rfl
@[simp] theorem Tile.setSlot_fpFlags (T : Tile) (k : Nat) (x : Slot) : (T.setSlot k x).fpFlags = T.fpFlags := rfl
@[simp] theorem Tile.setSlot_jobKey (T : Tile) (k : Nat) (x : Slot) : (T.setSlot k x).jobKey = T.jobKey := rfl
@[simp] theorem Tile.setSlot_jobStep (T : Tile) (k : Nat) (x : Slot) : (T.setSlot k x).jobStep = T.jobStep := rfl
@[simp] theorem Tile.setSlot_jobPorts (T : Tile) (k : Nat) (x : Slot) : (T.setSlot k x).jobPorts = T.jobPorts := rfl
@[simp] theorem Tile.setSlot_keyIn (T : Tile) (k : Nat) (x : Slot) : (T.setSlot k x).keyIn = T.keyIn := rfl
@[simp] theorem Tile.setSlot_localUs (T : Tile) (k : Nat) (x : Slot) : (T.setSlot k x).localUs = T.localUs := rfl
@[simp] theorem Tile.setSlot_remoteMs (T : Tile) (k : Nat) (x : Slot) : (T.setSlot k x).remoteMs = T.remoteMs := rfl
@[simp] theorem Tile.setSlot_lowLimit (T : Tile) (k : Nat) (x : Slot) : (T.setSlot k x).lowLimit = T.lowLimit := rfl
@[simp] theorem Tile.setSlot_bytesFetched (T : Tile) (k : Nat) (x : Slot) : (T.setSlot k x).bytesFetched = T.bytesFetched := rfl
@[simp] theorem Tile.setSlot_bytesDiscarded (T : Tile) (k : Nat) (x : Slot) : (T.setSlot k x).bytesDiscarded = T.bytesDiscarded := rfl
@[simp] theorem Tile.setSlot_narrowReqs (T : Tile) (k : Nat) (x : Slot) : (T.setSlot k x).narrowReqs = T.narrowReqs := rfl
@[simp] theorem Tile.setSlot_streams (T : Tile) (k : Nat) (x : Slot) : (T.setSlot k x).streams = T.streams := rfl
@[simp] theorem Tile.setSlot_reqs (T : Tile) (k : Nat) (x : Slot) : (T.setSlot k x).reqs = T.reqs := rfl
@[simp] theorem Tile.setSlot_outs (T : Tile) (k : Nat) (x : Slot) : (T.setSlot k x).outs = T.outs := rfl
@[simp] theorem Tile.setSlot_acks (T : Tile) (k : Nat) (x : Slot) : (T.setSlot k x).acks = T.acks := rfl
@[simp] theorem Tile.setSlot_lastReq (T : Tile) (k : Nat) (x : Slot) : (T.setSlot k x).lastReq = T.lastReq := rfl
@[simp] theorem Tile.setSlot_mcIn (T : Tile) (k : Nat) (x : Slot) : (T.setSlot k x).mcIn = T.mcIn := rfl
@[simp] theorem Tile.setSlot_scanBusy (T : Tile) (k : Nat) (x : Slot) : (T.setSlot k x).scanBusy = T.scanBusy := rfl
@[simp] theorem Tile.setSlot_releases (T : Tile) (k : Nat) (x : Slot) : (T.setSlot k x).releases = T.releases := rfl
@[simp] theorem Tile.setSlot_detaches (T : Tile) (k : Nat) (x : Slot) : (T.setSlot k x).detaches = T.detaches := rfl
@[simp] theorem Tile.setSlot_markers (T : Tile) (k : Nat) (x : Slot) : (T.setSlot k x).markers = T.markers := rfl
@[simp] theorem Tile.setSlot_mem (T : Tile) (k : Nat) (x : Slot) : (T.setSlot k x).mem = T.mem := rfl
@[simp] theorem Tile.setSlot_latches (T : Tile) (k : Nat) (x : Slot) : (T.setSlot k x).latches = T.latches := rfl
@[simp] theorem Tile.modSlot_tokens (T : Tile) (k : Nat) (f : Slot → Slot) : (T.modSlot k f).tokens = T.tokens := rfl
@[simp] theorem Tile.modSlot_tokenOvf (T : Tile) (k : Nat) (f : Slot → Slot) : (T.modSlot k f).tokenOvf = T.tokenOvf := rfl
@[simp] theorem Tile.modSlot_quantum (T : Tile) (k : Nat) (f : Slot → Slot) : (T.modSlot k f).quantum = T.quantum := rfl
@[simp] theorem Tile.modSlot_cycles (T : Tile) (k : Nat) (f : Slot → Slot) : (T.modSlot k f).cycles = T.cycles := rfl
@[simp] theorem Tile.modSlot_cycFrac (T : Tile) (k : Nat) (f : Slot → Slot) : (T.modSlot k f).cycFrac = T.cycFrac := rfl
@[simp] theorem Tile.modSlot_progress (T : Tile) (k : Nat) (f : Slot → Slot) : (T.modSlot k f).progress = T.progress := rfl
@[simp] theorem Tile.modSlot_sendRetry (T : Tile) (k : Nat) (f : Slot → Slot) : (T.modSlot k f).sendRetry = T.sendRetry := rfl
@[simp] theorem Tile.modSlot_group (T : Tile) (k : Nat) (f : Slot → Slot) : (T.modSlot k f).group = T.group := rfl
@[simp] theorem Tile.modSlot_lag (T : Tile) (k : Nat) (f : Slot → Slot) : (T.modSlot k f).lag = T.lag := rfl
@[simp] theorem Tile.modSlot_last (T : Tile) (k : Nat) (f : Slot → Slot) : (T.modSlot k f).last = T.last := rfl
@[simp] theorem Tile.modSlot_run (T : Tile) (k : Nat) (f : Slot → Slot) : (T.modSlot k f).run = T.run := rfl
@[simp] theorem Tile.modSlot_hot (T : Tile) (k : Nat) (f : Slot → Slot) : (T.modSlot k f).hot = T.hot := rfl
@[simp] theorem Tile.modSlot_yielded (T : Tile) (k : Nat) (f : Slot → Slot) : (T.modSlot k f).yielded = T.yielded := rfl
@[simp] theorem Tile.modSlot_imgState (T : Tile) (k : Nat) (f : Slot → Slot) : (T.modSlot k f).imgState = T.imgState := rfl
@[simp] theorem Tile.modSlot_loadId (T : Tile) (k : Nat) (f : Slot → Slot) : (T.modSlot k f).loadId = T.loadId := rfl
@[simp] theorem Tile.modSlot_imgRound (T : Tile) (k : Nat) (f : Slot → Slot) : (T.modSlot k f).imgRound = T.imgRound := rfl
@[simp] theorem Tile.modSlot_chunks (T : Tile) (k : Nat) (f : Slot → Slot) : (T.modSlot k f).chunks = T.chunks := rfl
@[simp] theorem Tile.modSlot_chunk0 (T : Tile) (k : Nat) (f : Slot → Slot) : (T.modSlot k f).chunk0 = T.chunk0 := rfl
@[simp] theorem Tile.modSlot_sealed (T : Tile) (k : Nat) (f : Slot → Slot) : (T.modSlot k f).sealed = T.sealed := rfl
@[simp] theorem Tile.modSlot_reply (T : Tile) (k : Nat) (f : Slot → Slot) : (T.modSlot k f).reply = T.reply := rfl
@[simp] theorem Tile.modSlot_lagPrev (T : Tile) (k : Nat) (f : Slot → Slot) : (T.modSlot k f).lagPrev = T.lagPrev := rfl
@[simp] theorem Tile.modSlot_lagCount (T : Tile) (k : Nat) (f : Slot → Slot) : (T.modSlot k f).lagCount = T.lagCount := rfl
@[simp] theorem Tile.modSlot_mboxTok (T : Tile) (k : Nat) (f : Slot → Slot) : (T.modSlot k f).mboxTok = T.mboxTok := rfl
@[simp] theorem Tile.modSlot_mboxes (T : Tile) (k : Nat) (f : Slot → Slot) : (T.modSlot k f).mboxes = T.mboxes := rfl
@[simp] theorem Tile.modSlot_ops (T : Tile) (k : Nat) (f : Slot → Slot) : (T.modSlot k f).ops = T.ops := rfl
@[simp] theorem Tile.modSlot_nextTag (T : Tile) (k : Nat) (f : Slot → Slot) : (T.modSlot k f).nextTag = T.nextTag := rfl
@[simp] theorem Tile.modSlot_nextTask (T : Tile) (k : Nat) (f : Slot → Slot) : (T.modSlot k f).nextTask = T.nextTask := rfl
@[simp] theorem Tile.modSlot_kept (T : Tile) (k : Nat) (f : Slot → Slot) : (T.modSlot k f).kept = T.kept := rfl
@[simp] theorem Tile.modSlot_mq (T : Tile) (k : Nat) (f : Slot → Slot) : (T.modSlot k f).mq = T.mq := rfl
@[simp] theorem Tile.modSlot_mrunLoad (T : Tile) (k : Nat) (f : Slot → Slot) : (T.modSlot k f).mrunLoad = T.mrunLoad := rfl
@[simp] theorem Tile.modSlot_mrun (T : Tile) (k : Nat) (f : Slot → Slot) : (T.modSlot k f).mrun = T.mrun := rfl
@[simp] theorem Tile.modSlot_vq (T : Tile) (k : Nat) (f : Slot → Slot) : (T.modSlot k f).vq = T.vq := rfl
@[simp] theorem Tile.modSlot_vrun (T : Tile) (k : Nat) (f : Slot → Slot) : (T.modSlot k f).vrun = T.vrun := rfl
@[simp] theorem Tile.modSlot_engSeq (T : Tile) (k : Nat) (f : Slot → Slot) : (T.modSlot k f).engSeq = T.engSeq := rfl
@[simp] theorem Tile.modSlot_wb0 (T : Tile) (k : Nat) (f : Slot → Slot) : (T.modSlot k f).wb0 = T.wb0 := rfl
@[simp] theorem Tile.modSlot_wb1 (T : Tile) (k : Nat) (f : Slot → Slot) : (T.modSlot k f).wb1 = T.wb1 := rfl
@[simp] theorem Tile.modSlot_fpFlags (T : Tile) (k : Nat) (f : Slot → Slot) : (T.modSlot k f).fpFlags = T.fpFlags := rfl
@[simp] theorem Tile.modSlot_jobKey (T : Tile) (k : Nat) (f : Slot → Slot) : (T.modSlot k f).jobKey = T.jobKey := rfl
@[simp] theorem Tile.modSlot_jobStep (T : Tile) (k : Nat) (f : Slot → Slot) : (T.modSlot k f).jobStep = T.jobStep := rfl
@[simp] theorem Tile.modSlot_jobPorts (T : Tile) (k : Nat) (f : Slot → Slot) : (T.modSlot k f).jobPorts = T.jobPorts := rfl
@[simp] theorem Tile.modSlot_keyIn (T : Tile) (k : Nat) (f : Slot → Slot) : (T.modSlot k f).keyIn = T.keyIn := rfl
@[simp] theorem Tile.modSlot_localUs (T : Tile) (k : Nat) (f : Slot → Slot) : (T.modSlot k f).localUs = T.localUs := rfl
@[simp] theorem Tile.modSlot_remoteMs (T : Tile) (k : Nat) (f : Slot → Slot) : (T.modSlot k f).remoteMs = T.remoteMs := rfl
@[simp] theorem Tile.modSlot_lowLimit (T : Tile) (k : Nat) (f : Slot → Slot) : (T.modSlot k f).lowLimit = T.lowLimit := rfl
@[simp] theorem Tile.modSlot_bytesFetched (T : Tile) (k : Nat) (f : Slot → Slot) : (T.modSlot k f).bytesFetched = T.bytesFetched := rfl
@[simp] theorem Tile.modSlot_bytesDiscarded (T : Tile) (k : Nat) (f : Slot → Slot) : (T.modSlot k f).bytesDiscarded = T.bytesDiscarded := rfl
@[simp] theorem Tile.modSlot_narrowReqs (T : Tile) (k : Nat) (f : Slot → Slot) : (T.modSlot k f).narrowReqs = T.narrowReqs := rfl
@[simp] theorem Tile.modSlot_streams (T : Tile) (k : Nat) (f : Slot → Slot) : (T.modSlot k f).streams = T.streams := rfl
@[simp] theorem Tile.modSlot_reqs (T : Tile) (k : Nat) (f : Slot → Slot) : (T.modSlot k f).reqs = T.reqs := rfl
@[simp] theorem Tile.modSlot_outs (T : Tile) (k : Nat) (f : Slot → Slot) : (T.modSlot k f).outs = T.outs := rfl
@[simp] theorem Tile.modSlot_acks (T : Tile) (k : Nat) (f : Slot → Slot) : (T.modSlot k f).acks = T.acks := rfl
@[simp] theorem Tile.modSlot_lastReq (T : Tile) (k : Nat) (f : Slot → Slot) : (T.modSlot k f).lastReq = T.lastReq := rfl
@[simp] theorem Tile.modSlot_mcIn (T : Tile) (k : Nat) (f : Slot → Slot) : (T.modSlot k f).mcIn = T.mcIn := rfl
@[simp] theorem Tile.modSlot_scanBusy (T : Tile) (k : Nat) (f : Slot → Slot) : (T.modSlot k f).scanBusy = T.scanBusy := rfl
@[simp] theorem Tile.modSlot_releases (T : Tile) (k : Nat) (f : Slot → Slot) : (T.modSlot k f).releases = T.releases := rfl
@[simp] theorem Tile.modSlot_detaches (T : Tile) (k : Nat) (f : Slot → Slot) : (T.modSlot k f).detaches = T.detaches := rfl
@[simp] theorem Tile.modSlot_markers (T : Tile) (k : Nat) (f : Slot → Slot) : (T.modSlot k f).markers = T.markers := rfl
@[simp] theorem Tile.modSlot_mem (T : Tile) (k : Nat) (f : Slot → Slot) : (T.modSlot k f).mem = T.mem := rfl
@[simp] theorem Tile.modSlot_latches (T : Tile) (k : Nat) (f : Slot → Slot) : (T.modSlot k f).latches = T.latches := rfl
@[simp] theorem Tile.ocPut_slots (T : Tile) (o : Nat) (l : List Byte) : (T.ocPut o l).slots = T.slots := rfl
@[simp] theorem Tile.ocPut_tokens (T : Tile) (o : Nat) (l : List Byte) : (T.ocPut o l).tokens = T.tokens := rfl
@[simp] theorem Tile.ocPut_tokenOvf (T : Tile) (o : Nat) (l : List Byte) : (T.ocPut o l).tokenOvf = T.tokenOvf := rfl
@[simp] theorem Tile.ocPut_quantum (T : Tile) (o : Nat) (l : List Byte) : (T.ocPut o l).quantum = T.quantum := rfl
@[simp] theorem Tile.ocPut_cycles (T : Tile) (o : Nat) (l : List Byte) : (T.ocPut o l).cycles = T.cycles := rfl
@[simp] theorem Tile.ocPut_cycFrac (T : Tile) (o : Nat) (l : List Byte) : (T.ocPut o l).cycFrac = T.cycFrac := rfl
@[simp] theorem Tile.ocPut_progress (T : Tile) (o : Nat) (l : List Byte) : (T.ocPut o l).progress = T.progress := rfl
@[simp] theorem Tile.ocPut_sendRetry (T : Tile) (o : Nat) (l : List Byte) : (T.ocPut o l).sendRetry = T.sendRetry := rfl
@[simp] theorem Tile.ocPut_group (T : Tile) (o : Nat) (l : List Byte) : (T.ocPut o l).group = T.group := rfl
@[simp] theorem Tile.ocPut_lag (T : Tile) (o : Nat) (l : List Byte) : (T.ocPut o l).lag = T.lag := rfl
@[simp] theorem Tile.ocPut_last (T : Tile) (o : Nat) (l : List Byte) : (T.ocPut o l).last = T.last := rfl
@[simp] theorem Tile.ocPut_run (T : Tile) (o : Nat) (l : List Byte) : (T.ocPut o l).run = T.run := rfl
@[simp] theorem Tile.ocPut_hot (T : Tile) (o : Nat) (l : List Byte) : (T.ocPut o l).hot = T.hot := rfl
@[simp] theorem Tile.ocPut_yielded (T : Tile) (o : Nat) (l : List Byte) : (T.ocPut o l).yielded = T.yielded := rfl
@[simp] theorem Tile.ocPut_imgState (T : Tile) (o : Nat) (l : List Byte) : (T.ocPut o l).imgState = T.imgState := rfl
@[simp] theorem Tile.ocPut_loadId (T : Tile) (o : Nat) (l : List Byte) : (T.ocPut o l).loadId = T.loadId := rfl
@[simp] theorem Tile.ocPut_imgRound (T : Tile) (o : Nat) (l : List Byte) : (T.ocPut o l).imgRound = T.imgRound := rfl
@[simp] theorem Tile.ocPut_chunks (T : Tile) (o : Nat) (l : List Byte) : (T.ocPut o l).chunks = T.chunks := rfl
@[simp] theorem Tile.ocPut_chunk0 (T : Tile) (o : Nat) (l : List Byte) : (T.ocPut o l).chunk0 = T.chunk0 := rfl
@[simp] theorem Tile.ocPut_sealed (T : Tile) (o : Nat) (l : List Byte) : (T.ocPut o l).sealed = T.sealed := rfl
@[simp] theorem Tile.ocPut_reply (T : Tile) (o : Nat) (l : List Byte) : (T.ocPut o l).reply = T.reply := rfl
@[simp] theorem Tile.ocPut_lagPrev (T : Tile) (o : Nat) (l : List Byte) : (T.ocPut o l).lagPrev = T.lagPrev := rfl
@[simp] theorem Tile.ocPut_lagCount (T : Tile) (o : Nat) (l : List Byte) : (T.ocPut o l).lagCount = T.lagCount := rfl
@[simp] theorem Tile.ocPut_mboxTok (T : Tile) (o : Nat) (l : List Byte) : (T.ocPut o l).mboxTok = T.mboxTok := rfl
@[simp] theorem Tile.ocPut_mboxes (T : Tile) (o : Nat) (l : List Byte) : (T.ocPut o l).mboxes = T.mboxes := rfl
@[simp] theorem Tile.ocPut_ops (T : Tile) (o : Nat) (l : List Byte) : (T.ocPut o l).ops = T.ops := rfl
@[simp] theorem Tile.ocPut_nextTag (T : Tile) (o : Nat) (l : List Byte) : (T.ocPut o l).nextTag = T.nextTag := rfl
@[simp] theorem Tile.ocPut_nextTask (T : Tile) (o : Nat) (l : List Byte) : (T.ocPut o l).nextTask = T.nextTask := rfl
@[simp] theorem Tile.ocPut_kept (T : Tile) (o : Nat) (l : List Byte) : (T.ocPut o l).kept = T.kept := rfl
@[simp] theorem Tile.ocPut_mq (T : Tile) (o : Nat) (l : List Byte) : (T.ocPut o l).mq = T.mq := rfl
@[simp] theorem Tile.ocPut_mrunLoad (T : Tile) (o : Nat) (l : List Byte) : (T.ocPut o l).mrunLoad = T.mrunLoad := rfl
@[simp] theorem Tile.ocPut_mrun (T : Tile) (o : Nat) (l : List Byte) : (T.ocPut o l).mrun = T.mrun := rfl
@[simp] theorem Tile.ocPut_vq (T : Tile) (o : Nat) (l : List Byte) : (T.ocPut o l).vq = T.vq := rfl
@[simp] theorem Tile.ocPut_vrun (T : Tile) (o : Nat) (l : List Byte) : (T.ocPut o l).vrun = T.vrun := rfl
@[simp] theorem Tile.ocPut_engSeq (T : Tile) (o : Nat) (l : List Byte) : (T.ocPut o l).engSeq = T.engSeq := rfl
@[simp] theorem Tile.ocPut_wb0 (T : Tile) (o : Nat) (l : List Byte) : (T.ocPut o l).wb0 = T.wb0 := rfl
@[simp] theorem Tile.ocPut_wb1 (T : Tile) (o : Nat) (l : List Byte) : (T.ocPut o l).wb1 = T.wb1 := rfl
@[simp] theorem Tile.ocPut_fpFlags (T : Tile) (o : Nat) (l : List Byte) : (T.ocPut o l).fpFlags = T.fpFlags := rfl
@[simp] theorem Tile.ocPut_jobKey (T : Tile) (o : Nat) (l : List Byte) : (T.ocPut o l).jobKey = T.jobKey := rfl
@[simp] theorem Tile.ocPut_jobStep (T : Tile) (o : Nat) (l : List Byte) : (T.ocPut o l).jobStep = T.jobStep := rfl
@[simp] theorem Tile.ocPut_jobPorts (T : Tile) (o : Nat) (l : List Byte) : (T.ocPut o l).jobPorts = T.jobPorts := rfl
@[simp] theorem Tile.ocPut_keyIn (T : Tile) (o : Nat) (l : List Byte) : (T.ocPut o l).keyIn = T.keyIn := rfl
@[simp] theorem Tile.ocPut_localUs (T : Tile) (o : Nat) (l : List Byte) : (T.ocPut o l).localUs = T.localUs := rfl
@[simp] theorem Tile.ocPut_remoteMs (T : Tile) (o : Nat) (l : List Byte) : (T.ocPut o l).remoteMs = T.remoteMs := rfl
@[simp] theorem Tile.ocPut_lowLimit (T : Tile) (o : Nat) (l : List Byte) : (T.ocPut o l).lowLimit = T.lowLimit := rfl
@[simp] theorem Tile.ocPut_bytesFetched (T : Tile) (o : Nat) (l : List Byte) : (T.ocPut o l).bytesFetched = T.bytesFetched := rfl
@[simp] theorem Tile.ocPut_bytesDiscarded (T : Tile) (o : Nat) (l : List Byte) : (T.ocPut o l).bytesDiscarded = T.bytesDiscarded := rfl
@[simp] theorem Tile.ocPut_narrowReqs (T : Tile) (o : Nat) (l : List Byte) : (T.ocPut o l).narrowReqs = T.narrowReqs := rfl
@[simp] theorem Tile.ocPut_streams (T : Tile) (o : Nat) (l : List Byte) : (T.ocPut o l).streams = T.streams := rfl
@[simp] theorem Tile.ocPut_reqs (T : Tile) (o : Nat) (l : List Byte) : (T.ocPut o l).reqs = T.reqs := rfl
@[simp] theorem Tile.ocPut_outs (T : Tile) (o : Nat) (l : List Byte) : (T.ocPut o l).outs = T.outs := rfl
@[simp] theorem Tile.ocPut_acks (T : Tile) (o : Nat) (l : List Byte) : (T.ocPut o l).acks = T.acks := rfl
@[simp] theorem Tile.ocPut_lastReq (T : Tile) (o : Nat) (l : List Byte) : (T.ocPut o l).lastReq = T.lastReq := rfl
@[simp] theorem Tile.ocPut_mcIn (T : Tile) (o : Nat) (l : List Byte) : (T.ocPut o l).mcIn = T.mcIn := rfl
@[simp] theorem Tile.ocPut_scanBusy (T : Tile) (o : Nat) (l : List Byte) : (T.ocPut o l).scanBusy = T.scanBusy := rfl
@[simp] theorem Tile.ocPut_releases (T : Tile) (o : Nat) (l : List Byte) : (T.ocPut o l).releases = T.releases := rfl
@[simp] theorem Tile.ocPut_detaches (T : Tile) (o : Nat) (l : List Byte) : (T.ocPut o l).detaches = T.detaches := rfl
@[simp] theorem Tile.ocPut_markers (T : Tile) (o : Nat) (l : List Byte) : (T.ocPut o l).markers = T.markers := rfl
@[simp] theorem Tile.ocPut_latches (T : Tile) (o : Nat) (l : List Byte) : (T.ocPut o l).latches = T.latches := rfl
@[simp] theorem Tile.setStr_slots (T : Tile) (q : Nat) (x : SSlot) : (T.setStr q x).slots = T.slots := rfl
@[simp] theorem Tile.setStr_tokens (T : Tile) (q : Nat) (x : SSlot) : (T.setStr q x).tokens = T.tokens := rfl
@[simp] theorem Tile.setStr_tokenOvf (T : Tile) (q : Nat) (x : SSlot) : (T.setStr q x).tokenOvf = T.tokenOvf := rfl
@[simp] theorem Tile.setStr_quantum (T : Tile) (q : Nat) (x : SSlot) : (T.setStr q x).quantum = T.quantum := rfl
@[simp] theorem Tile.setStr_cycles (T : Tile) (q : Nat) (x : SSlot) : (T.setStr q x).cycles = T.cycles := rfl
@[simp] theorem Tile.setStr_cycFrac (T : Tile) (q : Nat) (x : SSlot) : (T.setStr q x).cycFrac = T.cycFrac := rfl
@[simp] theorem Tile.setStr_progress (T : Tile) (q : Nat) (x : SSlot) : (T.setStr q x).progress = T.progress := rfl
@[simp] theorem Tile.setStr_sendRetry (T : Tile) (q : Nat) (x : SSlot) : (T.setStr q x).sendRetry = T.sendRetry := rfl
@[simp] theorem Tile.setStr_group (T : Tile) (q : Nat) (x : SSlot) : (T.setStr q x).group = T.group := rfl
@[simp] theorem Tile.setStr_lag (T : Tile) (q : Nat) (x : SSlot) : (T.setStr q x).lag = T.lag := rfl
@[simp] theorem Tile.setStr_last (T : Tile) (q : Nat) (x : SSlot) : (T.setStr q x).last = T.last := rfl
@[simp] theorem Tile.setStr_run (T : Tile) (q : Nat) (x : SSlot) : (T.setStr q x).run = T.run := rfl
@[simp] theorem Tile.setStr_hot (T : Tile) (q : Nat) (x : SSlot) : (T.setStr q x).hot = T.hot := rfl
@[simp] theorem Tile.setStr_yielded (T : Tile) (q : Nat) (x : SSlot) : (T.setStr q x).yielded = T.yielded := rfl
@[simp] theorem Tile.setStr_imgState (T : Tile) (q : Nat) (x : SSlot) : (T.setStr q x).imgState = T.imgState := rfl
@[simp] theorem Tile.setStr_loadId (T : Tile) (q : Nat) (x : SSlot) : (T.setStr q x).loadId = T.loadId := rfl
@[simp] theorem Tile.setStr_imgRound (T : Tile) (q : Nat) (x : SSlot) : (T.setStr q x).imgRound = T.imgRound := rfl
@[simp] theorem Tile.setStr_chunks (T : Tile) (q : Nat) (x : SSlot) : (T.setStr q x).chunks = T.chunks := rfl
@[simp] theorem Tile.setStr_chunk0 (T : Tile) (q : Nat) (x : SSlot) : (T.setStr q x).chunk0 = T.chunk0 := rfl
@[simp] theorem Tile.setStr_sealed (T : Tile) (q : Nat) (x : SSlot) : (T.setStr q x).sealed = T.sealed := rfl
@[simp] theorem Tile.setStr_reply (T : Tile) (q : Nat) (x : SSlot) : (T.setStr q x).reply = T.reply := rfl
@[simp] theorem Tile.setStr_lagPrev (T : Tile) (q : Nat) (x : SSlot) : (T.setStr q x).lagPrev = T.lagPrev := rfl
@[simp] theorem Tile.setStr_lagCount (T : Tile) (q : Nat) (x : SSlot) : (T.setStr q x).lagCount = T.lagCount := rfl
@[simp] theorem Tile.setStr_mboxTok (T : Tile) (q : Nat) (x : SSlot) : (T.setStr q x).mboxTok = T.mboxTok := rfl
@[simp] theorem Tile.setStr_mboxes (T : Tile) (q : Nat) (x : SSlot) : (T.setStr q x).mboxes = T.mboxes := rfl
@[simp] theorem Tile.setStr_ops (T : Tile) (q : Nat) (x : SSlot) : (T.setStr q x).ops = T.ops := rfl
@[simp] theorem Tile.setStr_nextTag (T : Tile) (q : Nat) (x : SSlot) : (T.setStr q x).nextTag = T.nextTag := rfl
@[simp] theorem Tile.setStr_nextTask (T : Tile) (q : Nat) (x : SSlot) : (T.setStr q x).nextTask = T.nextTask := rfl
@[simp] theorem Tile.setStr_kept (T : Tile) (q : Nat) (x : SSlot) : (T.setStr q x).kept = T.kept := rfl
@[simp] theorem Tile.setStr_mq (T : Tile) (q : Nat) (x : SSlot) : (T.setStr q x).mq = T.mq := rfl
@[simp] theorem Tile.setStr_mrunLoad (T : Tile) (q : Nat) (x : SSlot) : (T.setStr q x).mrunLoad = T.mrunLoad := rfl
@[simp] theorem Tile.setStr_mrun (T : Tile) (q : Nat) (x : SSlot) : (T.setStr q x).mrun = T.mrun := rfl
@[simp] theorem Tile.setStr_vq (T : Tile) (q : Nat) (x : SSlot) : (T.setStr q x).vq = T.vq := rfl
@[simp] theorem Tile.setStr_vrun (T : Tile) (q : Nat) (x : SSlot) : (T.setStr q x).vrun = T.vrun := rfl
@[simp] theorem Tile.setStr_engSeq (T : Tile) (q : Nat) (x : SSlot) : (T.setStr q x).engSeq = T.engSeq := rfl
@[simp] theorem Tile.setStr_wb0 (T : Tile) (q : Nat) (x : SSlot) : (T.setStr q x).wb0 = T.wb0 := rfl
@[simp] theorem Tile.setStr_wb1 (T : Tile) (q : Nat) (x : SSlot) : (T.setStr q x).wb1 = T.wb1 := rfl
@[simp] theorem Tile.setStr_fpFlags (T : Tile) (q : Nat) (x : SSlot) : (T.setStr q x).fpFlags = T.fpFlags := rfl
@[simp] theorem Tile.setStr_jobKey (T : Tile) (q : Nat) (x : SSlot) : (T.setStr q x).jobKey = T.jobKey := rfl
@[simp] theorem Tile.setStr_jobStep (T : Tile) (q : Nat) (x : SSlot) : (T.setStr q x).jobStep = T.jobStep := rfl
@[simp] theorem Tile.setStr_jobPorts (T : Tile) (q : Nat) (x : SSlot) : (T.setStr q x).jobPorts = T.jobPorts := rfl
@[simp] theorem Tile.setStr_keyIn (T : Tile) (q : Nat) (x : SSlot) : (T.setStr q x).keyIn = T.keyIn := rfl
@[simp] theorem Tile.setStr_localUs (T : Tile) (q : Nat) (x : SSlot) : (T.setStr q x).localUs = T.localUs := rfl
@[simp] theorem Tile.setStr_remoteMs (T : Tile) (q : Nat) (x : SSlot) : (T.setStr q x).remoteMs = T.remoteMs := rfl
@[simp] theorem Tile.setStr_lowLimit (T : Tile) (q : Nat) (x : SSlot) : (T.setStr q x).lowLimit = T.lowLimit := rfl
@[simp] theorem Tile.setStr_bytesFetched (T : Tile) (q : Nat) (x : SSlot) : (T.setStr q x).bytesFetched = T.bytesFetched := rfl
@[simp] theorem Tile.setStr_bytesDiscarded (T : Tile) (q : Nat) (x : SSlot) : (T.setStr q x).bytesDiscarded = T.bytesDiscarded := rfl
@[simp] theorem Tile.setStr_narrowReqs (T : Tile) (q : Nat) (x : SSlot) : (T.setStr q x).narrowReqs = T.narrowReqs := rfl
@[simp] theorem Tile.setStr_reqs (T : Tile) (q : Nat) (x : SSlot) : (T.setStr q x).reqs = T.reqs := rfl
@[simp] theorem Tile.setStr_outs (T : Tile) (q : Nat) (x : SSlot) : (T.setStr q x).outs = T.outs := rfl
@[simp] theorem Tile.setStr_acks (T : Tile) (q : Nat) (x : SSlot) : (T.setStr q x).acks = T.acks := rfl
@[simp] theorem Tile.setStr_lastReq (T : Tile) (q : Nat) (x : SSlot) : (T.setStr q x).lastReq = T.lastReq := rfl
@[simp] theorem Tile.setStr_mcIn (T : Tile) (q : Nat) (x : SSlot) : (T.setStr q x).mcIn = T.mcIn := rfl
@[simp] theorem Tile.setStr_scanBusy (T : Tile) (q : Nat) (x : SSlot) : (T.setStr q x).scanBusy = T.scanBusy := rfl
@[simp] theorem Tile.setStr_releases (T : Tile) (q : Nat) (x : SSlot) : (T.setStr q x).releases = T.releases := rfl
@[simp] theorem Tile.setStr_detaches (T : Tile) (q : Nat) (x : SSlot) : (T.setStr q x).detaches = T.detaches := rfl
@[simp] theorem Tile.setStr_markers (T : Tile) (q : Nat) (x : SSlot) : (T.setStr q x).markers = T.markers := rfl
@[simp] theorem Tile.setStr_mem (T : Tile) (q : Nat) (x : SSlot) : (T.setStr q x).mem = T.mem := rfl
@[simp] theorem Tile.setStr_latches (T : Tile) (q : Nat) (x : SSlot) : (T.setStr q x).latches = T.latches := rfl
@[simp] theorem Tile.setToken_slots (T : Tile) (n : Nat) (v : BitVec 16) : (T.setToken n v).slots = T.slots := by unfold Tile.setToken; split <;> rfl
@[simp] theorem Tile.setToken_tokenOvf (T : Tile) (n : Nat) (v : BitVec 16) : (T.setToken n v).tokenOvf = T.tokenOvf := by unfold Tile.setToken; split <;> rfl
@[simp] theorem Tile.setToken_quantum (T : Tile) (n : Nat) (v : BitVec 16) : (T.setToken n v).quantum = T.quantum := by unfold Tile.setToken; split <;> rfl
@[simp] theorem Tile.setToken_cycles (T : Tile) (n : Nat) (v : BitVec 16) : (T.setToken n v).cycles = T.cycles := by unfold Tile.setToken; split <;> rfl
@[simp] theorem Tile.setToken_cycFrac (T : Tile) (n : Nat) (v : BitVec 16) : (T.setToken n v).cycFrac = T.cycFrac := by unfold Tile.setToken; split <;> rfl
@[simp] theorem Tile.setToken_progress (T : Tile) (n : Nat) (v : BitVec 16) : (T.setToken n v).progress = T.progress := by unfold Tile.setToken; split <;> rfl
@[simp] theorem Tile.setToken_sendRetry (T : Tile) (n : Nat) (v : BitVec 16) : (T.setToken n v).sendRetry = T.sendRetry := by unfold Tile.setToken; split <;> rfl
@[simp] theorem Tile.setToken_group (T : Tile) (n : Nat) (v : BitVec 16) : (T.setToken n v).group = T.group := by unfold Tile.setToken; split <;> rfl
@[simp] theorem Tile.setToken_lag (T : Tile) (n : Nat) (v : BitVec 16) : (T.setToken n v).lag = T.lag := by unfold Tile.setToken; split <;> rfl
@[simp] theorem Tile.setToken_last (T : Tile) (n : Nat) (v : BitVec 16) : (T.setToken n v).last = T.last := by unfold Tile.setToken; split <;> rfl
@[simp] theorem Tile.setToken_run (T : Tile) (n : Nat) (v : BitVec 16) : (T.setToken n v).run = T.run := by unfold Tile.setToken; split <;> rfl
@[simp] theorem Tile.setToken_hot (T : Tile) (n : Nat) (v : BitVec 16) : (T.setToken n v).hot = T.hot := by unfold Tile.setToken; split <;> rfl
@[simp] theorem Tile.setToken_yielded (T : Tile) (n : Nat) (v : BitVec 16) : (T.setToken n v).yielded = T.yielded := by unfold Tile.setToken; split <;> rfl
@[simp] theorem Tile.setToken_imgState (T : Tile) (n : Nat) (v : BitVec 16) : (T.setToken n v).imgState = T.imgState := by unfold Tile.setToken; split <;> rfl
@[simp] theorem Tile.setToken_loadId (T : Tile) (n : Nat) (v : BitVec 16) : (T.setToken n v).loadId = T.loadId := by unfold Tile.setToken; split <;> rfl
@[simp] theorem Tile.setToken_imgRound (T : Tile) (n : Nat) (v : BitVec 16) : (T.setToken n v).imgRound = T.imgRound := by unfold Tile.setToken; split <;> rfl
@[simp] theorem Tile.setToken_chunks (T : Tile) (n : Nat) (v : BitVec 16) : (T.setToken n v).chunks = T.chunks := by unfold Tile.setToken; split <;> rfl
@[simp] theorem Tile.setToken_chunk0 (T : Tile) (n : Nat) (v : BitVec 16) : (T.setToken n v).chunk0 = T.chunk0 := by unfold Tile.setToken; split <;> rfl
@[simp] theorem Tile.setToken_sealed (T : Tile) (n : Nat) (v : BitVec 16) : (T.setToken n v).sealed = T.sealed := by unfold Tile.setToken; split <;> rfl
@[simp] theorem Tile.setToken_reply (T : Tile) (n : Nat) (v : BitVec 16) : (T.setToken n v).reply = T.reply := by unfold Tile.setToken; split <;> rfl
@[simp] theorem Tile.setToken_lagPrev (T : Tile) (n : Nat) (v : BitVec 16) : (T.setToken n v).lagPrev = T.lagPrev := by unfold Tile.setToken; split <;> rfl
@[simp] theorem Tile.setToken_lagCount (T : Tile) (n : Nat) (v : BitVec 16) : (T.setToken n v).lagCount = T.lagCount := by unfold Tile.setToken; split <;> rfl
@[simp] theorem Tile.setToken_mboxTok (T : Tile) (n : Nat) (v : BitVec 16) : (T.setToken n v).mboxTok = T.mboxTok := by unfold Tile.setToken; split <;> rfl
@[simp] theorem Tile.setToken_mboxes (T : Tile) (n : Nat) (v : BitVec 16) : (T.setToken n v).mboxes = T.mboxes := by unfold Tile.setToken; split <;> rfl
@[simp] theorem Tile.setToken_ops (T : Tile) (n : Nat) (v : BitVec 16) : (T.setToken n v).ops = T.ops := by unfold Tile.setToken; split <;> rfl
@[simp] theorem Tile.setToken_nextTag (T : Tile) (n : Nat) (v : BitVec 16) : (T.setToken n v).nextTag = T.nextTag := by unfold Tile.setToken; split <;> rfl
@[simp] theorem Tile.setToken_nextTask (T : Tile) (n : Nat) (v : BitVec 16) : (T.setToken n v).nextTask = T.nextTask := by unfold Tile.setToken; split <;> rfl
@[simp] theorem Tile.setToken_kept (T : Tile) (n : Nat) (v : BitVec 16) : (T.setToken n v).kept = T.kept := by unfold Tile.setToken; split <;> rfl
@[simp] theorem Tile.setToken_mq (T : Tile) (n : Nat) (v : BitVec 16) : (T.setToken n v).mq = T.mq := by unfold Tile.setToken; split <;> rfl
@[simp] theorem Tile.setToken_mrunLoad (T : Tile) (n : Nat) (v : BitVec 16) : (T.setToken n v).mrunLoad = T.mrunLoad := by unfold Tile.setToken; split <;> rfl
@[simp] theorem Tile.setToken_mrun (T : Tile) (n : Nat) (v : BitVec 16) : (T.setToken n v).mrun = T.mrun := by unfold Tile.setToken; split <;> rfl
@[simp] theorem Tile.setToken_vq (T : Tile) (n : Nat) (v : BitVec 16) : (T.setToken n v).vq = T.vq := by unfold Tile.setToken; split <;> rfl
@[simp] theorem Tile.setToken_vrun (T : Tile) (n : Nat) (v : BitVec 16) : (T.setToken n v).vrun = T.vrun := by unfold Tile.setToken; split <;> rfl
@[simp] theorem Tile.setToken_engSeq (T : Tile) (n : Nat) (v : BitVec 16) : (T.setToken n v).engSeq = T.engSeq := by unfold Tile.setToken; split <;> rfl
@[simp] theorem Tile.setToken_wb0 (T : Tile) (n : Nat) (v : BitVec 16) : (T.setToken n v).wb0 = T.wb0 := by unfold Tile.setToken; split <;> rfl
@[simp] theorem Tile.setToken_wb1 (T : Tile) (n : Nat) (v : BitVec 16) : (T.setToken n v).wb1 = T.wb1 := by unfold Tile.setToken; split <;> rfl
@[simp] theorem Tile.setToken_fpFlags (T : Tile) (n : Nat) (v : BitVec 16) : (T.setToken n v).fpFlags = T.fpFlags := by unfold Tile.setToken; split <;> rfl
@[simp] theorem Tile.setToken_jobKey (T : Tile) (n : Nat) (v : BitVec 16) : (T.setToken n v).jobKey = T.jobKey := by unfold Tile.setToken; split <;> rfl
@[simp] theorem Tile.setToken_jobStep (T : Tile) (n : Nat) (v : BitVec 16) : (T.setToken n v).jobStep = T.jobStep := by unfold Tile.setToken; split <;> rfl
@[simp] theorem Tile.setToken_jobPorts (T : Tile) (n : Nat) (v : BitVec 16) : (T.setToken n v).jobPorts = T.jobPorts := by unfold Tile.setToken; split <;> rfl
@[simp] theorem Tile.setToken_keyIn (T : Tile) (n : Nat) (v : BitVec 16) : (T.setToken n v).keyIn = T.keyIn := by unfold Tile.setToken; split <;> rfl
@[simp] theorem Tile.setToken_localUs (T : Tile) (n : Nat) (v : BitVec 16) : (T.setToken n v).localUs = T.localUs := by unfold Tile.setToken; split <;> rfl
@[simp] theorem Tile.setToken_remoteMs (T : Tile) (n : Nat) (v : BitVec 16) : (T.setToken n v).remoteMs = T.remoteMs := by unfold Tile.setToken; split <;> rfl
@[simp] theorem Tile.setToken_lowLimit (T : Tile) (n : Nat) (v : BitVec 16) : (T.setToken n v).lowLimit = T.lowLimit := by unfold Tile.setToken; split <;> rfl
@[simp] theorem Tile.setToken_bytesFetched (T : Tile) (n : Nat) (v : BitVec 16) : (T.setToken n v).bytesFetched = T.bytesFetched := by unfold Tile.setToken; split <;> rfl
@[simp] theorem Tile.setToken_bytesDiscarded (T : Tile) (n : Nat) (v : BitVec 16) : (T.setToken n v).bytesDiscarded = T.bytesDiscarded := by unfold Tile.setToken; split <;> rfl
@[simp] theorem Tile.setToken_narrowReqs (T : Tile) (n : Nat) (v : BitVec 16) : (T.setToken n v).narrowReqs = T.narrowReqs := by unfold Tile.setToken; split <;> rfl
@[simp] theorem Tile.setToken_streams (T : Tile) (n : Nat) (v : BitVec 16) : (T.setToken n v).streams = T.streams := by unfold Tile.setToken; split <;> rfl
@[simp] theorem Tile.setToken_reqs (T : Tile) (n : Nat) (v : BitVec 16) : (T.setToken n v).reqs = T.reqs := by unfold Tile.setToken; split <;> rfl
@[simp] theorem Tile.setToken_outs (T : Tile) (n : Nat) (v : BitVec 16) : (T.setToken n v).outs = T.outs := by unfold Tile.setToken; split <;> rfl
@[simp] theorem Tile.setToken_acks (T : Tile) (n : Nat) (v : BitVec 16) : (T.setToken n v).acks = T.acks := by unfold Tile.setToken; split <;> rfl
@[simp] theorem Tile.setToken_lastReq (T : Tile) (n : Nat) (v : BitVec 16) : (T.setToken n v).lastReq = T.lastReq := by unfold Tile.setToken; split <;> rfl
@[simp] theorem Tile.setToken_mcIn (T : Tile) (n : Nat) (v : BitVec 16) : (T.setToken n v).mcIn = T.mcIn := by unfold Tile.setToken; split <;> rfl
@[simp] theorem Tile.setToken_scanBusy (T : Tile) (n : Nat) (v : BitVec 16) : (T.setToken n v).scanBusy = T.scanBusy := by unfold Tile.setToken; split <;> rfl
@[simp] theorem Tile.setToken_releases (T : Tile) (n : Nat) (v : BitVec 16) : (T.setToken n v).releases = T.releases := by unfold Tile.setToken; split <;> rfl
@[simp] theorem Tile.setToken_detaches (T : Tile) (n : Nat) (v : BitVec 16) : (T.setToken n v).detaches = T.detaches := by unfold Tile.setToken; split <;> rfl
@[simp] theorem Tile.setToken_markers (T : Tile) (n : Nat) (v : BitVec 16) : (T.setToken n v).markers = T.markers := by unfold Tile.setToken; split <;> rfl
@[simp] theorem Tile.setToken_mem (T : Tile) (n : Nat) (v : BitVec 16) : (T.setToken n v).mem = T.mem := by unfold Tile.setToken; split <;> rfl
@[simp] theorem Tile.setToken_latches (T : Tile) (n : Nat) (v : BitVec 16) : (T.setToken n v).latches = T.latches := by unfold Tile.setToken; split <;> rfl
@[simp] theorem Tile.incToken_slots (T : Tile) (n v : Nat) : (T.incToken n v).slots = T.slots := by
  unfold Tile.incToken; split; rfl; dsimp only; split <;> simp
@[simp] theorem Tile.incToken_quantum (T : Tile) (n v : Nat) : (T.incToken n v).quantum = T.quantum := by
  unfold Tile.incToken; split; rfl; dsimp only; split <;> simp
@[simp] theorem Tile.incToken_cycles (T : Tile) (n v : Nat) : (T.incToken n v).cycles = T.cycles := by
  unfold Tile.incToken; split; rfl; dsimp only; split <;> simp
@[simp] theorem Tile.incToken_cycFrac (T : Tile) (n v : Nat) : (T.incToken n v).cycFrac = T.cycFrac := by
  unfold Tile.incToken; split; rfl; dsimp only; split <;> simp
@[simp] theorem Tile.incToken_progress (T : Tile) (n v : Nat) : (T.incToken n v).progress = T.progress := by
  unfold Tile.incToken; split; rfl; dsimp only; split <;> simp
@[simp] theorem Tile.incToken_sendRetry (T : Tile) (n v : Nat) : (T.incToken n v).sendRetry = T.sendRetry := by
  unfold Tile.incToken; split; rfl; dsimp only; split <;> simp
@[simp] theorem Tile.incToken_group (T : Tile) (n v : Nat) : (T.incToken n v).group = T.group := by
  unfold Tile.incToken; split; rfl; dsimp only; split <;> simp
@[simp] theorem Tile.incToken_lag (T : Tile) (n v : Nat) : (T.incToken n v).lag = T.lag := by
  unfold Tile.incToken; split; rfl; dsimp only; split <;> simp
@[simp] theorem Tile.incToken_last (T : Tile) (n v : Nat) : (T.incToken n v).last = T.last := by
  unfold Tile.incToken; split; rfl; dsimp only; split <;> simp
@[simp] theorem Tile.incToken_run (T : Tile) (n v : Nat) : (T.incToken n v).run = T.run := by
  unfold Tile.incToken; split; rfl; dsimp only; split <;> simp
@[simp] theorem Tile.incToken_hot (T : Tile) (n v : Nat) : (T.incToken n v).hot = T.hot := by
  unfold Tile.incToken; split; rfl; dsimp only; split <;> simp
@[simp] theorem Tile.incToken_yielded (T : Tile) (n v : Nat) : (T.incToken n v).yielded = T.yielded := by
  unfold Tile.incToken; split; rfl; dsimp only; split <;> simp
@[simp] theorem Tile.incToken_imgState (T : Tile) (n v : Nat) : (T.incToken n v).imgState = T.imgState := by
  unfold Tile.incToken; split; rfl; dsimp only; split <;> simp
@[simp] theorem Tile.incToken_loadId (T : Tile) (n v : Nat) : (T.incToken n v).loadId = T.loadId := by
  unfold Tile.incToken; split; rfl; dsimp only; split <;> simp
@[simp] theorem Tile.incToken_imgRound (T : Tile) (n v : Nat) : (T.incToken n v).imgRound = T.imgRound := by
  unfold Tile.incToken; split; rfl; dsimp only; split <;> simp
@[simp] theorem Tile.incToken_chunks (T : Tile) (n v : Nat) : (T.incToken n v).chunks = T.chunks := by
  unfold Tile.incToken; split; rfl; dsimp only; split <;> simp
@[simp] theorem Tile.incToken_chunk0 (T : Tile) (n v : Nat) : (T.incToken n v).chunk0 = T.chunk0 := by
  unfold Tile.incToken; split; rfl; dsimp only; split <;> simp
@[simp] theorem Tile.incToken_sealed (T : Tile) (n v : Nat) : (T.incToken n v).sealed = T.sealed := by
  unfold Tile.incToken; split; rfl; dsimp only; split <;> simp
@[simp] theorem Tile.incToken_reply (T : Tile) (n v : Nat) : (T.incToken n v).reply = T.reply := by
  unfold Tile.incToken; split; rfl; dsimp only; split <;> simp
@[simp] theorem Tile.incToken_lagPrev (T : Tile) (n v : Nat) : (T.incToken n v).lagPrev = T.lagPrev := by
  unfold Tile.incToken; split; rfl; dsimp only; split <;> simp
@[simp] theorem Tile.incToken_lagCount (T : Tile) (n v : Nat) : (T.incToken n v).lagCount = T.lagCount := by
  unfold Tile.incToken; split; rfl; dsimp only; split <;> simp
@[simp] theorem Tile.incToken_mboxTok (T : Tile) (n v : Nat) : (T.incToken n v).mboxTok = T.mboxTok := by
  unfold Tile.incToken; split; rfl; dsimp only; split <;> simp
@[simp] theorem Tile.incToken_mboxes (T : Tile) (n v : Nat) : (T.incToken n v).mboxes = T.mboxes := by
  unfold Tile.incToken; split; rfl; dsimp only; split <;> simp
@[simp] theorem Tile.incToken_ops (T : Tile) (n v : Nat) : (T.incToken n v).ops = T.ops := by
  unfold Tile.incToken; split; rfl; dsimp only; split <;> simp
@[simp] theorem Tile.incToken_nextTag (T : Tile) (n v : Nat) : (T.incToken n v).nextTag = T.nextTag := by
  unfold Tile.incToken; split; rfl; dsimp only; split <;> simp
@[simp] theorem Tile.incToken_nextTask (T : Tile) (n v : Nat) : (T.incToken n v).nextTask = T.nextTask := by
  unfold Tile.incToken; split; rfl; dsimp only; split <;> simp
@[simp] theorem Tile.incToken_kept (T : Tile) (n v : Nat) : (T.incToken n v).kept = T.kept := by
  unfold Tile.incToken; split; rfl; dsimp only; split <;> simp
@[simp] theorem Tile.incToken_mq (T : Tile) (n v : Nat) : (T.incToken n v).mq = T.mq := by
  unfold Tile.incToken; split; rfl; dsimp only; split <;> simp
@[simp] theorem Tile.incToken_mrunLoad (T : Tile) (n v : Nat) : (T.incToken n v).mrunLoad = T.mrunLoad := by
  unfold Tile.incToken; split; rfl; dsimp only; split <;> simp
@[simp] theorem Tile.incToken_mrun (T : Tile) (n v : Nat) : (T.incToken n v).mrun = T.mrun := by
  unfold Tile.incToken; split; rfl; dsimp only; split <;> simp
@[simp] theorem Tile.incToken_vq (T : Tile) (n v : Nat) : (T.incToken n v).vq = T.vq := by
  unfold Tile.incToken; split; rfl; dsimp only; split <;> simp
@[simp] theorem Tile.incToken_vrun (T : Tile) (n v : Nat) : (T.incToken n v).vrun = T.vrun := by
  unfold Tile.incToken; split; rfl; dsimp only; split <;> simp
@[simp] theorem Tile.incToken_engSeq (T : Tile) (n v : Nat) : (T.incToken n v).engSeq = T.engSeq := by
  unfold Tile.incToken; split; rfl; dsimp only; split <;> simp
@[simp] theorem Tile.incToken_wb0 (T : Tile) (n v : Nat) : (T.incToken n v).wb0 = T.wb0 := by
  unfold Tile.incToken; split; rfl; dsimp only; split <;> simp
@[simp] theorem Tile.incToken_wb1 (T : Tile) (n v : Nat) : (T.incToken n v).wb1 = T.wb1 := by
  unfold Tile.incToken; split; rfl; dsimp only; split <;> simp
@[simp] theorem Tile.incToken_fpFlags (T : Tile) (n v : Nat) : (T.incToken n v).fpFlags = T.fpFlags := by
  unfold Tile.incToken; split; rfl; dsimp only; split <;> simp
@[simp] theorem Tile.incToken_jobKey (T : Tile) (n v : Nat) : (T.incToken n v).jobKey = T.jobKey := by
  unfold Tile.incToken; split; rfl; dsimp only; split <;> simp
@[simp] theorem Tile.incToken_jobStep (T : Tile) (n v : Nat) : (T.incToken n v).jobStep = T.jobStep := by
  unfold Tile.incToken; split; rfl; dsimp only; split <;> simp
@[simp] theorem Tile.incToken_jobPorts (T : Tile) (n v : Nat) : (T.incToken n v).jobPorts = T.jobPorts := by
  unfold Tile.incToken; split; rfl; dsimp only; split <;> simp
@[simp] theorem Tile.incToken_keyIn (T : Tile) (n v : Nat) : (T.incToken n v).keyIn = T.keyIn := by
  unfold Tile.incToken; split; rfl; dsimp only; split <;> simp
@[simp] theorem Tile.incToken_localUs (T : Tile) (n v : Nat) : (T.incToken n v).localUs = T.localUs := by
  unfold Tile.incToken; split; rfl; dsimp only; split <;> simp
@[simp] theorem Tile.incToken_remoteMs (T : Tile) (n v : Nat) : (T.incToken n v).remoteMs = T.remoteMs := by
  unfold Tile.incToken; split; rfl; dsimp only; split <;> simp
@[simp] theorem Tile.incToken_lowLimit (T : Tile) (n v : Nat) : (T.incToken n v).lowLimit = T.lowLimit := by
  unfold Tile.incToken; split; rfl; dsimp only; split <;> simp
@[simp] theorem Tile.incToken_bytesFetched (T : Tile) (n v : Nat) : (T.incToken n v).bytesFetched = T.bytesFetched := by
  unfold Tile.incToken; split; rfl; dsimp only; split <;> simp
@[simp] theorem Tile.incToken_bytesDiscarded (T : Tile) (n v : Nat) : (T.incToken n v).bytesDiscarded = T.bytesDiscarded := by
  unfold Tile.incToken; split; rfl; dsimp only; split <;> simp
@[simp] theorem Tile.incToken_narrowReqs (T : Tile) (n v : Nat) : (T.incToken n v).narrowReqs = T.narrowReqs := by
  unfold Tile.incToken; split; rfl; dsimp only; split <;> simp
@[simp] theorem Tile.incToken_streams (T : Tile) (n v : Nat) : (T.incToken n v).streams = T.streams := by
  unfold Tile.incToken; split; rfl; dsimp only; split <;> simp
@[simp] theorem Tile.incToken_reqs (T : Tile) (n v : Nat) : (T.incToken n v).reqs = T.reqs := by
  unfold Tile.incToken; split; rfl; dsimp only; split <;> simp
@[simp] theorem Tile.incToken_outs (T : Tile) (n v : Nat) : (T.incToken n v).outs = T.outs := by
  unfold Tile.incToken; split; rfl; dsimp only; split <;> simp
@[simp] theorem Tile.incToken_acks (T : Tile) (n v : Nat) : (T.incToken n v).acks = T.acks := by
  unfold Tile.incToken; split; rfl; dsimp only; split <;> simp
@[simp] theorem Tile.incToken_lastReq (T : Tile) (n v : Nat) : (T.incToken n v).lastReq = T.lastReq := by
  unfold Tile.incToken; split; rfl; dsimp only; split <;> simp
@[simp] theorem Tile.incToken_mcIn (T : Tile) (n v : Nat) : (T.incToken n v).mcIn = T.mcIn := by
  unfold Tile.incToken; split; rfl; dsimp only; split <;> simp
@[simp] theorem Tile.incToken_scanBusy (T : Tile) (n v : Nat) : (T.incToken n v).scanBusy = T.scanBusy := by
  unfold Tile.incToken; split; rfl; dsimp only; split <;> simp
@[simp] theorem Tile.incToken_releases (T : Tile) (n v : Nat) : (T.incToken n v).releases = T.releases := by
  unfold Tile.incToken; split; rfl; dsimp only; split <;> simp
@[simp] theorem Tile.incToken_detaches (T : Tile) (n v : Nat) : (T.incToken n v).detaches = T.detaches := by
  unfold Tile.incToken; split; rfl; dsimp only; split <;> simp
@[simp] theorem Tile.incToken_markers (T : Tile) (n v : Nat) : (T.incToken n v).markers = T.markers := by
  unfold Tile.incToken; split; rfl; dsimp only; split <;> simp
@[simp] theorem Tile.incToken_mem (T : Tile) (n v : Nat) : (T.incToken n v).mem = T.mem := by
  unfold Tile.incToken; split; rfl; dsimp only; split <;> simp
@[simp] theorem Tile.incToken_latches (T : Tile) (n v : Nat) : (T.incToken n v).latches = T.latches := by
  unfold Tile.incToken; split; rfl; dsimp only; split <;> simp
@[simp] theorem Slot.setS_st (K : Slot) (n : Nat) (v : BitVec 32) : (K.setS n v).st = K.st := by unfold Slot.setS; split <;> rfl
@[simp] theorem Slot.setA_st (K : Slot) (n : Nat) (v : BitVec 48) : (K.setA n v).st = K.st := rfl
@[simp] theorem Slot.setS_pc (K : Slot) (n : Nat) (v : BitVec 32) : (K.setS n v).pc = K.pc := by unfold Slot.setS; split <;> rfl
@[simp] theorem Slot.setA_pc (K : Slot) (n : Nat) (v : BitVec 48) : (K.setA n v).pc = K.pc := rfl
@[simp] theorem Slot.setA_s (K : Slot) (n : Nat) (v : BitVec 48) : (K.setA n v).s = K.s := rfl
@[simp] theorem Slot.setS_a (K : Slot) (n : Nat) (v : BitVec 32) : (K.setS n v).a = K.a := by unfold Slot.setS; split <;> rfl
@[simp] theorem Slot.setS_code (K : Slot) (n : Nat) (v : BitVec 32) : (K.setS n v).code = K.code := by unfold Slot.setS; split <;> rfl
@[simp] theorem Slot.setA_code (K : Slot) (n : Nat) (v : BitVec 48) : (K.setA n v).code = K.code := rfl
@[simp] theorem Slot.setS_task (K : Slot) (n : Nat) (v : BitVec 32) : (K.setS n v).task = K.task := by unfold Slot.setS; split <;> rfl
@[simp] theorem Slot.setA_task (K : Slot) (n : Nat) (v : BitVec 48) : (K.setA n v).task = K.task := rfl

end Sys2Proof.Machine
end

