-- ==== Sys2Proof/Laws/Registers.lean ====
section
/-! SUPPORT. The register map names each register once: the register that starts at an instance's address is that instance. -/

namespace Sys2Proof.Machine

/-- Every kind, with the list of its window. -/
def allKinds : List RegKind := mgmtKinds ++ dieKinds ++ portKinds
theorem mem_allKinds (k : RegKind) : k ∈ allKinds := by cases k <;> decide

/-- The strides of a row keep its instances apart. -/
def RegRow.regular (r : RegRow) : Bool :=
  if r.s1 == 0 then r.n1 == 1 && (r.s2 != 0 || r.n2 == 1) else if r.s2 == 0 then r.n2 == 1 else r.n2 * r.s2 ≤ r.s1
theorem regular_row (k : RegKind) : k.row.regular = true := by cases k <;> decide

theorem RegKind.inst_at (k : RegKind) (i j : Nat) (h : k.valid i j) : k.inst (k.at i j) = some (i, j) := by
  obtain ⟨h1, h2, h3⟩ := h
  have hr := regular_row k
  unfold RegRow.regular at hr
  unfold RegKind.inst RegKind.at
  generalize k.row = r at *
  have e : r.base + i * r.s1 + j * r.s2 - r.base = i * r.s1 + j * r.s2 := by omega
  have nl : ¬ (r.base + i * r.s1 + j * r.s2 < r.base) := by omega
  have hp : (!k.isPort || j % 2 == i) = true := by
    cases hk : k.isPort
    · rfl
    · simp [h3 hk]
  simp only [nl, if_false, e]
  by_cases hs : r.s1 = 0
  · simp only [hs, beq_self_eq_true, if_true, Nat.mul_zero, Nat.zero_add, Nat.sub_zero] at hr ⊢
    have i0 : i = 0 := by simp at hr; omega
    subst i0
    by_cases ht : r.s2 = 0
    · have j0 : j = 0 := by simp [ht] at hr; omega
      subst j0
      simp_all
    · have ht' : (r.s2 == 0) = false := by simpa using ht
      have : j * r.s2 / r.s2 = j := Nat.mul_div_cancel _ (Nat.pos_of_ne_zero ht)
      simp only [ht', Bool.false_eq_true, if_false, this, h1, h2, hp, decide_true, beq_self_eq_true, Bool.and_self, if_true]
  · have hs' : (r.s1 == 0) = false := by simpa using hs
    simp only [hs', Bool.false_eq_true, if_false] at hr ⊢
    by_cases ht : r.s2 = 0
    · have j0 : j = 0 := by simp [ht] at hr; omega
      subst j0
      have : i * r.s1 / r.s1 = i := Nat.mul_div_cancel _ (Nat.pos_of_ne_zero hs)
      simp [ht, this, h1, h2, hp]
    · have ht' : (r.s2 == 0) = false := by simpa using ht
      simp only [ht', Bool.false_eq_true, if_false, decide_eq_true_eq] at hr ⊢
      have hlt : j * r.s2 < r.s1 :=
        Nat.lt_of_lt_of_le (Nat.mul_lt_mul_of_pos_right h2 (Nat.pos_of_ne_zero ht)) hr
      have d1 : (i * r.s1 + j * r.s2) / r.s1 = i := by
        rw [Nat.mul_comm, Nat.mul_add_div (Nat.pos_of_ne_zero hs), Nat.div_eq_of_lt hlt, Nat.add_zero]
      have m1 : min i (r.n1 - 1) = i := by omega
      have d2 : j * r.s2 / r.s2 = j := Nat.mul_div_cancel _ (Nat.pos_of_ne_zero ht)
      simp only [d1, m1, Nat.add_sub_cancel_left, d2, h1, h2, hp, decide_true, beq_self_eq_true, Bool.and_self, if_true]

/-- What an instance found at an address is. -/
theorem RegKind.at_inst (k : RegKind) (a i j : Nat) (h : k.inst a = some (i, j)) : k.at i j = a ∧ k.valid i j := by
  have hr := regular_row k
  unfold RegRow.regular at hr
  unfold RegKind.inst at h
  unfold RegKind.valid RegKind.at
  generalize k.row = r at *
  dsimp only at h
  split at h
  · exact absurd h (by simp)
  · rename_i hb
    generalize hi : (if (r.s1 == 0) = true then 0 else if (r.s2 == 0) = true then (a - r.base) / r.s1
        else min ((a - r.base) / r.s1) (r.n1 - 1)) = p at h
    generalize hj : (if (r.s2 == 0) = true then 0 else (a - r.base - p * r.s1) / r.s2) = q at h
    split at h
    · rename_i hc
      simp only [Bool.and_eq_true, decide_eq_true_eq, beq_iff_eq, Bool.or_eq_true, Bool.not_eq_true'] at hc
      obtain ⟨⟨⟨c1, c2⟩, c3⟩, c4⟩ := hc
      simp only [Option.some.injEq, Prod.mk.injEq] at h
      obtain ⟨rfl, rfl⟩ := h
      refine ⟨?_, c1, c2, fun hp => by simpa [hp] using c4⟩
      rw [Nat.add_assoc, ← c3]
      have hle : p * r.s1 ≤ a - r.base := by
        rw [← hi]
        split
        · simp
        · split
          · exact Nat.div_mul_le_self _ _
          · exact Nat.le_trans (Nat.mul_le_mul_right _ (Nat.min_le_left _ _)) (Nat.div_mul_le_self _ _)
      omega
    · exact absurd h (by simp)

/-- Two rows that no address is common to: apart, one in a gap of the other, apart within each period, or apart modulo their
inner stride. -/
def RegRow.sep (r q : RegRow) : Bool :=
  let last (r : RegRow) : Nat := r.base + (r.n1 - 1) * r.s1 + (r.n2 - 1) * r.s2
  last r < q.base || last q < r.base ||
  (r.base + (r.n2 - 1) * r.s2 < q.base && last q < r.base + r.s1) ||
  (q.base + (q.n2 - 1) * q.s2 < r.base && last r < q.base + q.s1) ||
  (r.s1 == q.s1 && r.s1 != 0 && r.base % r.s1 + (r.n2 - 1) * r.s2 < r.s1 && q.base % r.s1 + (q.n2 - 1) * q.s2 < r.s1 &&
    (r.base % r.s1 + (r.n2 - 1) * r.s2 < q.base % r.s1 || q.base % r.s1 + (q.n2 - 1) * q.s2 < r.base % r.s1)) ||
  (r.s2 == q.s2 && r.s2 != 0 && r.s1 % r.s2 == 0 && q.s1 % r.s2 == 0 && r.base % r.s2 != q.base % r.s2)

theorem RegRow.sep_sound (r q : RegRow) (h : r.sep q = true) (i j i' j' : Nat) (h1 : i < r.n1) (h2 : j < r.n2)
    (h3 : i' < q.n1) (h4 : j' < q.n2) : r.base + i * r.s1 + j * r.s2 ≠ q.base + i' * q.s1 + j' * q.s2 := by
  intro he
  have up (r : RegRow) (i j : Nat) (h1 : i < r.n1) (h2 : j < r.n2) : i * r.s1 ≤ (r.n1 - 1) * r.s1 ∧ j * r.s2 ≤ (r.n2 - 1) * r.s2 :=
    ⟨Nat.mul_le_mul_right _ (by omega), Nat.mul_le_mul_right _ (by omega)⟩
  obtain ⟨a1, a2⟩ := up r i j h1 h2
  obtain ⟨a3, a4⟩ := up q i' j' h3 h4
  unfold RegRow.sep at h
  simp only [Bool.or_eq_true, Bool.and_eq_true, decide_eq_true_eq, beq_iff_eq, bne_iff_ne, ne_eq] at h
  have one (r : RegRow) (i : Nat) : i = 0 ∨ r.s1 ≤ i * r.s1 := by
    rcases Nat.eq_zero_or_pos i with h | h
    · exact .inl h
    · exact .inr (Nat.le_mul_of_pos_left _ h)
  rcases h with ((((h | h) | h) | h) | h) | h
  · omega
  · omega
  · rcases one r i with rfl | h'
    · rw [Nat.zero_mul] at *; omega
    · omega
  · rcases one q i' with rfl | h'
    · rw [Nat.zero_mul] at *; omega
    · omega
  · obtain ⟨⟨⟨⟨e, nz⟩, b1⟩, b2⟩, b3⟩ := h
    rw [← e] at he
    have m (b i j w : Nat) (hb : b % r.s1 + j < r.s1) : (b + i * r.s1 + j) % r.s1 = b % r.s1 + j := by
      have : b + i * r.s1 + j = (b % r.s1 + j) + r.s1 * (b / r.s1 + i) := by
        have := Nat.mod_add_div b r.s1
        rw [Nat.mul_add, Nat.mul_comm r.s1 i]
        omega
      rw [this, Nat.add_mul_mod_self_left, Nat.mod_eq_of_lt hb]
    have c1 := m r.base i (j * r.s2) 0 (by omega)
    have c2 := m q.base i' (j' * q.s2) 0 (by omega)
    rw [he, c2] at c1
    rcases b3 with b3 | b3 <;> omega
  · obtain ⟨⟨⟨⟨e, nz⟩, b1⟩, b2⟩, b3⟩ := h
    rw [← e] at he
    have m (b i s j : Nat) (hs : s % r.s2 = 0) : (b + i * s + j * r.s2) % r.s2 = b % r.s2 := by
      rw [Nat.add_mul_mod_self_right, Nat.add_mod, Nat.mul_mod, hs]
      simp
    have c1 := m r.base i r.s1 j b1
    have c2 := m q.base i' q.s1 j' b2
    rw [he, c2] at c1
    exact b3 c1.symm

/-- Every pair of a list is apart. -/
def sepAll : List RegRow → Bool
  | [] => true
  | r :: l => (l.all fun q => r.sep q) && sepAll l

set_option maxRecDepth 100000 in
theorem sepAll_mgmt : sepAll (mgmtKinds.map RegKind.row) = true := by decide
set_option maxRecDepth 100000 in
theorem sepAll_die : sepAll (dieKinds.map RegKind.row) = true := by decide
set_option maxRecDepth 100000 in
theorem sepAll_port : sepAll (portKinds.map RegKind.row) = true := by decide

/-- The highest address at which an instance of a row starts. -/
def RegRow.last (r : RegRow) : Nat := r.base + (r.n1 - 1) * r.s1 + (r.n2 - 1) * r.s2

theorem RegKind.at_bounds (k : RegKind) (i j : Nat) (h : k.valid i j) : k.row.base ≤ k.at i j ∧ k.at i j ≤ k.row.last := by
  obtain ⟨h1, h2, -⟩ := h
  have a1 : i * k.row.s1 ≤ (k.row.n1 - 1) * k.row.s1 := Nat.mul_le_mul_right _ (by omega)
  have a2 : j * k.row.s2 ≤ (k.row.n2 - 1) * k.row.s2 := Nat.mul_le_mul_right _ (by omega)
  unfold RegKind.at RegRow.last
  omega

/-- The kinds of the window an address lies in. -/
def kindsAt (a : Nat) : List RegKind := if a < portBase then dieKinds else if a < mgmtBase then portKinds else mgmtKinds

theorem sepAll_cons (r : RegRow) (l : List RegRow) (h : sepAll (r :: l) = true) (q : RegRow) (hq : q ∈ l) : r.sep q = true := by
  simp only [sepAll, Bool.and_eq_true, List.all_eq_true] at h
  exact h.1 q hq

/-- In a list of kinds that are apart, the first that has a register at an instance's address is the instance's own. -/
theorem findSome_at (k : RegKind) (i j : Nat) (hv : k.valid i j) : ∀ l : List RegKind, sepAll (l.map RegKind.row) = true → k ∈ l →
    l.findSome? (fun q => (q.inst (k.at i j)).map fun (i, j) => (q, i, j)) = some (k, i, j)
  | [], _, hk => absurd hk List.not_mem_nil
  | q :: l, hs, hk => by
    rw [List.findSome?_cons]
    cases hq : q.inst (k.at i j) with
    | some x =>
      obtain ⟨i', j'⟩ := x
      obtain ⟨he, hv'⟩ := RegKind.at_inst q _ _ _ hq
      rcases List.mem_cons.1 hk with rfl | hk'
      · rw [RegKind.inst_at k i j hv] at hq
        cases hq
        rfl
      · exact absurd he (RegRow.sep_sound _ _ (sepAll_cons _ _ hs _ (List.mem_map_of_mem hk')) _ _ _ _ hv'.1 hv'.2.1 hv.1 hv.2.1)
    | none =>
      rcases List.mem_cons.1 hk with rfl | hk'
      · rw [RegKind.inst_at k i j hv] at hq
        cases hq
      · simp only [Option.map_none]
        refine findSome_at k i j hv l ?_ hk'
        simp only [List.map_cons, sepAll, Bool.and_eq_true] at hs
        exact hs.2

theorem kinds_window (k : RegKind) :
    (k ∈ dieKinds ∧ k.row.last < portBase) ∨ (k ∈ portKinds ∧ portBase ≤ k.row.base ∧ k.row.last < mgmtBase) ∨
      (k ∈ mgmtKinds ∧ mgmtBase ≤ k.row.base) := by
  cases k <;> decide

/-- **The register map names each register once**: the register that starts at an instance's address is that instance. -/
theorem regAt_at (k : RegKind) (i j : Nat) (hv : k.valid i j) : regAt (k.at i j) = some (k, i, j) := by
  obtain ⟨b1, b2⟩ := RegKind.at_bounds k i j hv
  unfold regAt
  have hpm : portBase < mgmtBase := by decide
  rcases kinds_window k with ⟨hk, hb⟩ | ⟨hk, hb, hc⟩ | ⟨hk, hb⟩
  · rw [if_pos (by omega)]
    exact findSome_at k i j hv _ sepAll_die hk
  · rw [if_neg (by omega), if_pos (by omega)]
    exact findSome_at k i j hv _ sepAll_port hk
  · rw [if_neg (by omega), if_neg (by omega)]
    exact findSome_at k i j hv _ sepAll_mgmt hk

/-- Instances of the map that start at one address are the same. -/
theorem RegKind.at_inj (k q : RegKind) (i j i' j' : Nat) (hk : k.valid i j) (hq : q.valid i' j') (h : k.at i j = q.at i' j') :
    k = q ∧ i = i' ∧ j = j' := by
  have := regAt_at k i j hk
  rw [h, regAt_at q i' j' hq] at this
  cases this
  exact ⟨rfl, rfl, rfl⟩

/-! ### Reading what was written -/

theorem State.reg_lt (s : State) (k : RegKind) (i j : Nat) : s.reg k i j < 2 ^ 64 := (kget s.regs (k.at i j) _).isLt
theorem State.reg_setReg (s : State) (k : RegKind) (v i j : Nat) : (s.setReg k v i j).reg k i j = v % 2 ^ 64 := by
  simp [State.reg, State.setReg]
/-- Another register is as it was. -/
theorem State.reg_setReg_ne (s : State) (k q : RegKind) (v i j a b : Nat) (hk : k.valid i j) (hq : q.valid a b)
    (h : (q, a, b) ≠ (k, i, j)) : (s.setReg k v i j).reg q a b = s.reg q a b := by
  have hne : q.at a b ≠ k.at i j := fun he => h (by
    obtain ⟨rfl, rfl, rfl⟩ := RegKind.at_inj q k a b i j hq hk he
    rfl)
  simp only [State.reg, State.setReg, kget_kputD_ne _ _ _ _ _ _ (Ne.symm hne)]
theorem State.reg_setFld (s : State) (k : RegKind) (lo w v i j : Nat) (h : lo + w ≤ 64) :
    (s.setFld k lo w v i j).reg k i j = setBits (s.reg k i j) lo w v := by
  rw [State.setFld, State.reg_setReg, Nat.mod_eq_of_lt (setBits_lt _ _ _ _ _ h (s.reg_lt k i j))]
theorem State.reg_setFld_ne (s : State) (k q : RegKind) (lo w v i j a b : Nat) (hk : k.valid i j) (hq : q.valid a b)
    (h : (q, a, b) ≠ (k, i, j)) : (s.setFld k lo w v i j).reg q a b = s.reg q a b := State.reg_setReg_ne s k q _ i j a b hk hq h
/-- The field that was set. -/
theorem State.fld_setFld (s : State) (k : RegKind) (lo w v i j : Nat) (h : lo + w ≤ 64) :
    (s.setFld k lo w v i j).fld k lo w i j = v % 2 ^ w := by
  rw [State.fld, State.reg_setFld s k lo w v i j h, bits_setBits]
/-- Another field of the same register. -/
theorem State.fld_setFld_apart (s : State) (k : RegKind) (lo w v i j l n : Nat) (h : lo + w ≤ 64) (ha : lo + w ≤ l ∨ l + n ≤ lo) :
    (s.setFld k lo w v i j).fld k l n i j = s.fld k l n i j := by
  rw [State.fld, State.reg_setFld s k lo w v i j h, State.fld]
  rcases ha with ha | ha
  · exact bits_setBits_above _ _ _ _ _ _ ha
  · exact bits_setBits_below _ _ _ _ _ _ ha
/-- A field of another register. -/
theorem State.fld_setFld_ne (s : State) (k q : RegKind) (lo w v i j a b l n : Nat) (hk : k.valid i j) (hq : q.valid a b)
    (h : (q, a, b) ≠ (k, i, j)) : (s.setFld k lo w v i j).fld q l n a b = s.fld q l n a b := by
  rw [State.fld, State.reg_setFld_ne s k q lo w v i j a b hk hq h, State.fld]

end Sys2Proof.Machine
end

