-- ==== Sys2Proof/Laws/Access.lean ====
section
/-! SUPPORT. What a command that writes one register outside the tiles does on a device in which nothing waits: the write is carried out,
and nothing else. -/

namespace Sys2Proof.Machine

/-- Whether an address belongs to a register of the device outside the tiles. -/
def Place.isReg : Place → Bool
  | .die _ _ | .port _ _ | .mgmt _ => true
  | _ => false

/-- An access that no boundary of R36 cuts, outside the tiles, is served in one part. -/
theorem State.runs_one (s : State) (a n : Nat) (h0 : 0 < n) (h : n ≤ s.runTo a) (hp : (s.place a).isReg = true) :
    s.runs a n = [(a, n)] := by
  have hc (f : Nat) : s.cut (f + 1) a n = [(a, n)] := by
    have hk : max 1 (min n (s.runTo a)) = n := by omega
    have hn : (n == 0) = false := by simp; omega
    have hz (g b : Nat) : s.cut g b 0 = [] := by cases g <;> simp [State.cut]
    simp [State.cut, hn, hk, hz]
  unfold State.runs State.parts
  rw [show n / 4096 + 8 = (n / 4096 + 7) + 1 from rfl, hc]
  simp only [State.joinRuns, List.flatMap_cons, List.flatMap_nil, List.append_nil]
  cases hq : s.place a <;> simp_all [Place.isReg]

theorem slice_all (l : List Byte) : slice l 0 l.length = l := by simp [slice]

/-- A sized write of register space outside the tiles is sent to the unit that holds the register (R11, R13, R37). -/
theorem State.memWrite_reg (s : State) (m : Master) (a : Nat) (data : List Byte) (h0 : 0 < data.length)
    (h : data.length ≤ s.runTo a) (hp : (s.place a).isReg = true) (hd : s.plain) (hz : regSized a data.length = true) :
    s.memWrite m a data = { s with unitOut := s.unitOut ++ [(m, a, data)] } := by
  unfold State.memWrite
  rw [State.runs_one s a data.length h0 h hp]
  have hs : slice data ((a + 2 ^ 48 - a) % 2 ^ 48) data.length = data := by
    rw [Nat.add_sub_cancel_left, Nat.mod_self, slice_all]
  simp only [List.foldl_cons, List.foldl_nil, hs, hz, if_true]
  cases hq : s.place a <;> simp_all [Place.isReg, State.inIngress]

theorem foldl_fixed {α β : Type} (f : α → β → α) (a : α) : ∀ l : List β, (∀ b ∈ l, f a b = a) → l.foldl f a = a
  | [], _ => rfl
  | b :: l, h => by
    rw [List.foldl_cons, h b List.mem_cons_self]
    exact foldl_fixed f a l fun c hc => h c (List.mem_cons_of_mem _ hc)

/-- No packet or segment waits for another event: the ingress buffers are as they were. -/
theorem State.pump_idle (u : State) (h1 : u.segWait = []) (h2 : ∀ x ∈ u.ctxs, (u.ctx x.1).held = []) (h3 : u.xoff = []) : u.pump = u := by
  cases hf : u.fatal
  case true => simp [State.pump, hf]
  have hr : u.segRetry = u := by
    unfold State.segRetry
    rw [h1]
    show ({ u with segWait := [] } : State) = u
    rw [← h1]
  unfold State.pump
  simp only [hr, hf]
  rw [foldl_fixed _ _ _ fun x hx => by simp [h2 x hx]]
  simp [h3]

theorem kinds_room (k : RegKind) :
    (dieBase ≤ k.row.base ∧ k.row.last < 0x210400000000) ∨ (portBase ≤ k.row.base ∧ k.row.last < 0x220200000000) ∨
      (mgmtBase ≤ k.row.base ∧ k.row.last < 0x230040000000) := by
  cases k <;> decide

/-- A sized access to a register is one part, in register space. -/
theorem State.reg_place (s : State) (k : RegKind) (i j n : Nat) (hv : k.valid i j) (hd : s.plain)
    (hz : regSized (k.at i j) n = true) : n ≤ s.runTo (k.at i j) ∧ (s.place (k.at i j)).isReg = true ∧ 0 < n := by
  obtain ⟨b1, b2⟩ := RegKind.at_bounds k i j hv
  have hz' : (n = 4 ∧ k.at i j % 4 = 0) ∨ (n = 8 ∧ k.at i j % 8 = 0) := by simpa [regSized] using hz
  have e1 : dieBase = 0x210000000000 := rfl
  have e2 : portBase = 0x220000000000 := rfl
  have e3 : mgmtBase = 0x230000000000 := rfl
  generalize k.at i j = a at *
  unfold State.runTo State.place
  simp only [hd.1, hd.2, Option.isSome_none, Bool.false_and, Bool.false_eq_true, if_false]
  rcases kinds_room k with ⟨c1, c2⟩ | ⟨c1, c2⟩ | ⟨c1, c2⟩
  all_goals
    refine ⟨?_, ?_, by omega⟩
    · repeat (first | rw [if_neg (by omega)] | rw [if_pos (by omega)])
      omega
    · repeat (first | rw [if_neg (by omega)] | rw [if_pos (by omega)])
      rfl

/-- A command that is the write of one register: on a device in which nothing waits, that write and nothing else. -/
theorem State.busy_regWrite (s : State) (m : Master) (a : Nat) (data : List Byte) (on : s.on = true) (hs : s.still)
    (h0 : 0 < data.length) (h : data.length ≤ s.runTo a) (hp : (s.place a).isReg = true) (hd : s.plain)
    (hz : regSized a data.length = true) : s.busy (fun s => s.memWrite m a data) = s.regWrite m a data := by
  obtain ⟨h1, h2, h3, h4, -⟩ := hs
  unfold State.busy
  simp only [on, if_true, State.memWrite_reg s m a data h0 h hp hd hz, h2, List.nil_append]
  rw [State.pump_idle ({ s with unitOut := [(m, a, data)] } : State) h1 h3 h4]
  unfold State.settle
  show State.regWrite ({ s with unitOut := [] } : State) m a data = _
  rw [← h2]

/-- The same for the register of an instance. -/
theorem State.busy_reg (s : State) (m : Master) (k : RegKind) (i j : Nat) (data : List Byte) (on : s.on = true) (hs : s.still)
    (hv : k.valid i j) (hd : s.plain) (hz : regSized (k.at i j) data.length = true) :
    s.busy (fun s => s.memWrite m (k.at i j) data) = s.regWrite m (k.at i j) data := by
  obtain ⟨h, hp, h0⟩ := State.reg_place s k i j data.length hv hd hz
  exact State.busy_regWrite s m _ data on hs h0 h hp hd hz

/-- A write of 4 bytes to a 32-bit register, and of 8 bytes to a 64-bit one, is its action under the access codes (R6, R11, R14). -/
theorem State.regWrite_word (s : State) (m : Master) (k : RegKind) (i j : Nat) (data : List Byte) (hv : k.valid i j)
    (hw : k.row.wide = false) (hl : data.length = 4) (ha : k.at i j % 4 = 0) :
    s.regWrite m (k.at i j) data = (s.regAct k i j (leNat data) maskLow).cfgCheck k i j maskLow m := by
  have hr : regAt (k.at i j) = some (k, i, j) := regAt_at k i j hv
  simp [State.regWrite, hl, ha, State.regWrite32, write32, regHit, regWide, hr, hw, State.regPut]
theorem State.regWrite_wide (s : State) (m : Master) (k : RegKind) (i j : Nat) (data : List Byte) (hv : k.valid i j)
    (hw : k.row.wide = true) (hl : data.length = 8) (ha : k.at i j % 8 = 0) :
    s.regWrite m (k.at i j) data = (({ s with latches := write64 s.latches m (k.at i j) } : State).regAct k i j (leNat data) maskAll).cfgCheck
      k i j maskAll m := by
  have hr : regAt (k.at i j) = some (k, i, j) := regAt_at k i j hv
  simp [State.regWrite, hl, ha, regWide, hr, hw, State.regPut]

end Sys2Proof.Machine
end

