-- ==== Sys2Proof/Laws/Tile.lean ====
section
/-! SUPPORT. What the operations of a tile do: slots, registers, tokens, the frame of every issue, and a command of a tile. -/

namespace Sys2Proof.Machine

/-! ### Slots and registers -/

/-- Slot j after slot k is set. -/
theorem Tile.slot_setSlot (T : Tile) (k j : Nat) (x : Slot) : (T.setSlot k x).slot j = if k = j then x else T.slot j :=
  kget_kputD _ _ _ _ _
theorem Tile.slot_modSlot (T : Tile) (k j : Nat) (f : Slot → Slot) :
    (T.modSlot k f).slot j = if k = j then f (T.slot k) else T.slot j := Tile.slot_setSlot _ _ _ _
@[simp] theorem Tile.slot_modSlot_same (T : Tile) (k : Nat) (f : Slot → Slot) : (T.modSlot k f).slot k = f (T.slot k) := by
  simp [Tile.slot_modSlot]
/-- s[n] after s[d] is written: s0 stays zero (R78). -/
theorem Slot.sreg_setS (K : Slot) (d n : Nat) (v : BitVec 32) :
    (K.setS d v).sreg n = if n = d ∧ d ≠ 0 then v else K.sreg n := by
  unfold Slot.setS Slot.sreg
  by_cases hd : d = 0
  · simp [hd]
  · by_cases hn : n = 0
    · subst hn
      simp [hd, Ne.symm hd]
    · simp only [hd, beq_iff_eq, if_false, hn, kget_kputD, ne_eq, not_false_eq_true, and_true]
      by_cases h : d = n
      · simp [h]
      · simp [h, Ne.symm h]
@[simp] theorem Slot.sreg_zero (K : Slot) : K.sreg 0 = 0 := rfl
theorem Slot.areg_setA (K : Slot) (d n : Nat) (v : BitVec 48) : (K.setA d v).areg n = if n = d then v else K.areg n := by
  simp only [Slot.areg, Slot.setA, kget_kputD]
  by_cases h : d = n
  · simp [h]
  · simp [h, Ne.symm h]
@[simp] theorem Slot.areg_setS (K : Slot) (d n : Nat) (v : BitVec 32) : (K.setS d v).areg n = K.areg n := by
  simp [Slot.areg]
@[simp] theorem Slot.sreg_setA (K : Slot) (d n : Nat) (v : BitVec 48) : (K.setA d v).sreg n = K.sreg n := by
  simp [Slot.sreg]

/-! ### Tokens (R83, R109) -/

@[simp] theorem Tile.token_zero (T : Tile) : T.token 0 = 0 := rfl
theorem Tile.token_setToken (T : Tile) (k n : Nat) (v : BitVec 16) :
    (T.setToken k v).token n = if n = k ∧ k ≠ 0 then v else T.token n := by
  unfold Tile.setToken Tile.token
  by_cases hk : k = 0
  · simp [hk]
  · by_cases hn : n = 0
    · subst hn
      simp [hk, Ne.symm hk]
    · simp only [hk, beq_iff_eq, if_false, hn, kget_kputD, ne_eq, not_false_eq_true, and_true]
      by_cases h : k = n
      · simp [h]
      · simp [h, Ne.symm h]
/-- A token that is raised stops at 65,535. -/
theorem Tile.token_incToken (T : Tile) (k v n : Nat) :
    (T.incToken k v).token n = if n = k ∧ k ≠ 0 then BitVec.ofNat 16 (min ((T.token k).toNat + v) 65535) else T.token n := by
  unfold Tile.incToken
  by_cases hk : k = 0
  · simp [hk]
  · have h0 : (k == 0) = false := by simpa using hk
    simp only [h0, Bool.false_eq_true, if_false]
    split
    · rename_i h
      have e : min ((T.token k).toNat + v) 65535 = 65535 := by omega
      have := Tile.token_setToken T k n 65535#16
      rw [e]
      exact this
    · rename_i h
      have e : min ((T.token k).toNat + v) 65535 = (T.token k).toNat + v := by omega
      rw [e]
      exact Tile.token_setToken T k n _
@[simp] theorem Tile.token_modSlot (T : Tile) (k n : Nat) (f : Slot → Slot) : (T.modSlot k f).token n = T.token n := by
  simp [Tile.token]
@[simp] theorem Tile.slot_setToken (T : Tile) (k n : Nat) (v : BitVec 16) : (T.setToken n v).slot k = T.slot k := by
  simp [Tile.slot]
@[simp] theorem Tile.slot_incToken (T : Tile) (k n v : Nat) : (T.incToken n v).slot k = T.slot k := by simp [Tile.slot]

/-! ### The frame of an issue -/

theorem issueFrame_slot (T : Tile) (k j : Nat) (w : IWord) :
    (issueFrame T k w).slot j =
      if j = k ∧ w.row ≠ .halt then { T.slot k with pc := (T.slot k).pc + 1 } else T.slot j := by
  have h (T : Tile) : (if (w.wait == 0) = true then T else T.setToken w.wait (T.token w.wait - 1)).slot j = T.slot j := by
    split <;> simp
  have hk (T : Tile) : (if (w.wait == 0) = true then T else T.setToken w.wait (T.token w.wait - 1)).slot k = T.slot k := by
    split <;> simp
  unfold issueFrame
  dsimp only
  by_cases hw : w.row = .halt
  · simp only [hw, beq_self_eq_true, if_true, ne_eq, not_true_eq_false, and_false, if_false, h]
    rfl
  · have hb : (w.row == .halt) = false := by simpa using hw
    simp only [hb, Bool.false_eq_true, if_false, hw, ne_eq, not_false_eq_true, and_true, Tile.slot_modSlot, h, hk]
    by_cases hj : k = j
    · subst hj
      simp [Tile.slot]
    · simp [hj, Ne.symm hj, Tile.slot]

theorem issueFrame_token (T : Tile) (k n : Nat) (w : IWord) : (issueFrame T k w).token n = waitTaken T w n := by
  unfold issueFrame waitTaken
  dsimp only
  have h (U : Tile) (hU : ∀ m, U.token m = T.token m) :
      (if (w.wait == 0) = true then U else U.setToken w.wait (U.token w.wait - 1)).token n =
        if n = w.wait ∧ n ≠ 0 then T.token n - 1 else T.token n := by
    by_cases h0 : w.wait = 0
    · have : ¬ (n = w.wait ∧ n ≠ 0) := by omega
      simp [h0, hU]
    · have hb : (w.wait == 0) = false := by simpa using h0
      simp only [hb, Bool.false_eq_true, if_false, Tile.token_setToken, hU]
      by_cases hw : n = w.wait
      · subst hw
        simp [h0]
      · simp [hw]
  split
  · exact h _ fun _ => rfl
  · rw [Tile.token_modSlot]
    exact h _ fun _ => rfl

/-- Everything an issue's frame leaves alone, and the bookkeeping of R88. -/
theorem issueFrame_issued (T : Tile) (k : Nat) (w : IWord) :
    issueFrame T k w = { T.issued (issueFrame T k w) k w with tokenOvf := T.tokenOvf } := by
  unfold issueFrame Tile.setToken
  dsimp only
  by_cases h1 : (w.wait == 0) = true <;> by_cases h2 : (w.row == .halt) = true <;>
    simp only [h1, h2, if_true, if_false, Bool.false_eq_true] <;> rfl

/-- Signalling changes tokens and TOKEN_OVF only. -/
theorem Tile.incToken_eq (T : Tile) (n v : Nat) :
    T.incToken n v = { T with tokens := (T.incToken n v).tokens, tokenOvf := (T.incToken n v).tokenOvf } := by
  unfold Tile.incToken
  split
  · rfl
  · dsimp only
    split <;> (unfold Tile.setToken; split <;> rfl)
theorem signal_token (T : Tile) (w : IWord) (n : Nat) (C : Nat → BitVec 16) (h : ∀ m, T.token m = C m) :
    (signal T w).token n = signalled w C n := by
  unfold signal signalled
  rw [Tile.token_incToken]
  by_cases hn : n = w.sig
  · subst hn
    simp [h]
  · simp [hn, h]
theorem signal_ovf (T : Tile) (w : IWord) (C : Nat → BitVec 16) (h : ∀ m, T.token m = C m) :
    (signal T w).tokenOvf = signalOvf w C T.tokenOvf := by
  unfold signal signalOvf Tile.incToken
  by_cases h0 : w.sig = 0
  · simp [h0]
  · have hb : (w.sig == 0) = false := by simpa using h0
    simp only [hb, Bool.false_eq_true, if_false, h, ne_eq, h0, not_false_eq_true, true_and]
    have e : (C w.sig = 65535) ↔ (C w.sig).toNat + 1 > 65535 := by
      have := (C w.sig).isLt
      constructor
      · intro h; rw [h]; decide
      · intro h; apply BitVec.eq_of_toNat_eq; simp; omega
    by_cases hc : C w.sig = 65535
    · rw [if_pos (e.1 hc), if_pos hc]
    · rw [if_neg (fun h => hc (e.2 h)), if_neg hc]
      simp

/-! ### A command of a tile -/

@[simp] theorem State.tile_setTile_same (s : State) (c : Nat) (T : Tile) : (s.setTile c T).tile c = T := by
  simp [State.tile, State.setTile]
theorem State.tile_setTile (s : State) (c d : Nat) (T : Tile) : (s.setTile c T).tile d = if c = d then T else s.tile d := by
  simp [State.tile, State.setTile, kget_kput]
theorem State.tile_modTile (s : State) (c d : Nat) (f : Tile → Tile) :
    (s.modTile c f).tile d = if c = d then f (s.tile c) else s.tile d := State.tile_setTile _ _ _ _
@[simp] theorem State.during_tile (s t : State) (c : Nat) : (s.during t).tile c = t.tile c := rfl
/-- A change of one tile changes nothing else. -/
theorem State.onlyTile_setTile (s : State) (c : Nat) (T : Tile) : OnlyTile s (s.during (s.setTile c T)) c := by
  refine ⟨rfl, fun d hd => ?_⟩
  rw [State.during_tile, State.tile_setTile, if_neg (Ne.symm hd)]

/-- A tile that asks nothing of the device is the only thing that changes. -/
theorem State.onTile_nil (s : State) (c : Nat) (f : Tile → Tile × List TileOut) (h : (f (s.tile c)).2 = []) :
    s.onTile c f = s.setTile c (f (s.tile c)).1 := by
  simp [State.onTile, State.outs, h]
/-- An issue: the frame, then the instruction's own effect. -/
theorem tileIssue_eq (T : Tile) (r : TRow) (eff : Tile → Nat → IWord → Tile × List TileOut) (busy : BitVec 8) (k : Nat) (w : IWord)
    (hp : T.pickSlot busy = some k) (hf : T.fetch k = w) (hr : w.row = r) (hn : faultOf T k w = none) :
    tileIssue r eff busy T = eff (issueFrame T k w) k w := by
  simp [tileIssue, hp, hf, hr, hn]
/-- The command of an instruction that issues. -/
theorem State.tileRow_issues (s : State) (t : TileId) (busy : BitVec 8) (r : TRow) (k : Nat) (w : IWord)
    (eff : Tile → Nat → IWord → Tile × List TileOut) (h : Issues s t busy r k w) :
    s.tileRow t (tileIssue r eff busy) =
      ((s.setTile (tileCode t) (eff (issueFrame (s.tile (tileCode t)) k w) k w).1).outs (tileCode t)
        (eff (issueFrame (s.tile (tileCode t)) k w) k w).2) := by
  obtain ⟨h1, h2, h3, h4, h5⟩ := h
  simp [State.tileRow, State.live, h1, State.onTile, tileIssue_eq _ _ _ _ _ _ h2 h3 h4 h5]
/-- A slot that is picked is ready, and is not held back. -/
theorem Tile.ready_of_pick (T : Tile) (busy : BitVec 8) (k : Nat) (h : T.pickSlot busy = some k) : T.ready k = true := by
  have := List.find?_some h
  simp only [Bool.and_eq_true] at this
  exact this.2

/-- A command of a tile on a device whose clocks run. -/
theorem State.tileRow_on (s : State) (t : TileId) (f : Tile → Tile × List TileOut) (h : s.on = true) :
    s.tileRow t f = s.onTile (tileCode t) f := by
  simp [State.tileRow, State.live, h]
theorem State.live_on (s : State) (f : State → State) (h : s.on = true) : s.live f = f s := by simp [State.live, h]
theorem State.live_off (s : State) (f : State → State) (h : s.on = false) : s.live f = s := by simp [State.live, h]
theorem State.busy_on (s : State) (f : State → State) (h : s.on = true) : s.busy f = (f s).pump.settle := by simp [State.busy, h]
theorem State.busy_off (s : State) (f : State → State) (h : s.on = false) : s.busy f = s := by simp [State.busy, h]

/-- The command of an instruction that asks nothing of the device: g is the tile after it. -/
theorem issued_of (s : State) (t : TileId) (busy : BitVec 8) (r : TRow) (k : Nat) (w : IWord)
    (eff : Tile → Nat → IWord → Tile × List TileOut) (g : Tile → Tile) (X : Tile → Tile) (C : Nat → BitVec 16) (O : BitVec 64)
    (P : Tile → Prop) (h : Issues s t busy r k w)
    (he : eff (issueFrame (s.tile (tileCode t)) k w) k w = (g (issueFrame (s.tile (tileCode t)) k w), []))
    (hX : ∀ U : Tile, g (issueFrame (s.tile (tileCode t)) k w) = U → U = X ((s.tile (tileCode t)).issued U k w))
    (hC : ∀ n, (g (issueFrame (s.tile (tileCode t)) k w)).token n = C n)
    (hO : (g (issueFrame (s.tile (tileCode t)) k w)).tokenOvf = O) (hP : P (g (issueFrame (s.tile (tileCode t)) k w))) :
    Issued s (s.during (s.tileRow t (tileIssue r eff busy))) t k w C O X P := by
  rw [State.tileRow_issues s t busy r k w _ h, he]
  refine ⟨State.onlyTile_setTile _ _ _, ?_, ?_, ?_, ?_⟩
  · simpa [State.outs] using hX _ rfl
  · intro n
    simpa [State.outs] using hC n
  · simpa [State.outs] using hO
  · simpa [State.outs] using hP
/-- The same with the signal of R85 at the end. -/
theorem issued_signal (s : State) (t : TileId) (busy : BitVec 8) (r : TRow) (k : Nat) (w : IWord)
    (eff : Tile → Nat → IWord → Tile × List TileOut) (g : Tile → Tile) (X : Tile → Tile) (C : Nat → BitVec 16) (O : BitVec 64)
    (P : Tile → Prop) (h : Issues s t busy r k w)
    (he : eff (issueFrame (s.tile (tileCode t)) k w) k w = (signal (g (issueFrame (s.tile (tileCode t)) k w)) w, []))
    (hX : ∀ U : Tile, signal (g (issueFrame (s.tile (tileCode t)) k w)) w = U → U = X ((s.tile (tileCode t)).issued U k w))
    (hC : ∀ n, (g (issueFrame (s.tile (tileCode t)) k w)).token n = C n)
    (hO : (g (issueFrame (s.tile (tileCode t)) k w)).tokenOvf = O)
    (hP : P (signal (g (issueFrame (s.tile (tileCode t)) k w)) w)) :
    Issued s (s.during (s.tileRow t (tileIssue r eff busy))) t k w (signalled w C) (signalOvf w C O) X P := by
  refine issued_of s t busy r k w eff (fun U => signal (g U) w) X _ _ P h he hX (fun n => signal_token _ w n C hC) ?_ hP
  have := signal_ovf _ w C hC
  rw [hO] at this
  exact this

/-- An instruction that changes its own slot, tokens apart. -/
theorem ran_slot (s : State) (t : TileId) (busy : BitVec 8) (r : TRow) (k : Nat) (w : IWord)
    (eff : Tile → Nat → IWord → Tile × List TileOut) (f : Slot → Slot) (pc : BitVec 13) (S : Nat → BitVec 32) (A : Nat → BitVec 48)
    (h : Issues s t busy r k w) (hr : r ≠ .halt)
    (he : eff (issueFrame (s.tile (tileCode t)) k w) k w = slotStep (issueFrame (s.tile (tileCode t)) k w) k w f)
    (hk : SlotHas (f { (s.tile (tileCode t)).slot k with pc := ((s.tile (tileCode t)).slot k).pc + 1 })
      ((s.tile (tileCode t)).slot k).st pc S A ((s.tile (tileCode t)).slot k).code) :
    Ran s (s.during (s.tileRow t (tileIssue r eff busy))) t k w id pc S A := by
  have hw : w.row ≠ .halt := by rw [h.2.2.2.1]; exact hr
  apply issued_signal s t busy r k w eff (fun U => U.modSlot k f) id (waitTaken _ w) _ _ h he
  · intro U hU
    rw [← hU, signal, Tile.incToken_eq, issueFrame_issued]
    rfl
  · intro n
    simp [issueFrame_token]
  · simp only [Tile.modSlot_tokenOvf]
    rw [issueFrame_issued]
  · refine ⟨fun j hj => ?_, ?_⟩
    · simp [signal, Tile.slot_modSlot, Ne.symm hj, issueFrame_slot, hj]
    · simpa [signal, issueFrame_slot, hw] using hk
/-- An instruction whose only effect is to have run. -/
theorem ran_none (s : State) (t : TileId) (busy : BitVec 8) (r : TRow) (k : Nat) (w : IWord)
    (eff : Tile → Nat → IWord → Tile × List TileOut) (h : Issues s t busy r k w) (hr : r ≠ .halt)
    (he : eff (issueFrame (s.tile (tileCode t)) k w) k w = (signal (issueFrame (s.tile (tileCode t)) k w) w, [])) :
    Ran s (s.during (s.tileRow t (tileIssue r eff busy))) t k w id (((s.tile (tileCode t)).slot k).pc + 1)
      ((s.tile (tileCode t)).slot k).sreg ((s.tile (tileCode t)).slot k).areg := by
  have hw : w.row ≠ .halt := by rw [h.2.2.2.1]; exact hr
  apply issued_signal s t busy r k w eff id id (waitTaken _ w) _ _ h he
  · intro U hU
    rw [← hU, signal, Tile.incToken_eq]
    simp only [id]
    rw [issueFrame_issued]
    rfl
  · intro n
    simp [issueFrame_token]
  · simp only [id]
    rw [issueFrame_issued]
  · refine ⟨fun j hj => ?_, ?_⟩
    · simp [signal, issueFrame_slot, hj]
    · simp only [signal, id, Tile.slot_incToken, issueFrame_slot, hw, ne_eq, not_false_eq_true, and_self, if_true]
      exact ⟨rfl, rfl, fun _ => rfl, fun _ => rfl, rfl⟩
/-- A word that issues is not ILLEGAL by its bits, and its task was ready. -/
theorem issues_legal {s : State} {t : TileId} {busy : BitVec 8} {r : TRow} {k : Nat} {w : IWord} (h : Issues s t busy r k w) :
    w.illegal = false := by
  have h5 := h.2.2.2.2
  unfold faultOf at h5
  cases hi : w.illegal
  · rfl
  · rw [hi] at h5
    simp at h5
theorem issues_ready {s : State} {t : TileId} {busy : BitVec 8} {r : TRow} {k : Nat} {w : IWord} (h : Issues s t busy r k w) :
    ((s.tile (tileCode t)).slot k).st = .live ∧ tokensReady (s.tile (tileCode t)) w = true ∧
      unitAccepts (s.tile (tileCode t)) k w = true := by
  have hr := Tile.ready_of_pick _ _ _ h.2.1
  unfold Tile.ready at hr
  rw [h.2.2.1] at hr
  simpa [issues_legal h] using hr

end Sys2Proof.Machine
end

