-- ==== Sys2Proof/Laws/Engine.lean ====
section
/-! SUPPORT. What a vector or convert instruction does as it starts and as it completes: groups of writes, each from what the groups before
it have left (R145, R156). -/

namespace Sys2Proof.Machine

@[simp] theorem Tile.wrote_nil (T : Tile) : T.wrote [] = T := rfl
theorem Tile.wrote_append (T : Tile) (a b : List EngWr) : T.wrote (a ++ b) = (T.wrote a).wrote b := List.foldl_append
/-- A write of an engine changes memory only. -/
theorem Tile.opndPut_eq (T : Tile) (x : Opnd) (off : Nat) (bs : List Byte) :
    T.opndPut x off bs = { T with mem := (T.opndPut x off bs).mem } := by
  unfold Tile.opndPut
  cases x <;> rfl
theorem Tile.wrote_eq (T : Tile) (ws : List EngWr) : T.wrote ws = { T with mem := (T.wrote ws).mem } := by
  induction ws generalizing T with
  | nil => rfl
  | cons w ws ih =>
    refine (ih (T.opndPut w.at' w.off w.data)).trans ?_
    have e : T.wrote (w :: ws) = (T.opndPut w.at' w.off w.data).wrote ws := rfl
    rw [e]
    generalize ((T.opndPut w.at' w.off w.data).wrote ws).mem = m
    rw [Tile.opndPut_eq T]
theorem mget_ocPuts_ne (l : List Byte) : ∀ (m : KMap Byte) (off a : Nat), (∀ i, i < l.length → a ≠ (off + i) % ocSize) →
    mget (ocPuts m off l) a = mget m a := by
  induction l with
  | nil => exact fun _ _ _ _ => rfl
  | cons b l ih =>
    intro m off a h
    unfold ocPuts
    rw [ih _ _ _ fun i hi => by
      have := h (i + 1) (by simp; omega)
      rwa [show off + 1 + i = off + (i + 1) by omega]]
    have h0 := h 0 (by simp)
    rw [mget_mput, if_neg fun e => h0 (by simpa using e.symm)]
/-- **Writes of an engine** leave every byte alone that none of them hits. -/
theorem Tile.wrote_outside (T : Tile) (ws : List EngWr) (a : Nat) (h : ∀ w ∈ ws, ¬ w.hits a) : mget (T.wrote ws).mem a = mget T.mem a := by
  induction ws generalizing T with
  | nil => rfl
  | cons w ws ih =>
    show mget ((T.opndPut w.at' w.off w.data).wrote ws).mem a = _
    rw [ih _ fun x hx => h x (List.mem_cons_of_mem _ hx)]
    have hw := h w List.mem_cons_self
    unfold EngWr.hits at hw
    unfold Tile.opndPut
    cases hx : w.at' with
    | reg o =>
      rw [hx] at hw
      rw [mget_mputs, if_neg hw]
    | oc o =>
      rw [hx] at hw
      exact mget_ocPuts_ne _ _ _ _ fun i hi he => hw ⟨i, hi, by simpa using he⟩
    | scal v => rfl

theorem Flags.or_assoc (a b c : Flags) : (a.or b).or c = a.or (b.or c) := by
  simp [Flags.or, Bool.or_assoc]
@[simp] theorem Flags.none_or (a : Flags) : fNone.or a = a := by simp [Flags.or, fNone]
@[simp] theorem Flags.or_none (a : Flags) : a.or fNone = a := by simp [Flags.or, fNone]
theorem Flags.foldl_or (l : List Flags) (a : Flags) : l.foldl Flags.or a = a.or (l.foldl Flags.or fNone) := by
  induction l generalizing a with
  | nil => simp
  | cons b l ih => rw [List.foldl_cons, List.foldl_cons, ih, ih (fNone.or b), Flags.none_or, Flags.or_assoc]
@[simp] theorem Flags.ofBits_bits (f : Flags) : Flags.ofBits f.bits = f := by
  rcases f with ⟨_ | _, _ | _, _ | _, _ | _⟩ <;> decide

/-- **A loop over groups**, each of which makes the writes W gives and raises the flags F gives, of the tile as it stands. -/
theorem groups_fold (T : Tile) (body : VecRun → Nat → VecRun) (W : Tile → Nat → List EngWr) (F : Tile → Nat → Flags)
    (h : ∀ (r : VecRun) (g : Nat), body r g = { T := r.T.wrote (W r.T g), wr := r.wr ++ W r.T g, f := r.f.or (F r.T g) }) (n : Nat) :
    ∃ ws : List (List EngWr), ws.length = n ∧
      (∀ g, g < n → ws[g]? = some (W (T.wrote (ws.take g).flatten) g)) ∧
      (List.range n).foldl body { T := T } =
        { T := T.wrote ws.flatten, wr := ws.flatten, f := ((List.range n).map fun g => F (T.wrote (ws.take g).flatten) g).foldl Flags.or fNone } := by
  induction n with
  | zero => exact ⟨[], rfl, fun g hg => absurd hg (Nat.not_lt_zero _), rfl⟩
  | succ n ih =>
    obtain ⟨ws, hl, hw, he⟩ := ih
    refine ⟨ws ++ [W (T.wrote ws.flatten) n], by simp [hl], fun g hg => ?_, ?_⟩
    · rw [List.take_append_of_le_length (by omega)]
      by_cases hgn : g < n
      · rw [List.getElem?_append_left (by omega)]
        exact hw g hgn
      · have : g = n := by omega
        subst this
        rw [← hl, List.take_length, List.getElem?_concat_length]
    · rw [List.range_succ, List.foldl_append, he, List.foldl_cons, List.foldl_nil, h]
      have hm : ((List.range n).map fun g => F (T.wrote ((ws ++ [W (T.wrote ws.flatten) n]).take g).flatten) g) =
          (List.range n).map fun g => F (T.wrote (ws.take g).flatten) g :=
        List.map_congr_left fun g hg => by rw [List.take_append_of_le_length (by have := List.mem_range.1 hg; omega)]
      have hlast : (ws ++ [W (T.wrote ws.flatten) n]).take n = ws := by rw [← hl, List.take_left']; rfl
      simp only [List.flatten_append, List.flatten_cons, List.flatten_nil, List.append_nil, Tile.wrote_append, List.map_append, List.map_cons,
        List.map_nil, List.foldl_append, List.foldl_cons, List.foldl_nil, hm, hlast]
/-- The same as `InGroups` says it of the instruction as it has started. -/
theorem inGroups_of_fold (T : Tile) (o : EngOp) (body : VecRun → Nat → VecRun) (W : Tile → Nat → List EngWr) (F : Tile → Nat → Flags)
    (h : ∀ (r : VecRun) (g : Nat), body r g = { T := r.T.wrote (W r.T g), wr := r.wr ++ W r.T g, f := r.f.or (F r.T g) }) (n : Nat) :
    let r := (List.range n).foldl body { T := T }
    InGroups T { o with wr := r.wr, fl := r.f.bits } n W F := by
  obtain ⟨ws, hl, hw, he⟩ := groups_fold T body W F h n
  intro r
  exact ⟨ws, by simp [r, he], hl, hw, by simp [r, he]⟩
/-- What one write of a running instruction makes of it. -/
theorem VecRun.put_eq (r : VecRun) (x : Opnd) (off : Nat) (data : List Byte) (f : Flags) :
    r.put x off data f = 
      { T := r.T.wrote [{ at' := x, off := off, data := data }], wr := r.wr ++ [{ at' := x, off := off, data := data }], f := r.f.or f } := rfl
theorem elementResult_eq (r : TRow) (fmt var a b c : Nat) (hf : fmt < 4) (hv : var < 4)
    (hr : r ∈ [TRow.vadd, .vmul, .vfma, .vcmp, .vsel, .vminmax, .vmov]) : elementResult r fmt var a b c = vecElem r fmt var a b c := by
  have h4 : ∀ n : Nat, n < 4 → n = 0 ∨ n = 1 ∨ n = 2 ∨ n = 3 := by omega
  simp only [List.mem_cons, List.not_mem_nil, or_false] at hr
  rcases hr with rfl | rfl | rfl | rfl | rfl | rfl | rfl <;> rcases h4 fmt hf with rfl | rfl | rfl | rfl <;>
    rcases h4 var hv with rfl | rfl | rfl | rfl <;> simp [elementResult, vecElem] <;> (split <;> simp_all)
/-- A loop over groups of elements, each one write to operand x. -/
theorem elementwise_of_fold (T : Tile) (o : EngOp) (cnt per : Nat) (x : Opnd) (size : Nat) (R : Tile → Nat → Nat → Nat → Nat × Flags)
    (body : VecRun → Nat → VecRun)
    (h : ∀ (r : VecRun) (g : Nat), body r g =
      let rs := (List.range (min per (cnt - g * per))).map fun i => R r.T g (min per (cnt - g * per)) i
      r.put x (g * per * size) (elemBytes size (rs.map (·.1))) ((rs.map (·.2)).foldl Flags.or fNone)) :
    let r := (List.range (cdiv cnt per)).foldl body { T := T }
    Elementwise T { o with wr := r.wr, fl := r.f.bits } cnt per x size R :=
  inGroups_of_fold T o body _ _ (fun r g => by
    rw [h r g, VecRun.put_eq]
    simp only [List.map_map]
    rfl) _
/-- **The element-wise instructions** (R143-R146). -/
theorem vecElementwise_groups (T : Tile) (o : EngOp) (hr : o.word.row ∈ [TRow.vadd, .vmul, .vfma, .vcmp, .vsel, .vminmax, .vmov]) :
    let w := o.word
    let cnt := w.f 0 14 + 1
    let fmt := w.f 16 2
    let per := if fmt == 1 then 128 else 64
    let s := vecSrcBytes fmt
    let d := vecDstBytes fmt
    let read := fun (U : Tile) (x : Opnd) size first n i => (U.elemsAt x size first n).getD i 0
    let r := vecElementwise { T := T } o
    Elementwise T { o with wr := r.wr, fl := r.f.bits } cnt per o.d d fun U g n i =>
      elementResult w.row fmt (w.f 14 2) (read U o.x s (g * per) n i) (read U o.y s (g * per) n i)
        (read U o.z (if w.row == .vsel then s else d) (g * per) n i) := by
  intro w cnt fmt per s d read r
  have h := elementwise_of_fold T o cnt per o.d d (fun U g n i =>
    elementResult w.row fmt (w.f 14 2) (read U o.x s (g * per) n i) (read U o.y s (g * per) n i)
      (read U o.z (if w.row == .vsel then s else d) (g * per) n i)) (fun (r : VecRun) g =>
    let n := min per (cnt - g * per)
    let as := r.T.elemsAt o.x s (g * per) n
    let bs := r.T.elemsAt o.y s (g * per) n
    let zs := r.T.elemsAt o.z (if w.row == .vsel then s else d) (g * per) n
    let rs := (List.range n).map fun i => vecElem w.row fmt (w.f 14 2) (as.getD i 0) (bs.getD i 0) (zs.getD i 0)
    r.put o.d (g * per * d) (elemBytes d (rs.map (·.1))) ((rs.map (·.2)).foldl Flags.or fNone)) (fun r g => by
      simp only [read, elementResult_eq w.row fmt (w.f 14 2) _ _ _ (bits_lt _ _ _) (bits_lt _ _ _) hr])
  exact h

end Sys2Proof.Machine
end

