-- ==== Sys2Proof/Laws/Flash.lean ====
section
/-! SUPPORT. Programming and erasing the flash keep its canonical form, and what they leave to read (R412, R434). -/

namespace Sys2Proof.Machine

theorem flWf_put (m : KMap Byte) (k : Nat) (b : Byte) (h : flWf m = true) : flWf (kputD m k b 0xFF) = true := by
  simp only [flWf, Bool.and_eq_true] at h ⊢
  unfold kputD
  split
  · exact ⟨krising_kdel _ _ _ h.1, all_kdel _ _ _ h.2⟩
  · rename_i hb
    exact ⟨krising_kput _ _ _ _ (Nat.zero_le _) h.1, all_kput _ _ _ _ (by simpa using hb) h.2⟩
/-- A program of bytes keeps the canonical form. -/
theorem flWf_flWrite (s : State) (d o : Nat) (l : List Byte) (h : flWf s.flash = true) : flWf (s.flWrite d o l).flash = true := by
  have gen : ∀ (x : List (Byte × Nat)) (m : KMap Byte), flWf m = true →
      flWf (x.foldl (fun m x => kputD m (flAddr d (o + x.2)) x.1 0xFF) m) = true := by
    intro x
    induction x with
    | nil => exact fun m hm => hm
    | cons y r ih => exact fun m hm => ih _ (flWf_put _ _ _ hm)
  exact gen l.zipIdx s.flash h

theorem krising_filter {α : Type} (p : Nat × α → Bool) (m : KMap α) (lo : Nat) (h : krising lo m = true) :
    krising lo (m.filter p) = true := by
  induction m generalizing lo with
  | nil => rfl
  | cons x r ih =>
    obtain ⟨a, w⟩ := x
    simp only [krising, Bool.and_eq_true, decide_eq_true_eq] at h
    cases hp : p (a, w)
    · simpa [hp] using krising_mono _ _ _ (by omega) (ih (a + 1) h.2)
    · simpa [hp, krising, h.1] using ih (a + 1) h.2
/-- An erase keeps the canonical form. -/
theorem flWf_flErase (s : State) (d o n : Nat) (h : flWf s.flash = true) : flWf (s.flErase d o n).flash = true := by
  simp only [flWf, Bool.and_eq_true] at h ⊢
  refine ⟨krising_filter _ _ _ h.1, ?_⟩
  simp only [State.flErase, List.all_eq_true, List.mem_filter] at h ⊢
  exact fun x hx => h.2 x hx.1
@[simp] theorem flWf_nil : flWf [] = true := rfl

end Sys2Proof.Machine
end

