-- ==== Sys2Proof/Laws/Frame.lean ====
section
/-! SUPPORT. What an event, and what an access of a master, can change of the state: a lemma for each shared operation. -/

namespace Sys2Proof.Machine

/-- Nothing differs but what events change. -/
def EvFrame (s t : State) : Prop := t = { s with regs := t.regs, events := t.events, lost := t.lost }
/-- Nothing differs but what accesses to memory and registers change. -/
def MemFrame (s t : State) : Prop :=
  t = { s with tiles := t.tiles, regs := t.regs, latches := t.latches, hbm := t.hbm, poison := t.poison, upset := t.upset, ueSince := t.ueSince,
               events := t.events, lost := t.lost, ingress := t.ingress, unitOut := t.unitOut, twinOut := t.twinOut,
               freeCount := t.freeCount }

theorem EvFrame.refl (s : State) : EvFrame s s := rfl
theorem EvFrame.trans {s t u : State} (h : EvFrame s t) (k : EvFrame t u) : EvFrame s u := by
  unfold EvFrame at *
  rw [k, h]
theorem MemFrame.refl (s : State) : MemFrame s s := rfl
theorem MemFrame.trans {s t u : State} (h : MemFrame s t) (k : MemFrame t u) : MemFrame s u := by
  unfold MemFrame at *
  rw [k, h]
theorem EvFrame.mem {s t : State} (h : EvFrame s t) : MemFrame s t := by
  unfold EvFrame MemFrame at *
  rw [h]
/-- A fold whose steps keep a relation that is reflexive and transitive. -/
theorem MemFrame.foldl {β : Type} (f : State → β → State) (l : List β) (h : ∀ s b, MemFrame s (f s b)) : ∀ s, MemFrame s (l.foldl f s) := by
  induction l with
  | nil => exact fun s => rfl
  | cons b l ih => exact fun s => (h s b).trans (ih (f s b))
theorem MemFrame.fold2 {β γ : Type} (f : State × γ → β → State × γ) (l : List β) (h : ∀ x b, MemFrame x.1 (f x b).1) :
    ∀ x, MemFrame x.1 (l.foldl f x).1 := by
  induction l with
  | nil => exact fun x => rfl
  | cons b l ih => exact fun x => (h x b).trans (ih (f x b))

theorem State.setReg_is (s : State) (k : RegKind) (v i j : Nat) : ∃ r, s.setReg k v i j = { s with regs := r } := ⟨_, rfl⟩
theorem State.setFld_is (s : State) (k : RegKind) (lo w v i j : Nat) : ∃ r, s.setFld k lo w v i j = { s with regs := r } :=
  State.setReg_is s k _ i j
theorem State.event_frame (s : State) (src typ : Nat) (data : List Byte) : EvFrame s (s.event src typ data) := by
  unfold State.event
  obtain ⟨r, hr⟩ : ∃ r, s.countClass (evClass typ) = { s with regs := r } := State.setFld_is _ _ _ _ _ _ _
  dsimp only
  rw [hr]
  split
  · rfl
  · split
    · rfl
    · obtain ⟨q, hq⟩ : ∃ q, ({ s with regs := r } : State).count .evLost 1 = { { s with regs := r } with regs := q } :=
        State.setFld_is _ _ _ _ _ _ _
      rw [hq]
      rfl
/-- An event changes no register but the counts of events (R474). -/
theorem State.event_reg (s : State) (src typ : Nat) (data : List Byte) (k : RegKind) (i j : Nat) (hv : k.valid i j)
    (h1 : k ≠ .evCounts) (h2 : k ≠ .evLost) : (s.event src typ data).reg k i j = s.reg k i j := by
  have vc : ∀ n, n < 4 ∨ True → RegKind.valid .evCounts 0 0 := fun _ _ => ⟨by decide, by decide, by decide⟩
  have c : (s.countClass (evClass typ)).reg k i j = s.reg k i j :=
    State.reg_setFld_ne s .evCounts k _ _ _ 0 0 i j (vc 0 (.inr trivial)) hv (by simp [h1])
  unfold State.event
  dsimp only
  split
  · exact c
  · split
    · exact c
    · have vl : RegKind.valid .evLost 0 0 := ⟨by decide, by decide, by decide⟩
      have := State.reg_setFld_ne (s.countClass (evClass typ)) .evLost k 0 64
        ((s.countClass (evClass typ)).fld .evLost 0 64 0 0 + 1) 0 0 i j vl hv (by simp [h2])
      exact this.trans c

theorem State.setReg_frame (s : State) (k : RegKind) (v i j : Nat) : EvFrame s (s.setReg k v i j) := rfl
theorem State.setFld_frame (s : State) (k : RegKind) (lo w v i j : Nat) : EvFrame s (s.setFld k lo w v i j) := rfl
theorem State.promiseVoid_frame (s : State) (a b : Nat) : EvFrame s (s.promiseVoid a b) := by
  unfold State.promiseVoid
  split
  · exact EvFrame.refl s
  · exact ((((State.setReg_frame _ _ _ _ _).trans (State.setReg_frame _ _ _ _ _)).trans (State.setReg_frame _ _ _ _ _)).trans
      (State.setReg_frame _ _ _ _ _)).trans (State.event_frame _ _ _ _)
theorem State.uncorrectable_frame (s : State) (m : Master) (a st loc : Nat) : MemFrame s (s.uncorrectable m a st loc) := by
  have h1 : ∀ u : State, MemFrame u { u with poison := insertNat (physOf st loc / 64) u.poison, ueSince := insertNat (physOf st loc / 64) u.ueSince } :=
    fun _ => rfl
  have h0 : ∀ (k : RegKind) (v : Nat), MemFrame s (s.satFld k 32 32 v st) := fun _ _ => (State.setFld_frame _ _ _ _ _ _ _).mem
  have h2 : ∀ u : State, MemFrame u (match m with
      | .portDie p => if u.fld .qmSpill 0 48 p.val ≤ a && a < u.fld .qmSpill 0 48 p.val + u.fld .qmSpill 48 14 p.val * 2 ^ 20 then
          u.promiseVoid 3 0 else u
      | _ => u) := by
    intro u
    cases m <;> try exact MemFrame.refl u
    dsimp only
    split
    · exact (State.promiseVoid_frame _ _ _).mem
    · exact MemFrame.refl u
  exact (((((h0 .stEcc 1).trans (State.setReg_frame _ .stUeAddr _ st 0).mem).trans (State.setReg_frame _ .stUeKind _ st 0).mem).trans
    (h1 _)).trans (State.event_frame _ _ _ _).mem).trans (h2 _)
theorem State.count_frame (s : State) (k : RegKind) (n i j : Nat) : MemFrame s (s.count k n i j) := (State.setFld_frame _ _ _ _ _ _ _).mem
theorem State.hbmSet_frame (s : State) (h : KMap Byte) : MemFrame s { s with hbm := h } := rfl
theorem State.upsetSet_frame (s : State) (u : KMap (List (Fin 68 × Byte))) : MemFrame s { s with upset := u } := rfl
theorem State.strike_frame (s : State) (g : Nat) (bad : List (Fin 68 × Byte)) : MemFrame s (s.strike g bad) := by
  unfold State.strike
  split
  · exact MemFrame.refl s
  · exact State.upsetSet_frame _ _
theorem State.checked_frame (s : State) (m : Master) (a st loc : Nat) : MemFrame s (s.checked m a st loc).1 := by
  have h1 : ∀ h u, MemFrame s { s with hbm := h, upset := u } := fun _ _ => rfl
  have h2 : ∀ u, MemFrame s { s with upset := u } := fun _ => rfl
  have h3 : ∀ v : State, MemFrame v (v.uncorrectable m a st loc) := fun v => State.uncorrectable_frame v m a st loc
  have h4 : ∀ v : State, MemFrame v (v.satFld .stEcc 0 32 1 st) := fun v => (State.setFld_frame v _ _ _ _ _ _).mem
  unfold State.checked
  dsimp only
  split
  · have k := h1 (mputs s.hbm (physOf st (loc / 64 * 64)) (withErrors (mgets s.hbm (physOf st (loc / 64 * 64)) 64)
      (kget s.upset (physOf st (loc / 64 * 64) / 64) []))) (kdel s.upset (physOf st (loc / 64 * 64) / 64))
    revert k
    generalize ({ s with hbm := _, upset := _ } : State) = v
    exact fun k => k.trans (h3 v)
  · have k := h2 (kdel s.upset (physOf st (loc / 64 * 64) / 64))
    revert k
    generalize ({ s with upset := _ } : State) = v
    intro k
    split
    · exact k.trans (h4 v)
    · exact k
theorem State.granule_frame (s : State) (m : Master) (a st loc : Nat) (bad : List (Fin 68 × Byte)) :
    MemFrame s (s.granule m a st loc bad).1 :=
  ((State.strike_frame s _ bad).trans (State.count_frame _ .stRd 64 st 0)).trans (State.checked_frame _ m a st loc)
theorem State.granuleWrite_frame (s : State) (m : Master) (a st loc : Nat) (data : List Byte) (bad : List (Fin 68 × Byte)) :
    MemFrame s (s.granuleWrite m a st loc data bad) := by
  unfold State.granuleWrite
  have h := (State.strike_frame s (physOf st loc / 64) bad).trans (State.count_frame _ .stWr 64 st 0)
  generalize (s.strike (physOf st loc / 64) bad).count .stWr 64 st = u at *
  dsimp only
  split
  · exact h.trans rfl
  · have k := (h.trans (State.count_frame u .stRd 64 st 0)).trans (State.checked_frame _ m a st loc)
    generalize ((u.count .stRd 64 st).checked m a st loc).1 = v at *
    exact k.trans (State.hbmSet_frame _ _)
theorem State.unmapped_frame (s : State) (src a : Nat) (m : Master) : MemFrame s (s.unmapped src a m) := (State.event_frame _ _ _ _).mem
theorem State.missed_frame (m : Master) : ∀ (l : List (Nat × Nat)) (s : State) (b : Option Nat), MemFrame s (s.missed m b l)
  | [], _, _ => rfl
  | (a, n) :: r, s, b => by
    unfold State.missed
    dsimp only
    have h : MemFrame s (match s.missing m a with
        | some x => if s.missing m a == b then s else s.unmapped x a m
        | none => s) := by
      split
      · split
        · exact MemFrame.refl s
        · exact State.unmapped_frame _ _ _ _
      · exact MemFrame.refl s
    exact h.trans (State.missed_frame m r _ _)
theorem State.writePieces_frame (m : Master) (data : List Byte) (a0 : Nat) :
    ∀ (l : List (Nat × Nat)) (s : State), MemFrame s (s.writePieces m data a0 l)
  | [], _ => rfl
  | (a, n) :: r, s => by
    unfold State.writePieces
    dsimp only
    split
    · split
      · exact State.writePieces_frame m data a0 r s
      · exact (State.granuleWrite_frame _ _ _ _ _ _ _).trans (State.writePieces_frame m data a0 r _)
    · exact State.writePieces_frame m data a0 r s
theorem State.readPieces_frame (m : Master) : ∀ (l : List (Nat × Nat)) (s : State), MemFrame s (s.readPieces m l).1
  | [], _ => rfl
  | (a, n) :: r, s => by
    unfold State.readPieces
    dsimp only
    split
    · split
      · exact State.readPieces_frame m r s
      · exact (State.granule_frame _ _ _ _ _ _).trans (State.readPieces_frame m r _)
    · exact State.readPieces_frame m r s
theorem State.hbmWrite_frame (m : Master) (data : List Byte) (a0 : Nat) (l : List (Nat × Nat)) (s : State) :
    MemFrame s (s.hbmWrite m data a0 l) :=
  (State.missed_frame m l s none).trans (State.writePieces_frame m data a0 l _)
theorem State.hbmRead_frame (m : Master) (l : List (Nat × Nat)) (s : State) : MemFrame s (s.hbmRead m l).1 :=
  (State.missed_frame m l s none).trans (State.readPieces_frame m l _)

theorem State.cfgIgnored_frame (s : State) (src a : Nat) (m : Master) : MemFrame s (s.cfgIgnored src a m) := (State.event_frame _ _ _ _).mem
theorem State.tileSet32_frame (s : State) (m : Master) (c o v : Nat) : MemFrame s (s.tileSet32 m c o v) := by
  unfold State.tileSet32
  dsimp only
  have h2 : MemFrame s (s.setTile c (tileWrite32 (s.tile c) m o v).1) := rfl
  generalize s.setTile c (tileWrite32 (s.tile c) m o v).1 = u at *
  have h1 := State.unmapped_frame u c (tileRegAddr c o) m
  generalize u.unmapped c (tileRegAddr c o) m = w at *
  split <;> split
  · exact h2.trans (State.cfgIgnored_frame _ _ _ _)
  · exact h2
  · exact (h2.trans h1).trans (State.cfgIgnored_frame _ _ _ _)
  · exact h2.trans h1
theorem State.tileRegWrite_frame (s : State) (m : Master) (c o : Nat) (d : List Byte) : MemFrame s (s.tileRegWrite m c o d) := by
  unfold State.tileRegWrite
  split
  · exact State.tileSet32_frame _ _ _ _ _
  · split
    · split
      · rfl
      · exact (State.tileSet32_frame _ _ _ _ _).trans (State.tileSet32_frame _ _ _ _ _)
    · rfl
/-- A message to the partner reaches no memory and no tile. -/
theorem State.tell_mem (s : State) (l : List TwMsg) : MemFrame s (s.tell l) := by
  unfold State.tell
  split <;> rfl
/-- **A write by a master** changes memory, tiles, and what it is recorded in; register writes go to the units that hold them. -/
theorem State.memWrite_frame (s : State) (m : Master) (a : Nat) (data : List Byte) : MemFrame s (s.memWrite m a data) := by
  unfold State.memWrite
  refine MemFrame.foldl _ _ (fun u x => ?_) s
  obtain ⟨b, n⟩ := x
  dsimp only
  have hr : ∀ (p : Bool) (d : List Byte), MemFrame u (if p then { u with unitOut := u.unitOut ++ [(m, b, d)] } else u) := by
    intro p d
    split <;> rfl
  cases u.place b with
  | hbm st loc => exact State.hbmWrite_frame _ _ _ _ _
  | entry => exact State.unmapped_frame _ _ _ _
  | trip st => exact State.unmapped_frame _ _ _ _
  | tile c off =>
    dsimp only
    split
    · rfl
    · split
      · exact State.tileRegWrite_frame _ _ _ _ _
      · exact State.unmapped_frame _ _ _ _
  | die d off => exact hr _ _
  | port p off =>
    dsimp only
    split
    · rfl
    · exact hr _ _
  | mgmt off => exact hr _ _
  | twin =>
    dsimp only
    split
    · exact State.tell_mem _ _
    · exact State.unmapped_frame _ _ _ _

end Sys2Proof.Machine
end

