-- ==== Sys2Proof/Laws/Read.lean ====
section
/-! SUPPORT. What reading sound memory does to the state: it counts what was read, and tells of addresses that are not mapped (R35, R274, R287). -/

namespace Sys2Proof.Machine

/-- No granule of DRAM is POISONED, and no symbol has gone bad. -/
abbrev State.clean (s : State) : Prop := s.poison = [] ∧ s.upset = []

/-- Nothing differs but events and the counts of events and of bytes read. -/
def Counted (s t : State) : Prop :=
  EvFrame s t ∧ ∀ (k : RegKind) (i j : Nat), k.valid i j → k ≠ .evCounts → k ≠ .evLost → k ≠ .stRd → t.reg k i j = s.reg k i j

theorem Counted.refl (s : State) : Counted s s := ⟨rfl, fun _ _ _ _ _ _ _ => rfl⟩
theorem Counted.trans {s t u : State} (h : Counted s t) (k : Counted t u) : Counted s u :=
  ⟨h.1.trans k.1, fun q i j v a b c => (k.2 q i j v a b c).trans (h.2 q i j v a b c)⟩
theorem Counted.clean {s t : State} (h : Counted s t) (c : s.clean) : t.clean := by
  have := h.1
  unfold EvFrame at this
  rw [this]
  exact c
theorem Counted.foldl {β : Type} (f : State → β → State) (l : List β) (h : ∀ s, ∀ b ∈ l, s.clean → Counted s (f s b)) :
    ∀ s, s.clean → Counted s (l.foldl f s) := by
  induction l with
  | nil => exact fun s _ => Counted.refl s
  | cons b l ih =>
    intro s c
    have hb := h s b List.mem_cons_self c
    exact hb.trans (ih (fun u x hx => h u x (List.mem_cons_of_mem _ hx)) _ (hb.clean c))
theorem State.event_counted (s : State) (src typ : Nat) (data : List Byte) : Counted s (s.event src typ data) :=
  ⟨State.event_frame s src typ data, fun k i j v a b _ => State.event_reg s src typ data k i j v a b⟩
theorem State.countRd_counted (s : State) (n st : Nat) (h : st < 16) : Counted s (s.count .stRd n st) :=
  ⟨State.setFld_frame _ _ _ _ _ _ _, fun k i j v _ _ c =>
    State.reg_setFld_ne s .stRd k _ _ _ st 0 i j ⟨h, by decide, by simp [RegKind.isPort]⟩ v (by simp [c])⟩

theorem foldl_lt {β : Type} (f : Nat → β → Nat) (m : Nat) (h : ∀ a b, a < m → f a b < m) : ∀ (l : List β) (a : Nat), a < m → l.foldl f a < m
  | [], _, ha => ha
  | _ :: l, _, ha => foldl_lt f m h l _ (h _ _ ha)
theorem fold_lt (g w n : Nat) : fold g w n < 2 ^ w :=
  foldl_lt _ _ (fun _ _ ha => Nat.xor_lt_two_pow ha (bits_lt _ _ _)) _ 0 (Nat.two_pow_pos w)
/-- An HBM address resolves to one of the 16 stacks (R271). -/
theorem State.resolve_lt (s : State) (a st loc : Nat) (h : s.resolve a = some (st, loc)) : st < 16 := by
  have f4 : ∀ g, fold g 4 6 < 16 := fun g => fold_lt g 4 6
  have f2 : ∀ g, fold g 2 12 < 4 := fun g => fold_lt g 2 12
  have tg : s.regionTarget (a >>> 36) < 16 := bits_lt _ 2 4
  have qd : s.regionMode (a >>> 36) = 2 → s.regionTarget (a >>> 36) ≤ 3 := by
    unfold State.regionMode State.regionTarget
    dsimp only
    split
    · omega
    · rename_i hc
      intro hm
      simp [hm] at hc
      omega
  unfold State.resolve at h
  dsimp only at h
  split at h
  · cases h
  · split at h
    · cases h
    · split at h <;> (obtain ⟨rfl, -⟩ := Prod.mk.inj (Option.some.inj h))
      · exact f4 _
      · rename_i hm
        have := qd hm
        have := f2 ((a % 2 ^ 36) >>> 12)
        omega
      · exact tg

theorem State.missed_counted (m : Master) : ∀ (l : List (Nat × Nat)) (b : Option Nat) (s : State), Counted s (s.missed m b l)
  | [], _, s => Counted.refl s
  | (a, _) :: r, b, s => by
    unfold State.missed
    dsimp only
    refine Counted.trans ?_ (State.missed_counted m r _ _)
    split
    · split
      · exact Counted.refl s
      · exact State.event_counted _ _ _ _
    · exact Counted.refl s
theorem State.checked_clean (s : State) (m : Master) (a st loc : Nat) (c : s.clean) : (s.checked m a st loc).1 = s := by
  have hb : badSymbols [] = [] := by decide
  have hk : ∀ k, kget s.upset k [] = [] := by rw [c.2]; exact fun _ => rfl
  have hd : ∀ k, kdel s.upset k = s.upset := by rw [c.2]; exact fun _ => rfl
  have hp : ∀ k, s.poison.contains k = false := by rw [c.1]; exact fun _ => rfl
  have hn : ([] : List Nat).length ≥ 2 ↔ False := by decide
  unfold State.checked
  simp only [hk, hd, hb, hp, List.length_nil]
  rfl
theorem State.granule_counted (s : State) (m : Master) (a st loc : Nat) (h : st < 16) (c : s.clean) : Counted s (s.granule m a st loc []).1 := by
  have hs : s.strike (physOf st loc / 64) [] = s := by simp [State.strike]
  have hc := State.countRd_counted s 64 st h
  unfold State.granule
  rw [hs, State.checked_clean _ m a st loc (hc.clean c)]
  exact hc
theorem State.readPieces_counted (m : Master) : ∀ (l : List (Nat × Nat)) (s : State), s.clean → Counted s (s.readPieces m l).1
  | [], s, _ => Counted.refl s
  | (a, _) :: r, s, c => by
    unfold State.readPieces
    cases hr : s.resolve a with
    | none => exact State.readPieces_counted m r s c
    | some x =>
      obtain ⟨st, loc⟩ := x
      dsimp only
      split
      · exact State.readPieces_counted m r s c
      · have hg := State.granule_counted s m a st loc (State.resolve_lt s a st loc hr) c
        exact hg.trans (State.readPieces_counted m r _ (hg.clean c))
theorem State.hbmRead_counted (s : State) (m : Master) (l : List (Nat × Nat)) (c : s.clean) : Counted s (s.hbmRead m l).1 := by
  have h := State.missed_counted m l none s
  exact h.trans (State.readPieces_counted m l _ (h.clean c))
theorem State.reads_counted (s : State) (m : Master) (l : List (Nat × Nat)) (c : s.clean) : Counted s (s.reads m l) :=
  Counted.foldl _ _ (fun _ _ _ => State.hbmRead_counted _ _ _) s c
theorem State.readRows_counted (s : State) (l : List (Nat × Nat × Nat)) (c : s.clean) : Counted s (s.readRows l) :=
  Counted.foldl _ _ (fun _ _ _ => State.reads_counted _ _ _) s c
/-- **Reading a whole area** of sound memory counts it, and nothing else but events. -/
theorem State.readAll_counted (s : State) (m : Master) (base n : Nat) (c : s.clean) : Counted s (s.readAll m base n) := by
  unfold State.readAll
  have hb : sortNat (s.poison ++ s.upset.map fun x => x.1) = [] := by rw [c.1, c.2]; rfl
  rw [hb]
  simp only [List.filterMap_nil, List.foldl_nil]
  have h1 : Counted s (if ((List.range 16).any fun st => s.tripped st) || !s.mapped base n then s.missed m none (s.parts base n) else s) := by
    split
    · exact State.missed_counted _ _ _ _
    · exact Counted.refl s
  refine h1.trans (Counted.foldl _ _ (fun u st hst _ => ?_) _ (h1.clean c))
  split
  · exact Counted.refl u
  · exact State.countRd_counted u _ st (List.mem_range.1 hst)

end Sys2Proof.Machine
end

