-- ==== Sys2Proof/Laws/Twin.lean ====
section
/-! SUPPORT. What hashing does to the state, and how long a digest is (R363-R366). -/

namespace Sys2Proof.Machine

/-- Nothing differs but digests, repair marks of jobs, events and the counts of events and of bytes read. -/
def Hashed (s t : State) : Prop :=
  t = { s with td := t.td, ad := t.ad, jobs := t.jobs, regs := t.regs, events := t.events, lost := t.lost } ∧
    ∀ (k : RegKind) (i j : Nat), k.valid i j → k ≠ .evCounts → k ≠ .evLost → k ≠ .stRd → t.reg k i j = s.reg k i j
theorem Hashed.trans {s t u : State} (h : Hashed s t) (k : Hashed t u) : Hashed s u := by
  refine ⟨?_, fun q i j v a b c => (k.2 q i j v a b c).trans (h.2 q i j v a b c)⟩
  have h1 := h.1
  have k1 := k.1
  rw [k1, h1]
theorem Counted.hashed {s t : State} (h : Counted s t) : Hashed s t := by
  refine ⟨?_, h.2⟩
  have h1 := h.1
  unfold EvFrame at h1
  rw [h1]
theorem Hashed.clean {s t : State} (h : Hashed s t) (c : s.clean) : t.clean := by
  have := h.1
  rw [this]
  exact c
theorem Hashed.foldl {β : Type} (f : State → β → State) (l : List β) (h : ∀ s b, s.clean → Hashed s (f s b)) :
    ∀ s, s.clean → Hashed s (l.foldl f s) := by
  induction l with
  | nil => exact fun s _ => (Counted.refl s).hashed
  | cons b l ih => exact fun s c => (h s b c).trans (ih _ ((h s b c).clean c))
/-- Hashing every table of sound memory. -/
theorem hashTables_hashed (s : State) (c : s.clean) : Hashed s s.hashTables := by
  unfold State.hashTables
  generalize s.openTables = l
  refine Hashed.foldl _ l (fun u t c => ?_) s c
  refine Hashed.trans (State.readRows_counted u (u.tableSlots t) c).hashed (?_ : Hashed (u.readRows (u.tableSlots t)) _)
  dsimp only
  generalize u.readRows (u.tableSlots t) = v
  generalize kputD v.td t (v.tabHash true 0 t) 0 = x
  exact ⟨rfl, fun _ _ _ _ _ _ _ => rfl⟩
/-- Hashing a job's areas of sound memory. -/
theorem hashAreas_hashed (s : State) (j : Nat) (c : s.clean) : Hashed s (s.hashAreas j) := by
  unfold State.hashAreas
  refine Hashed.foldl _ _ (fun u k c => ?_) s c
  have h := Counted.foldl (fun (s : State) b => s.readAll (.baseDie (Fin.ofNat 16 b)) (s.fld .twAreaAddr 0 48 k + b * 2 ^ 20) (2 ^ 20))
    (List.range (u.reg .twAreaLen k)) (fun v _ _ c => State.readAll_counted v _ _ _ c) u c
  exact h.hashed.trans ⟨rfl, fun _ _ _ _ _ _ _ => rfl⟩
/-- Reading the directory from sound memory: every entry that no trip hides. -/
theorem readDirectory_is (s : State) (c : s.clean) : ∃ d, Counted { s with dirMem := d } s.readDirectory ∧
    ((∀ x ∈ s.hbm, x.1 / 2 ^ 37 < 16) → d = s.hbm.filter fun (x : Nat × Byte) => !s.tripped (x.1 / 2 ^ 37)) := by
  have h := Counted.foldl (fun (s : State) (d : Nat) => s.readAll (.baseDie (Fin.ofNat 16 d)) (s.reg .emDir) 4194304)
    ((List.range 16).filter s.dieServes) (fun u _ _ c => State.readAll_counted u _ _ _ c) s c
  unfold State.readDirectory
  dsimp only
  generalize ((List.range 16).filter s.dieServes).foldl _ s = u at *
  have h1 := h.1
  unfold EvFrame at h1
  have hh : u.hbm = s.hbm := by rw [h1]
  refine ⟨u.hbm.filter fun (x : Nat × Byte) => !u.tripped (x.1 / 2 ^ 37), ⟨?_, h.2⟩, fun hm => ?_⟩
  · unfold EvFrame
    rw [h1]
  · rw [hh]
    refine List.filter_congr fun x hx => ?_
    have hr : u.reg .stStatus (x.1 / 2 ^ 37) 0 = s.reg .stStatus (x.1 / 2 ^ 37) 0 :=
      h.2 .stStatus _ _ ⟨hm x hx, by decide, by simp [RegKind.isPort]⟩ (by decide) (by decide) (by decide)
    simp only [State.tripped, State.fld, hr]
/-- **The start of a baseline on sound memory**: digests, repair marks and events apart, only the directory, the baseline and the messages
that leave differ, and no register but counts. -/
theorem baseStart_is (s : State) (c : s.clean) : ∃ d own out,
    Hashed { s with dirMem := d, baseline := some own, twinOut := out } s.baseStart ∧
    ((∀ x ∈ s.hbm, x.1 / 2 ^ 37 < 16) → d = s.hbm.filter fun (x : Nat × Byte) => !s.tripped (x.1 / 2 ^ 37)) := by
  obtain ⟨d, h0, hd⟩ := readDirectory_is s c
  have h1 := h0.hashed
  have h2 := h1.trans (hashTables_hashed s.readDirectory (h1.clean c))
  have h3 := h2.trans (Hashed.foldl (fun (s : State) j => (s.hashAreas j).modJob j fun J => { J with repaired := false }) s.twinJobs
    (fun u j c => (hashAreas_hashed u j c).trans ⟨rfl, fun _ _ _ _ _ _ _ => rfl⟩) _ (h2.clean c))
  unfold State.baseStart
  dsimp only
  generalize s.twinJobs.foldl _ _ = u at *
  unfold State.tell
  obtain ⟨e, hr⟩ := h3
  split
  · exact ⟨d, _, u.twinOut, ⟨by rw [e], hr⟩, hd⟩
  · exact ⟨d, _, _, ⟨by rw [e], hr⟩, hd⟩

/-- What a place of a device address, a table and a job depend on: registers alone, and none that counts. -/
def SameRegs (s t : State) : Prop :=
  ∀ (k : RegKind) (i j : Nat), k.valid i j → k ≠ .evCounts → k ≠ .evLost → k ≠ .stRd → t.reg k i j = s.reg k i j
theorem SameRegs.mode {s t : State} (h : SameRegs s t) (r : Nat) (hr : r < 24) : t.regionMode r = s.regionMode r ∧ t.regionTarget r = s.regionTarget r ∧
    t.fld .region 6 1 r = s.fld .region 6 1 r := by
  have e := h .region r 0 ⟨hr, by decide, fun hp => absurd hp (by decide)⟩ (by decide) (by decide) (by decide)
  unfold State.regionMode State.regionTarget State.fld
  rw [e]
  exact ⟨rfl, rfl, rfl⟩
theorem SameRegs.resolve {s t : State} (h : SameRegs s t) (a : Nat) : t.resolve a = s.resolve a := by
  unfold State.resolve
  dsimp only
  split
  · rfl
  · rename_i hr
    have b : ∀ st, t.firstBand (a >>> 36) st = s.firstBand (a >>> 36) st := fun st => by
      unfold State.firstBand
      congr 1
      refine List.map_congr_left fun k hk => ?_
      have hk := List.mem_range.1 hk
      obtain ⟨e1, e2, -⟩ := h.mode k (by omega)
      rw [e1, e2]
    obtain ⟨e1, e2, e3⟩ := h.mode (a >>> 36) (by omega)
    simp only [e1, e2, e3, b]
theorem SameRegs.phase {s t : State} (h : SameRegs s t) (j : Nat) (hj : j < 16) : t.phase j = s.phase j := by
  simp only [State.phase, State.fld, h .jStatus j 0 ⟨hj, by decide, fun hp => absurd hp (by decide)⟩ (by decide) (by decide) (by decide)]
theorem SameRegs.twinJobs {s t : State} (h : SameRegs s t) : t.twinJobs = s.twinJobs :=
  List.filter_congr fun j hj => by rw [h.phase j (List.mem_range.1 hj)]
/-- A table is read from the snapshot of its directory, and checked against registers. -/
theorem SameRegs.tab {s t : State} (h : SameRegs s t) (k : Nat) (hd : t.dirMem = s.dirMem) : t.tab k = s.tab k := by
  have e := h .emDir 0 0 ⟨by decide, by decide, by decide⟩ (by decide) (by decide) (by decide)
  simp only [State.tab, State.tabBytes, State.hbmRaw, State.phys, h.resolve, e, hd]
theorem SameRegs.tabOpen {s t : State} (h : SameRegs s t) (T : Tab) : t.tabOpen T = s.tabOpen T := by
  have c : t.tabChecks T = s.tabChecks T := by
    have r : (T.regions.all fun k => t.regionMode k == 3) = T.regions.all fun k => s.regionMode k == 3 := by
      rw [Bool.eq_iff_iff, List.all_eq_true, List.all_eq_true]
      refine forall_congr' fun k => forall_congr' fun hk => ?_
      rw [(h.mode k (List.mem_range.1 (List.mem_filter.1 hk).1)).1]
    have q : (decide (T.job < 16) && t.phase T.job != 0) = (decide (T.job < 16) && s.phase T.job != 0) := by
      by_cases hj : T.job < 16
      · rw [h.phase _ hj]
      · simp [hj]
    unfold State.tabChecks
    dsimp only
    rw [r, q]
  unfold State.tabOpen State.tabBad
  rw [c]

/-- A digest of 32 bytes has no more. -/
theorem shake256_length (m : List Byte) : (shake256 m 32).length ≤ 32 := by
  have h : cdiv 32 136 = 1 := by decide
  simp only [shake256, h, shakeOut, List.append_nil]
  exact List.length_take_le _ _

end Sys2Proof.Machine
end

