-- ==== Sys2Proof/Machine/TwinWire.lean ====
section
/-! DEFINITION. What the messages of the twin look like on the link: channels, the packets they are cut into, PSNs and frames (R346,
R357, R370). The messages themselves are in `State.twinOut`, in the order sent. -/

namespace Sys2Proof.Machine

/-- The channel that carries a message (R346). -/
def TwMsg.chan : TwMsg → Nat
  | .item .. | .itemAck .. | .itemNak .. | .order .. | .drop .. => 0
  | .delta .. | .area .. | .rejoined .. => 2
  | .relay .. => 3
  | .repairRead .. | .repairData .. => 4
  | .write .. | .read .. => 5
  | _ => 1
/-- The 24 B header of the ITEM channel (R357). -/
def itemHdr (kind q c msn ord len : Nat) : List Byte :=
  natLe 1 kind ++ [0] ++ natLe 2 q ++ natLe 4 c ++ natLe 4 msn ++ natLe 4 ord ++ natLe 4 len ++ natLe 4 0
/-- A SEND's bytes over consecutive packets with FIRST and LAST. -/
def sendPkts (l : List Byte) : List TwPkt :=
  let cs := if l == [] then [[]] else chunks 8192 l
  cs.zipIdx.map fun (b, i) => { op := 4, first := i == 0, last := i + 1 == cs.length, pay := b }
/-- A WRITE's bytes, each packet with the address of its own first byte (R311). -/
def writePkts (a : Nat) (l : List Byte) : List TwPkt :=
  let cs := chunks 8176 l
  cs.zipIdx.map fun (b, i) => { op := 1, first := i == 0, last := i + 1 == cs.length, pay := natLe 8 (a + 8176 * i) ++ natLe 8 0 ++ b }
/-- A WRITE on DELTA, where R311's header does not apply: each packet's address, then its bytes. DESIGN CHOICE: the manual lays these
payloads out for SHADOW records only (log entry 112). -/
def areaPkts (a : Nat) (l : List Byte) : List TwPkt :=
  let cs := chunks 8176 l
  cs.zipIdx.map fun (b, i) => { op := 1, first := i == 0, last := i + 1 == cs.length, pay := natLe 8 (a + 8176 * i) ++ b }
/-- READ_RESP packets of an unguarded READ (R312): address, GEN 0, and the PSN of the READ, which State does not hold, as zero (log entry
112). -/
def readResps (a : Nat) (l : List Byte) : List TwPkt :=
  let cs := chunks 8176 l
  cs.zipIdx.map fun (b, i) =>
    { op := 3, first := i == 0, last := i + 1 == cs.length, pay := natLe 8 (a + 8176 * i) ++ natLe 4 0 ++ natLe 4 0 ++ b }
/-- An unguarded READ (R312). -/
def readPkt' (a n : Nat) : List TwPkt := [{ op := 2, pay := natLe 8 a ++ natLe 4 n ++ natLe 2 0xFFFF ++ natLe 2 0 }]
/-- The packets of message n; the manual lays out no STATE message (log entry 112). -/
def TwMsg.pkts (n : Nat) : TwMsg → List TwPkt
  | .item q c msn ord bytes => sendPkts (itemHdr 1 q c msn ord bytes.length ++ bytes)
  | .itemAck q c msn ord => sendPkts (itemHdr 2 q c msn ord 0)
  | .itemNak q c msn => sendPkts (itemHdr 3 q c msn 0 0)
  | .order q c msn ord => sendPkts (itemHdr 4 q c msn ord 0)
  | .drop q c msn => sendPkts (itemHdr 5 q c msn 0 0)
  | .delta _ row a slot => sendPkts (natLe 8 row ++ natLe 8 a ++ slot)
  | .area a l => areaPkts a l
  | .relay _ p => sendPkts p
  | .repairRead a n => readPkt' a n
  | .repairData a l => readResps a l
  | .write a l => writePkts a l
  | .read a n => readPkt' a n
  | _ => (Config.twinState n).map fun v => { op := 4, pay := natLe 64 v.toNat }
/-- Every packet sent since the last reset, with its channel and its PSN there. -/
def State.twinPkts (s : State) : List TwPkt :=
  ((s.twinOut.zipIdx.drop s.twinFrom).flatMap fun (m, n) => (m.pkts n).map fun p => { p with chan := m.chan }).foldl
    (fun (l : List TwPkt) p => l ++ [{ p with psn := (l.filter fun x => x.chan == p.chan).length % 2 ^ 24 }]) []
/-- The Ethernet address of a role. -/
def twinMac (roleB : Bool) : Nat := if roleB then 0x0200000000B0 else 0x0200000000A0
/-- The frame of a packet; what the receiver's side puts into every header is given. -/
def State.twinFrame (s : State) (p : TwPkt) (apsn ecn climit ts echo : Nat) : List Byte :=
  let h := faoloHdr (2 * p.first.toNat + p.last.toNat) p.op p.pay.length p.chan 0 s.node Config.partnerNode.toNat p.psn 0 apsn ecn climit ts echo ++ p.pay
  let body := natBe 6 (twinMac !s.roleB) ++ natBe 6 (twinMac s.roleB) ++ natBe 2 0x88B5 ++ h ++ natBe 4 (crc32c h).toNat
  body ++ natLe 4 (fcs body).toNat

end Sys2Proof.Machine
end

