-- ==== Sys2Proof/Tests/Slice0.lean ====
section
/-! SUPPORT. Tests: well-formedness refuses what it should; each statement's hypotheses are met by a small state; and single steps whose
results the manual gives. -/

open Sys2Proof Sys2Proof.Machine

set_option maxRecDepth 100000

namespace Sys2Proof.Tests

/-! ### States -/

/-- Powered, out of reset and READY. -/
def up : State := { pllLocked := true, pwrgood := true, resetN := true, ready := true }
/-- The same with registers. -/
def upR (l : List (Nat × BitVec 64)) : State := { up with regs := l }
/-- The same with region 0 LOCAL in stack 0. -/
def upM : State := upR [(RegKind.region.at 0, 3)]
/-- The twin configured: MODE MIRROR, a pair node, tier 3; st is TWIN.STATE. -/
def twinR (st : Nat) : List (Nat × BitVec 64) :=
  [(RegKind.twCfg.at, 1), (RegKind.twState.at, BitVec.ofNat 64 st), (RegKind.licStatus.at, 3), (RegKind.faNode.at 0, 0x10001),
    (RegKind.faNode.at 1, 0x10001)]
def t00 : TileId := { x := 0, y := 0 }
/-- Tile (0, 0) alone. -/
def upT (T : Tile) : State := { up with tiles := [(0, T)] }
/-- A tile whose task 0 stands at word w. -/
def tileW (w : Nat) : Tile := { slots := [(0, { st := .live })], mem := mputs [] isBase (natLe 8 w) }
def at0 (w : Nat) : State := upT (tileW w)

/-! ### Well-formedness -/

theorem test_wf_write : (Instr.registerWrite .mgmt 0 []).wf = false := by decide
theorem test_wf_read_length : (Instr.masterAccess (.read .mgmt 0 16777217)).wf = false := by decide
theorem test_wf_access_write : (Instr.masterAccess (.write .mgmt 0 [])).wf = false := by decide
theorem test_wf_twin_window : (Instr.twinWindowAccess .mgmt 0x3FFFFFFFFFFF 8 none).wf = false := by decide
theorem test_wf_twin_length : (Instr.twinWindowAccess .mgmt 0x400000000000 8 (some [1])).wf = false := by decide
theorem test_wf_symbols : (Instr.granuleRead .mgmt 0 [(3, 1), (3, 2)]).wf = false := by decide
theorem test_wf_granule : (Instr.granuleWrite .mgmt 63 ⟨[1, 2], []⟩).wf = false := by decide
theorem test_wf_scrub : (Instr.patrolScrub 0 ⟨[(5, []), (5, [])], []⟩).wf = false := by decide
theorem test_wf_item : (Instr.item 0 0 0 0 []).wf = false := by decide
theorem test_wf_digest : (Instr.deviceDigest 0 0 [] {}).wf = false := by decide
theorem test_wf_notice : (Instr.commitNotice 0 0 0 0 0 [] [] [1]).wf = false := by decide
theorem test_wf_catchup : (Instr.catchup 0 0 0 0 0 [1] [] false).wf = false := by decide
theorem test_wf_relay : (Instr.relay 0 []).wf = false := by decide
theorem test_wf_flush : (Instr.flushComplete ⟨[0, 0], []⟩ 0).wf = false := by decide
theorem test_wf_rate : (Instr.linkUp 16 3 {}).wf = false := by decide
theorem test_wf_cells : (Instr.samplePreload ⟨[], {}⟩).wf = false := by decide
theorem test_wf_trip : (Instr.thermTrip 0 114).wf = false := by decide
theorem test_wf_accepts : (Instr.granuleWrite .mgmt 63 ⟨[1], []⟩).wf = true := by decide

/-! ### The machine: the hypotheses are met -/

theorem test_StepRunsFront : ({ up with pending := [.clocheFlush] } : State).pending = [.clocheFlush] := rfl
theorem test_IdleTick : State.reset.pending = [] ∧ State.reset.pllLocked = false ∧ up.pllLocked = true ∧
    (({ up with ready := false } : State).on && ({ up with ready := false } : State).ready) = false := by decide
theorem test_ClockInvariant : up.clocked ∧ State.reset.clocked := by decide
theorem test_UnpoweredInert : State.reset.clocked ∧ State.reset.pwrgood = false ∧ Instr.ofTap .clocheFlush = false := by decide
theorem test_StillDevice : up.still ∧ ({ up with ctxs := [(0, {})] } : State).still := by decide
theorem test_RegisterWrites : up.on = true ∧ up.still ∧ up.diag = false ∧ RegKind.evCfg.valid 0 0 ∧ RegKind.evCfg.acts = false ∧
    ([1, 2, 3, 4] : List Byte).length = if RegKind.evCfg.row.wide then 8 else 4 := by decide
theorem test_RegisterWrites_last : RegKind.quTail.valid 1 8191 ∧ RegKind.quTail.acts = false := by decide
theorem test_MasterAccesses : upM.on = true ∧ upM.still ∧ upM.place 63 = .hbm 0 63 ∧ upM.sound (physOf 0 63 / 64) ∧ 63 % 64 + 1 ≤ 64 ∧ physOf 0 63 / 64 ∉ upM.poison := by decide
theorem test_MasterAccesses_unmapped : up.place 0x017FFFFFFFFF = .entry ∧ 1 ≤ up.runTo 0x017FFFFFFFFF := by decide
theorem test_MasterAccesses_twin : (upR (twinR 0x18)).twinReach = true ∧ up.twinReach = false ∧ up.still ∧
    0x7FFFFFFFFFFF + 1 ≤ 0x800000000000 ∧ (upR (twinR 0x18)).on = true ∧ (upR (twinR 0x18)).still ∧ 0x630040000000 ≤ (0x7FFFFFFFFFFF#48).toNat ∧ 0x800000000000 < (0x7FFFFFFFFFFF#48).toNat + 2 := by decide
theorem test_GranulesAndPackets : upM.place 0 = .hbm 0 0 ∧ (badSymbols [(3, 1)]).length ≤ 1 ∧ 2 ≤ (badSymbols [(3, 1), (67, 1)]).length ∧
    physOf 0 0 / 64 ∉ upM.poison ∧ upM.sound (physOf 0 0 / 64) ∧ physOf 0 0 / 64 ∈ ({ upM with poison := [0] } : State).poison ∧
    (upR [(RegKind.region.at 0, 3), (RegKind.stStatus.at 0, 3)]).place 0 = .trip 0 := by decide
theorem test_GranulesAndPackets_tile : up.on = true ∧
    ((upT { ops := [{ tag := 1, slot := 0, kind := .gld 1 2 false }] }).tile (tileCode t00)).op 1 =
      some { tag := 1, slot := 0, kind := .gld 1 2 false } := by decide
/-- A SEND from tile (0, 0) to tile (1, 0) enters there from the west; a stream request at no site it does not pass. -/
def sendS : State := upT { ops := [{ tag := 1, slot := 0, kind := .send 1 [1] }], reqs := [{ id := 2, slot := 0, gen := 0, kind := .gather [(0, 0)], desc := List.replicate 64 0 }] }
theorem test_GranulesAndPackets_mesh : ((List.range 7).any fun p => (List.range 4).any fun v => sendS.meshAt 1 p v (.tileOp t00 1)) = true ∧
    sendS.meshAt 128 0 0 (.tileOp t00 1) = false ∧ ((sendS.tile (tileCode t00)).reqs.find? fun x => x.id == 2).isSome = true := by decide
/-- A packet of base die 0 to a granule of its own stack passes its attachment; a chunk on its way to tile (0, 0) passes the tile's router. -/
theorem test_GranulesAndPackets_units : upM.diag = false ∧
    ((List.range 2304).any fun c => (List.range 7).any fun p => (List.range 4).any fun v => upM.meshAt c p v (.unitOp 0xFF00 0 false)) = true ∧
    (let s : State := { up with loader := some { cmd := ⟨0, 0, []⟩, tiles := [0], loadId := 7, nchunks := 2, toSend := [(0, [0, 1])] } }
     ((List.range 7).any fun p => (List.range 4).any fun v => s.meshAt 0 p v (.chunk 1)) = true) ∧
    ((List.range 7).any fun p => (upT { mcIn := [{ id := 3, leader := 0, lslot := 0, lgen := 0, recno := 0, data := [] }] }).meshAt 0 p 2 (.mcast t00 3)) = true := by decide
theorem test_AddressMapIsOneToOne : upM.resolve 4097 = some (0, 4097) ∧ (upR [(RegKind.region.at 23, 1)]).resolve (23 * 2 ^ 36 + 4096 * 17) = some (0, 4096) := by
  decide

/-! ### Instructions of a tile: each issues somewhere -/

/-- A word of major opcode op with the given operand bits. -/
def word (op v : Nat) : Nat := op * 2 ^ 58 + v
/-- Task 0 of tile (0, 0) issues word v, of row r. -/
abbrev Iss (T : Tile) (v : Nat) (r : TRow) : Prop := Issues (upT { tileW v with tokens := T.tokens, ops := T.ops, mboxes := T.mboxes, streams := T.streams, scanBusy := T.scanBusy }) t00 0 r 0 (BitVec.ofNat 64 v)
def three : Tile := { tokens := [(1, 3)] }

theorem test_InstructionsWithoutResult : Iss {} (word 0 0) .nop ∧ Iss {} (word 0x10 (2 * 2 ^ 43)) .yield ∧
    Iss { ops := [{ tag := 0, slot := 0, kind := .gld 1 2 false }] } (word 8 1) .fence := by decide
theorem test_AluResults : Iss {} (word 1 (3 * 2 ^ 41 + 15 * 2 ^ 27)) .alu ∧ Iss {} (word 2 0xFFFFFFFF) .alui := by decide
theorem test_AddrResults : Iss {} (word 3 0xFFFFFFFF) .addr ∧ Iss {} (word 3 (2 ^ 37 + 15)) .addr ∧ Iss {} (word 3 (2 * 2 ^ 37 + 0xFFFF)) .addr ∧
    Iss {} (word 3 (3 * 2 ^ 37 + 63)) .addr := by decide
theorem test_LdResults : Iss {} (word 4 (30 * 2 ^ 41 + 3 * 2 ^ 36 + 0xFFFF8)) .ld ∧ Iss {} (word 4 (2 ^ 35 + 1)) .ld := by decide
theorem test_StStores : Iss {} (word 5 (30 * 2 ^ 41 + 3 * 2 ^ 36)) .st ∧ Iss {} (word 5 0xFFFFF) .st := by decide
theorem test_BranchesAndJumps : Iss {} (word 9 (6 * 2 ^ 43 + 0xFFFF)) .br ∧ Iss {} (word 9 (2 ^ 43)) .br ∧ Iss {} (word 0xA 8191) .j ∧
    Iss {} (word 0xA (2 ^ 44 + 31 * 2 ^ 39)) .jal ∧ Iss {} (word 0xA (2 * 2 ^ 44)) .jr := by decide
theorem test_TokenInstructions : Iss {} (word 0x11 (63 * 2 ^ 37)) .tset ∧ Iss {} (word 0x11 (2 ^ 43 + 2 ^ 37)) .tsetr ∧
    Iss {} (word 0x11 (2 * 2 ^ 43 + 2 ^ 37 + 0xFFFF)) .tadd ∧ Iss three (word 0x11 (3 * 2 ^ 43 + 2 ^ 37 + 3)) .ttake ∧
    Iss {} (word 0x11 (4 * 2 ^ 43 + 2 ^ 37)) .tread ∧ Iss {} (word 0x11 (5 * 2 ^ 43)) .progress := by decide
theorem test_TaskInstructions : Iss {} (word 0x10 (7 * 2 ^ 40)) .spawn ∧ Iss {} (word 0x10 0) .spawn ∧ Iss {} (word 0x10 (2 ^ 43)) .kill ∧
    Iss {} (word 0x10 (2 ^ 43 + 7 * 2 ^ 40)) .kill ∧ Iss three (word 0x3F (2 ^ 52 + 0xFFFF)) .halt := by decide
theorem test_TaskInstructions_slots : ((tileW (word 0x10 0)).slot 0).st = .live ∧ ((tileW 0).slot 7).st = .idle := by decide
theorem test_OperationsLeave : Iss {} (word 6 0) .gld ∧ Iss {} (word 7 (3 * 2 ^ 36)) .gst ∧ Iss {} (word 0x12 0) .send := by decide
theorem test_OperationsLeave_nowhere :
    let s := upT { tileW (word 0x12 (2 ^ 38)) with slots := [(0, { st := .live, s := [(1, 36 * 64)] })] }
    Issues s t00 0 .send 0 (BitVec.ofNat 64 (word 0x12 (2 ^ 38))) ∧ 36 ≤ bfld (((s.tile 0).slot 0).sreg 1) 6 6 := by decide
theorem test_MailboxInstructions : Iss {} (word 0x13 0) .recv ∧ Iss { mboxes := [(15, [{ src := 5, bytes := [1] }])] } (word 0x13 (15 * 2 ^ 34)) .recv ∧
    Iss {} (word 0x14 (2 ^ 43 + 15 * 2 ^ 28)) .mboxStat ∧ Iss {} (word 0x14 (63 * 2 ^ 37)) .mboxCfg := by decide
theorem test_TregAccesses : Iss {} (word 0xB 0x1C) .treg ∧ tileRegAt 0x1C = some false ∧ Iss {} (word 0xB 0xFFFC) .treg ∧
    regHit tileRegAt 0xFFFC = .none ∧ Iss {} (word 0xB (2 ^ 45 + 0x10)) .treg ∧ tileRegAt 0x10 = some false := by decide
theorem test_TregAccesses_halves : Iss {} (word 0xB 0x300) .treg ∧ tileRegAt 0x300 = some true ∧ Iss {} (word 0xB 0x304) .treg ∧
    regHit tileRegAt 0x304 = .high 0x300 ∧ Iss {} (word 0xB (2 ^ 45 + 0x300)) .treg ∧ Iss {} (word 0xB (2 ^ 45 + 0x304)) .treg := by decide
theorem test_TregAccesses_refused : Iss {} (word 0xB (2 ^ 45 + 0x1004)) .treg ∧ Iss {} (word 0xB (2 ^ 45 + 0x1FFC)) .treg ∧ Iss {} (word 0xB (2 ^ 45)) .treg ∧
    Iss {} (word 0xB (2 ^ 45 + 0xFFFC)) .treg := by decide
theorem test_FaultsBeforeIssue :
    let T := tileW (word 0x3B 0)
    T.pickSlot 0 = some 0 ∧ faultOf T 0 (T.fetch 0) = some .illegal ∧ (T.fetch 0).row = .unalloc ∧
    faultOf {} 0 (BitVec.ofNat 64 (word 4 (3 * 2 ^ 36 + 1))) = some .misaligned ∧ (tileW (word 4 (3 * 2 ^ 36 + 1))).pickSlot 0 = some 0 := by decide

/-- A GATHER descriptor of one 8-byte record in one buffer of 64 bytes, with some bytes changed. -/
def desc (l : List (Nat × Byte)) : SDesc :=
  l.foldl (fun d x => d.set x.1 x.2) ([0, 0, 1, 0, 0, 0, 8, 0, 1, 0, 0, 0, 64, 0, 0, 0] ++ List.replicate 48 0)
def scat : SDesc := desc [(0, 4)]
/-- Tile (0, 0) with task 0 at a word, its descriptor at the start of the operand cache, and slot 0. -/
def armT (v : Nat) (d : SDesc) (x : SSlot) : State := upT { tileW v with mem := mputs (mputs [] 0 d) isBase (natLe 8 v), streams := [(0, x)] }
abbrev Arms (d : SDesc) (x : SSlot) : Prop := Issues (armT (word 0x18 0) d x) t00 0 .sarm 0 (BitVec.ofNat 64 (word 0x18 0))
theorem test_SarmArms : Arms (desc []) {} ∧ (desc []).bad 0 = none ∧ Arms (desc []) { st := 2 } ∧ Arms (desc []) { st := 2, shadow := some (desc [], 0) } ∧
    Arms (desc [(6, 9)]) {} ∧ (desc [(6, 9)]).bad 0 = some 6 ∧ Arms (desc []) { st := 3 } := by decide
theorem test_SlotInstructions : Iss {} (word 0x19 (3 * 2 ^ 39)) .srel ∧ Iss { streams := [(31, { st := 2, held := 2, desc := desc [] })] } (word 0x19 (31 * 2 ^ 41 + 2 ^ 39)) .srel ∧
    Iss {} (word 0x1B (31 * 2 ^ 41)) .sstat := by decide
theorem test_SlotInstructions_scan : Iss {} (word 0x1A 0) .scan ∧ Iss { streams := [(0, { st := 2, shadow := some (desc [], 3) })] } (word 0x1A (2 ^ 40)) .scan ∧
    Iss { streams := [(0, { st := 3 })] } (word 0x1A 0) .scan ∧ ((upT { scanBusy := some 63 }).tile (tileCode t00)).scanBusy = some 63 := by decide

/-! ### Engines and streams -/

theorem test_EngineQueues_matrix : Iss {} (word 0x20 0) .mwld ∧ Iss {} (word 0x21 0) .mma ∧ Iss {} (word 0x23 (2 * 2 ^ 40)) .morth := by decide
theorem test_EngineQueues_vector : Iss {} (word 0x30 0) .vadd ∧ Iss {} (word 0x31 0) .vmul ∧ Iss {} (word 0x33 0) .vcmp ∧ Iss {} (word 0x3E 0) .cvtdq := by decide
def mwldOp : EngOp := { seq := 0, word := BitVec.ofNat 64 (word 0x20 (2 ^ 46)), x := .oc 0, got := [[1]] }
def mmaOp : EngOp := { seq := 1, word := BitVec.ofNat 64 (word 0x21 (2 ^ 46)), d := .reg (62 * 2048) }
def vaddOp : EngOp := { seq := 2, word := BitVec.ofNat 64 (word 0x30 (2 ^ 46)), d := .reg 0, x := .reg 2048, y := .reg 4096 }
theorem test_EngineStartsAndCompletes : pick (fun e => isMwld e == true) [mwldOp] = some (mwldOp, []) ∧ matCanStart { mq := [mwldOp] } true mwldOp = true ∧
    pick (fun e => isMwld e == false) [mmaOp] = some (mmaOp, []) ∧ matCanStart { mq := [mmaOp] } false mmaOp = true ∧ vaddOp.word.row = .vadd ∧
    ((upT { mrunLoad := [mwldOp], vq := [vaddOp] }).tile (tileCode t00)).vq = [vaddOp] ∧ ((upT { mrunLoad := [mwldOp] }).tile (tileCode t00)).mrunLoad = [mwldOp] := by decide
def mbwdOp : EngOp := { seq := 1, word := BitVec.ofNat 64 (word 0x22 (2 ^ 46)), d := .reg 0, z := .reg 4096, x := .reg 8192, y := .oc 0 }
def morthOp : EngOp := { seq := 1, word := BitVec.ofNat 64 (word 0x23 (2 ^ 46)), d := .reg 0, x := .reg 0, got := [List.replicate 1024 0] }
theorem test_EngineStartsAndCompletes_matrix : ({ mrun := [mbwdOp] } : Tile).dyFree mbwdOp = true ∧ mbwdOp.word.row = .mbwd ∧ mbwdOp.d = .reg 0 ∧ mbwdOp.z = .reg 4096 ∧
    ({ mrun := [morthOp] } : Tile).dyFree morthOp = true ∧ morthOp.word.row = .morth ∧ morthOp.d = .reg 0 ∧ (morthOp.got.getD 0 []).length = 1024 ∧
    ({ mrun := [mmaOp] } : Tile).dyFree mmaOp = true ∧ pick (fun e => isMwld e == false) [mbwdOp] = some (mbwdOp, []) ∧ matCanStart { mq := [mbwdOp] } false mbwdOp = true ∧
    matCanStart { mq := [morthOp] } false morthOp = true := by decide
/-- An instruction of each row, over operands that do not overlap; one that waits for an earlier one's write, and one that does not. -/
def vecW (op : Nat) : EngOp := { vaddOp with word := BitVec.ofNat 64 (word op (2 ^ 46)), z := .reg 6144 }
theorem test_EngineStartsAndCompletes_vector : (List.range 11).map (fun k => (vecW (0x30 + k)).word.row) =
      [.vadd, .vmul, .vfma, .vcmp, .vsel, .vminmax, .vred, .vmov, .vsieve, .vexpand, .vupd] ∧
    (List.range 3).map (fun k => (vecW (0x3C + k)).word.row) = [.cvt, .cvtq, .cvtdq] ∧
    (∀ e ∈ ([{ vecW 0x31 with d := .reg 10240, x := .reg 12288, y := .reg 14336 }] : List EngOp), rangesMeet vaddOp vaddOp.readsAt e e.writesAt = false) ∧
    rangesMeet { vaddOp with x := .reg 10240 } vaddOp.readsAt { vecW 0x31 with d := .reg 10240 } (vecW 0x31).writesAt = true ∧
    ([vaddOp] : List EngOp)[0]? = some vaddOp ∧ (∀ e ∈ ([vaddOp] : List EngOp).take 0, rangesMeet vaddOp vaddOp.writesAt e e.writesAt = false) := by decide
theorem test_RoundsToNearest : Fmt.e4m3.code 0x7E ∧ Fmt.e4m3.decode 0x7E ≠ .nan ∧ (Fmt.e4m3.decode 0x7E).isFin = true ∧
    (Fmt.e4m3.encode .rne false (.fin false 1000 0)).2.ovf = true ∧ (Fmt.e4m3.encode .rne false (.fin false 464 0)).2.ovf = false := by decide
theorem test_MmaWritesItsRows : ((upT { mrun := [mmaOp] }).tile (tileCode t00)).mrun = [mmaOp] ∧ mmaOp.word.row = .mma ∧ mmaOp.d = .reg (62 * 2048) := by decide
def askT (r : StreamReq) (x : SSlot) : Tile := { reqs := [r], streams := [(31, x)] }
def ask1 : StreamReq := { id := 9, slot := 31, gen := 7, kind := .gather [(0, 4096)], resp := some [[1, 2]] }
theorem test_StreamRequests :
    let x : SSlot := { st := 2, desc := desc [], units := [{ buf := 0, kind := .gather [(0, 0)] }] }
    x.desc.inbound = true ∧ x.desc.receive = false ∧ trackRoom { streams := [(31, x)] } x = true ∧
    trackRoom { reqs := List.replicate 1023 ask1 } x = true := by decide
theorem test_StreamAnswers : let T := askT ask1 { st := 2, gen := 7, desc := desc [] }
    T.mcIn.find? (fun m => m.id == 9) = none ∧ T.reqs.find? (fun r => r.id == 9) = some ask1 ∧ ask1.lost = false ∧ ask1.cancelled = false ∧
    (T.str 31).gen = ask1.gen ∧ (T.str 31).desc.leader = false ∧ (askT { ask1 with cancelled := true } {}).reqs.find? (fun r => r.id == 9) =
      some { ask1 with cancelled := true } := by decide
theorem test_StreamRequests_turn : let x : SSlot := { st := 2, desc := desc [], units := [{ buf := 0, kind := .gather [(0, 0)] }] }
    let T : Tile := { streams := [(31, x), (5, x)], lastReq := 5 }
    (∀ i, i < (31 + 31 - 5) % 32 → nextReq T ((5 + 1 + i) % 32) = none) ∧ (nextReq T 31).isSome = true ∧ (nextReq T ((5 + 1 + 25) % 32)).isSome = true ∧
    25 < (5 + 31 - T.lastReq) % 32 := by decide
theorem test_StreamSlotEvents : (let T : Tile := { acks := [{ slot := 0, gen := 0, src := 1, no := 3 }], streams := [(0, { st := 2, desc := scat }), (1, { st := 3, shadow := some (desc [], 1) }), (2, { st := 1, chain := some (1, 0) })] }
    pick (fun a => a.slot == 0 && T.answerTurn (some (a.src, a.no))) T.acks = some ({ slot := 0, gen := 0, src := 1, no := 3 }, []) ∧ (T.str 0).gen = 0 ∧
    pick (fun a => a.slot == 1 && T.answerTurn (some (a.src, a.no))) T.acks = none ∧ (T.str 0).acked + 1 = (T.str 0).desc.needAcks ∧ (T.str 1).st = 3 ∧ (T.str 1).shadow = some (desc [], 1) ∧ (T.str 2).st = 1 ∧
    (T.str 1).st ≠ 1 ∧ (T.str 1).st ≠ 2) := by decide
theorem test_StreamSendsABuffer : (sendBuf { streams := [(0, { st := 2, desc := scat, handed := 1 })] } 0).isSome = true ∧
    (sendBuf { streams := [(0, { st := 2, desc := desc [(0, 5)], handed := 1 })] } 0).isSome = true ∧ (desc [(0, 5)]).coll = true ∧
    (sendBuf { streams := [(0, { st := 2, desc := desc [(0, 5), (1, 1)], handed := 1 })] } 0).isSome = true ∧ (desc [(0, 5), (1, 1)]).coll = false := by decide
/-- Slot 0 receives from slot 1 of the same tile, a leader for itself alone. -/
def recvD : SDesc := desc [(0, 3), (0x31, 0x10)]
def leadD : SDesc := desc [(0x37, 0x80)]
def mcT (x y : SSlot) (T : Tile) : State := upT { T with streams := [(0, { x with desc := recvD }), (1, { y with desc := leadD })] }
theorem test_MulticastControl_credit : recvD.receive = true ∧ leadD.leader = true ∧ 0 ∈ leadD.members ∧ recvD.leaderTile = 0 ∧ recvD.leaderSlot = 1 ∧
    sameGeom leadD recvD = true ∧ ((mcT { st := 1, credit := .flying } { st := 2 } {}).tile 0 |>.str 0).credit = .flying ∧
    (kget ((mcT {} { st := 2 } {}).tile 0 |>.str 1).members 0 {}).armed = false ∧ (mcT { st := 1, credit := .flying } { st := 2 } {}).ctlTurn 0 0 0 = true ∧
    sameGeom leadD (desc [(0, 3), (0x31, 0x10), (6, 16)]) = false ∧ (kget ((mcT {} { st := 2, members := [(0, { armed := true })] } {}).tile 0 |>.str 1).members 0 {}).armed = true := by
  decide
theorem test_MulticastControl_messages : let m : CtlMsg := { slot := 0, leader := 0, lslot := 1, lgen := some 5 }
    let s := mcT {} { gen := 5 } { releases := [m], detaches := [m], markers := [m] }
    pick (fun m => m.slot == 0 && s.ctlTurn 0 m.no m.leader) (s.tile 0).releases = some (m, []) ∧
    pick (fun m => m.slot == 0 && s.ctlTurn 0 m.no m.leader) (s.tile 0).detaches = some (m, []) ∧ pick (fun m => m.slot == 0) (s.tile 0).markers = some (m, []) ∧
    m.lgen = some ((mcT {} { gen := 5 } {}).tile 0 |>.str 1).gen := by decide
def opT (o : TileOp) : Tile := { ops := [o] }
theorem test_OperationsEnd : ({ ops := [{ tag := 3, slot := 0, kind := .send 0 [1], ans := some .accepted, sent := some (7, 4) }] } : Tile).answerTurn (some (7, 4)) = true ∧
    (askT ask1 {}).answerTurn ask1.sent = true ∧ (opT { tag := 4, slot := 1, kind := .gld 30 3 false, ans := some (.loaded [1, 2, 3, 4, 5, 6, 7, 8]), sig := 63 }).op 4 ≠ none ∧
    ({ tag := 4, slot := 1, kind := .gst [1], ans := some .stored } : TileOp).isGst = true ∧
    ({ tag := 4, slot := 1, kind := .send 0 [1], ans := some .refused, held := true } : TileOp).isSend = true := by decide
theorem test_MessageArrives : let o : TileOp := { tag := 4, slot := 1, kind := .send 0xF000 [1] }
    let T : Tile := { ops := [o], mboxes := [(15, List.replicate 3 { src := 0, bytes := [2] })] }
    T.op 4 = some o ∧ o.going = true ∧ (upT T).packetTurn 0 o.no ((upT T).opDest 0 o) = true ∧ T.keptAns 0 4 = none ∧ (kget T.mboxes 15 []).length < 4 ∧
    ({ T with kept := [(0, [(4, .accepted)])] } : Tile).keptAns 0 4 = some .accepted ∧ 4 ≤ (kget ({ mboxes := [(0, List.replicate 4 { src := 0, bytes := [2] })] } : Tile).mboxes 0 []).length := by
  decide

/-! ### Commands of one register -/

theorem test_GuardCommands : up.calm ∧ up.guardSt 4095 = 0 ∧ 2 ≤ (upR [(RegKind.guCtl.at 4095, 3 * 2 ^ 24)]).guardSt 4095 ∧
    (upR [(RegKind.guCtl.at 0, 2 ^ 24)]).guardSt 0 ≤ 1 ∧ up.waitsAt 4095 = false ∧ up.nextDeferred up.deferred [] 0 = none ∧
    (let s : State := { upR [(RegKind.guCtl.at 0, 3 * 2 ^ 24)] with deferred := [{ guard := 0, cmd := none }] }
     s.calm ∧ s.waitsAt 0 = true ∧ 2 ≤ s.guardSt 0 ∧ ∀ e ∈ s.deferred, 0 ∈ s.defersAt e) := by decide
/-- Queue 0 with TAIL 64. -/
def tailed : State := upR [(RegKind.quTail.at 0 0, 64), (RegKind.evTail.at, 1)]
theorem test_RegisterCommands : tailed.calm ∧ (64 + 2 ^ 32 - tailed.q .quHead 0 32 0) % 2 ^ 32 ≤ (tailed.q .quTail 0 32 0 + 2 ^ 32 - tailed.q .quHead 0 32 0) % 2 ^ 32 ∧
    (tailed.q .quTail 0 32 0 + 2 ^ 32 - 0) % 2 ^ 32 < (65 + 2 ^ 32 - 0) % 2 ^ 32 ∧ (∀ e ∈ tailed.journal, e.queue = 0 → e.tailAt = none ∨ e.released = true ∨ e.pad = true) ∧
    (1 + 2 ^ 32 - tailed.reg .evHead) % 2 ^ 32 ≤ (tailed.reg .evTail + 2 ^ 32 - tailed.reg .evHead) % 2 ^ 32 ∧ tailed.ringLost = 0 ∧
    (tailed.reg .evTail + 2 ^ 32 - tailed.reg .evHead) % 2 ^ 32 < (2 + 2 ^ 32 - tailed.reg .evHead) % 2 ^ 32 := by decide
theorem test_RegisterCommands_mig : up.fld .emMigStatus 4 1 15 = 0 ∧ (upR [(RegKind.emMigStatus.at 15, 16)]).calm ∧
    (upR [(RegKind.emMigStatus.at 15, 16)]).fld .emMigStatus 4 1 15 = 1 := by decide
theorem test_FlagScans : up.fld .evScan 26 2 ≠ 1 ∧ (upR [(RegKind.evScan.at, 2 ^ 26 + 2 ^ 24)]).fld .evScan 26 2 = 1 ∧ (upR [(RegKind.evScan.at, 2 ^ 26 + 2 ^ 24)]).calm ∧
    (upR [(RegKind.evScan.at, 2 ^ 26 + 2 ^ 24)]).fld .evScan 24 1 = 1 ∧ 0 ∈ rectOf (up.fld .evScan 0 24) := by decide
def flashR (target ctl : Nat) : State := upR [(RegKind.flTarget.at, BitVec.ofNat 64 target), (RegKind.flCtl.at, BitVec.ofNat 64 ctl)]
theorem test_FlashAndAttestation : (flashR 0 65536).calm ∧ (flashR 0 65536).flashSt ≠ 1 ∧ touchesLog 0 0 65536 = false ∧
    (flashR 0 65536).fld .flCtl 0 25 = 65536 ∧ (flashR 0 16777217).fld .flCtl 0 25 = 16777217 ∧ touchesLog 1 0x4000000 1 = true ∧ touchesLog 1 0x3FFFFFF 1 = false ∧
    (flashR (2 ^ 27 + 0x4000000) 1).fld .flTarget 0 27 = 0x4000000 ∧ ({ up with ready := false } : State).calm ∧
    (upR [(RegKind.flStatus.at, 1)]).flashSt = 1 := by decide
theorem test_FlashAndAttestation_done : ({ upM with flashOp := some { op := 2, dev := 0, off := 0, len := 256, buf := 0 } } : State).on = true ∧
    flAddr 0 0 + 256 ≤ flAddr 0 0 + 2 ^ 27 ∧ (upM.memRead .mgmt 0 256).2.length = 256 := by decide
theorem test_FlashAndAttestation_attest : upM.calm ∧ upM.fld .attStatus 0 2 ≠ 1 ∧ upM.attBufOk (upM.fld .attBuf 0 48) = true ∧
    up.attBufOk (up.fld .attBuf 0 48) = false ∧ (upR [(RegKind.attStatus.at, 1)]).fld .attStatus 0 2 = 1 ∧ upM.serves = true ∧
    ({ up with ready := false } : State).serves = false ∧ ({ up with ready := false } : State).still ∧
    ({ upM with att := some { buf := 64, bytes := [1] } } : State).att = some { buf := 64, bytes := [1] } := by decide
/-- In diagnostic mode, which is not READY, both are served. -/
theorem test_FlashAndAttestation_diag : let s : State := { upR [(RegKind.boot.at, 32)] with ready := false }
    s.diag = true ∧ s.serves = true ∧ s.on = true ∧ s.still := by decide
/-- A guard entry of the report's buffer that takes its completion, and one that is READY. -/
theorem test_FlashAndAttestation_guards : let s := upR [(RegKind.guAddr.at 3, 64), (RegKind.guAddr.at 4, 64), (RegKind.guCtl.at 4, 2 * 2 ^ 24)]
    3 ∈ s.guardsBuf 64 ∧ s.guardTakes 3 = true ∧ 4 ∈ s.guardsBuf 64 ∧ s.guardTakes 4 = false := by decide
def solo : State := { upR (twinR 0x1B) with partnerJoining := true }
theorem test_TwinControl : solo.calm ∧ solo.twin = 3 ∧ (∀ j ∈ solo.twinJobs, solo.phase j = 1) ∧ (upR (twinR 0x1A)).twin = 2 ∧ (upR (twinR 0x1C)).twin = 4 ∧
    (upR (twinR 0x1D)).twin = 5 ∧ (upR (twinR 0x1D)).twinJobs = [] ∧ (upR (twinR 0x1D)).fld .twTake 20 21 = 0 ∧ up.twin = 0 ∧
    ¬ (up.twin = 3 ∧ up.partnerJoining = true) := by decide
theorem test_TwinControl_jobs : let s (st ph : Nat) : State := { upR ((RegKind.jStatus.at 0, BitVec.ofNat 64 ph) :: twinR st) with jobs := [(0, { diverged := true })] }
    (s 0x1B 6).twinJobs = [0] ∧ (s 0x1B 6).phase 0 = 6 ∧ ((s 0x1B 6).job 0).diverged = true ∧ (s 0x1A 1).twin = 2 ∧ (s 0x1A 1).peerBaseline = [] ∧
    (∀ j ∈ (s 0x1A 1).twinJobs, (s 0x1A 1).phase j = 1) ∧ (s 0x1A 1).twinJobs ≠ [] ∧ (s 0x1B 1).rejoining = false ∧
    (s 0x1D 6).twin = 5 ∧ (s 0x1D 6).twinJobs = [0] ∧ (s 0x1D 6).phase 0 = 6 ∧ (s 0x1D 6).fatal = false ∧ (s 0x1D 6).items = [] ∧ (s 0x1D 6).journal = [] ∧
    (s 0x1D 6).fld .twTake 20 21 = 0 ∧ (s 0x1D 6).calm := by decide
theorem test_TwinControl_join : solo.partnerJoining = true ∧ solo.poison = [] ∧ solo.upset = [] ∧ solo.fatal = false ∧
    (let s : State := { solo with regs := (RegKind.jStatus.at 0, 2) :: solo.regs }; s.calm ∧ s.twin = 3 ∧ s.twinJobs = [0] ∧ s.phase 0 ≠ 1) := by decide

/-! ### Program images -/

/-- A command queue 0 whose first item holds one command: opcode op of job 0 with some bytes set. Job 0 is in the given phase. -/
def cmdS (op phase : Nat) (l : List (Nat × Byte)) (regs : List (Nat × BitVec 64)) : State :=
  let c : List Byte := l.foldl (fun c x => c.set x.1 x.2) (BitVec.ofNat 8 op :: List.replicate 63 0)
  { upR (regs ++ [(RegKind.region.at 0, 3), (RegKind.quCfg.at 0 0, BitVec.ofNat 64 (2 + 12 * 2 ^ 48)), (RegKind.quStatus.at 0 0, 1),
      (RegKind.quTail.at 0 0, 128), (RegKind.jStatus.at 0, BitVec.ofNat 64 phase)]) with
    hbm := mputs [] 0 (natLe 4 64 ++ List.replicate 12 0 ++ c) }
theorem test_ProgramImages_load : ((cmdS 2 1 [] []).takeCmd 0 (wantOp 2)).2.isSome = true ∧ ((cmdS 2 1 [] []).takeCmd 0 (wantOp 2)).1.loader = none ∧
    ((cmdS 2 1 [] []).takeCmd 0 (wantOp 2)).1.loads = [] ∧
    (({ cmdS 2 1 [] [] with loader := some { cmd := ⟨0, 0, []⟩, tiles := [0], loadId := 0, nchunks := 2 } }).takeCmd 0 (wantOp 2)).1.loader.isSome = true := by decide
def load1 (phase round : Nat) : Loader := { cmd := ⟨0, 0, []⟩, tiles := [0], loadId := 7, nchunks := 2, toSend := [(0, [0, 1])], seals := [0], waiting := [0], phase := phase, round := round }
/-- Chunk 0 of an image of two chunks whose one segment fills the first 4 KiB of the register file. -/
def chunk0 : List Byte :=
  let d : List Byte := List.replicate 4096 0
  (natLe 4 0x54494C50 ++ natLe 2 2 ++ natLe 2 1 ++ List.replicate 0xF8 0 ++ natLe 4 0x100000 ++ natLe 4 4096 ++ natLe 4 4096) ++ d.drop 0x10C
theorem test_ProgramImages_chunk : 0 ∈ kget (load1 0 0).toSend (tileCode t00) [] ∧ 1 ∈ kget (load1 0 0).toSend (tileCode t00) [] ∧ ({} : Tile).imgState ≠ 1 ∧
    imgOk chunk0 2 = true ∧ imgPlace chunk0 1 = some 0x100000 ∧ imgCovered chunk0 [0] 1 = false ∧ destIn 0x100000 4096 = true ∧
    destIn 0x130000 4096 = false ∧ imgPlace chunk0 2 = none ∧ imgOk chunk0 3 = false := by decide
theorem test_ProgramImages_seal : tileCode t00 ∈ (load1 0 0).seals ∧
    (List.range 2).filter (fun c => !(decide (({ loadId := 7, imgState := 1, chunks := [0, 1] } : Tile).loadId.toNat = 7) && ([0, 1] : List Nat).contains c)) = [] := by decide
theorem test_ProgramImages_hash : let T : Tile := { sealed := some { loadId := 7, n := 2, digest := [] }, loadId := 7, imgState := 1 }
    T.sealed.isSome = true ∧ T.loadId = 7 ∧ T.imgState = 1 ∧ imgOk T.chunk0 2 = false ∧ T.imgState ≠ 2 := by decide
theorem test_ProgramImages_ends : (load1 0 3).phase = 0 ∧ tileCode t00 ∈ (load1 0 3).waiting ∧ (load1 0 3).waiting.erase (tileCode t00) = [] ∧ 3 ≤ (load1 0 3).round ∧ (load1 0 2).round < 3 ∧
    (load1 1 0).phase = 1 ∧ (load1 2 0).phase = 2 ∧ (load1 1 0).seals.erase (tileCode t00) = [] := by decide
theorem test_ProgramImages_lag : up.ready = true ∧ up.groupOf 2303 < 64 := by decide

/-! ### Commands of a job -/

theorem test_CommandsTurnedAway : let r := (cmdS 6 1 [(9, 1)] []).cmdFront 0
    r.2.isSome = true ∧ r.1.cmdBad 0 (r.2.getD []) = none ∧ r.1.cmdWaits 0 (r.2.getD []) = false ∧ fldLe (r.2.getD []) 0 1 = 6 := by decide
theorem test_CommandsTurnedAway_bad : let r := (cmdS 1 2 [(8, 1)] []).cmdFront 0
    r.1.cmdBad 0 (r.2.getD []) = some (4, 2) ∧ r.1.cmdWaits 0 (r.2.getD []) = false ∧
    (let a := (cmdS 6 1 [(8, 1)] []).cmdFront 0; a.1.cmdBad 0 (a.2.getD []) = some (5, 8)) ∧
    (let b := (cmdS 3 2 [(63, 1)] []).cmdFront 0; b.1.cmdBad 0 (b.2.getD []) = some (2, 63)) ∧
    (let c := (cmdS 3 2 [] [(RegKind.jCfg.at 0, 1)]).cmdFront 0; c.1.cmdBad 0 (c.2.getD []) = some (3, 0)) := by decide
/-- COMMIT of a job that is IDLE, a COLLECTIVE of a group with one member, and opcodes that are not allocated. -/
theorem test_CommandsTurnedAway_more : (let r := (cmdS 4 1 [] []).cmdFront 0
     r.1.cmdWaits 0 (r.2.getD []) = false ∧ (r.1.cmdBad 0 (r.2.getD [])).isSome = true ∧ ∀ i, i < 16 → ((cmdS 4 1 [] []).job i).commit = none) ∧
    (∀ way ∈ [0, 1, 2, 3, 4], let r := (cmdS 5 2 [(16, BitVec.ofNat 8 way)] []).cmdFront 0
     r.1.cmdWaits 0 (r.2.getD []) = false ∧ (r.1.cmdBad 0 (r.2.getD [])).isSome = true ∧ fldLe (r.2.getD []) 0x10 1 = way) ∧
    fldLe (((cmdS 0 1 [] []).cmdFront 0).2.getD []) 0 1 = 0 ∧ ((cmdS 0 1 [] []).cmdFront 0).2.isSome = true ∧
    fldLe (((cmdS 255 1 [] []).cmdFront 0).2.getD []) 0 1 = 255 := by decide
theorem test_CommandsTurnedAway_arrivals : let r := (cmdS 3 2 [(0x14, 1)] []).cmdFront 0
    r.1.cmdBad 0 (r.2.getD []) = none ∧ (∀ x ∈ r.1.running, x.queue ≠ 0) ∧ r.1.fld .jArrive 16 16 0 < fldLe (r.2.getD []) 0x14 4 ∧ (r.1.job 0).arrExpired = false := by decide
theorem test_StepCommands_start : ((cmdS 1 1 [] []).takeCmd 0 (wantOp 1)).2.isSome = true ∧ ((cmdS 1 1 [] []).takeCmd 0 (wantOp 1)).1.segWait = [] ∧
    (∀ st, st < 16 → ((cmdS 1 1 [] []).takeCmd 0 (wantOp 1)).1.tripped st = false) ∧ ((cmdS 1 1 [] []).takeCmd 0 (wantOp 1)).1.upset = [] ∧
    0 ∈ rectOf (up.reg .jRect 0) := by decide
theorem test_StepCommands_sweep : ((cmdS 3 2 [] []).takeCmd 0 (wantOp 3)).2.isSome = true ∧ ((cmdS 3 2 [] []).takeCmd 0 (wantOp 3)).1.stageServes 0 = true ∧
    ((cmdS 3 2 [] []).takeCmd 0 (wantOp 3)).1.segWait = [] := by decide
theorem test_StepCommands_commit : let r := (cmdS 4 4 [] []).takeCmd 0 (wantOp 4)
    r.2.isSome = true ∧ (r.1.job 0).absorb = false ∧ (r.1.job 0).comparing = false ∧ r.1.twin = 0 ∧ (r.1.job 0).buckets = [] ∧ r.1.givenUp 0 = false ∧
    (∀ i, i < 16 → ((cmdS 4 4 [] []).job i).commit = none) ∧
    (({ cmdS 4 4 [] [] with jobs := [(0, { buckets := [(0, { isOpen := true })] })] } : State).takeCmd 0 (wantOp 4)).2.isSome = true ∧
    (({ cmdS 4 1 [] [] with jobs := [(0, { absorb := true })] } : State).takeCmd 0 (wantOp 4)).2.isSome = true := by decide
/-- Group 0 of two members, this device (node 5) and node 6. -/
def groupR : List (Nat × BitVec 64) :=
  [(RegKind.groupCfg.at 0, 2), (RegKind.member.at 0 0, 5), (RegKind.member.at 0 1, 6), (RegKind.faNode.at 0, 5), (RegKind.faNode.at 1, 5)]
theorem test_StepWork_collective : let r := (cmdS 5 2 [] groupR).takeCmd 0 (fun b => wantOp 5 b && (fldLe b 0x10 1 == 0 || fldLe b 0x10 1 > 3))
    r.2.isSome = true ∧ 2 ≤ r.1.groupSize 0 ∧ r.1.groupRank 0 < r.1.groupSize 0 ∧ r.1.segWait = [] ∧ r.1.colls = [] := by decide
theorem test_StepWork_key : ((upT { keyIn := [{ key := 1, step := 2, ports := 0, token := 63 }] }).tile (tileCode t00)).keyIn = [{ key := 1, step := 2, ports := 0, token := 63 }] := by decide
theorem test_StepWork_sweep : let s : State := { upR [(RegKind.jStatus.at 0, 4)] with jobs := [(0, { sweep := some ⟨0, 0, []⟩ })] }
    (s.job 0).sweep = some ⟨0, 0, []⟩ ∧ s.phase 0 = 4 ∧ s.l2Done 0 = true ∧ s.twin ≠ 4 ∧ s.givenUp 0 = false ∧ s.migDir = [] ∧ (s.job 0).wrote = [] ∧ (upR [(RegKind.jStatus.at 0, 20)]).fld .jStatus 4 1 0 = 1 := by decide
/-- A store of tile (0, 0) to the first granule of HBM is in flight. -/
theorem test_StepWork_skip : upM.scrubs = false ∧ ({ upM with scrubs := true } : State).writePending 0 4 = false ∧
    ({ upT { ops := [{ tag := 0, slot := 0, kind := .gst [1, 2], addr := 3 }] } with scrubs := true } : State).writePending 0 4 = true := by decide
theorem test_StepWork_scrub : let r := upM.memRead .mgmt 0 4
    (r.1.memRead .mgmt 64 2).2 = natLe 2 (bf16Rne (leNat r.2)).1 ∧
    (let q := { upM with hbm := [(64, 1)] }.memRead .mgmt 0 4; (q.1.memRead .mgmt 64 2).2 ≠ natLe 2 (bf16Rne (leNat q.2)).1) := by decide

/-! ### Votes, buckets and embedding engines -/

def votS (J : Job) (st : Nat) : State := { upR ([(RegKind.jStatus.at 0, 3)] ++ twinR st) with jobs := [(0, J)] }
theorem test_Votes : (votS { level1 := true } 0).voteReady 0 = true ∧ (votS { level1 := true } 0).pairedMirror = false ∧
    (votS { level1 := true } 0x1A).voteReady 0 = true ∧ (votS { level1 := true } 0x1A).pairedMirror = true ∧
    (votS { level1 := true } 0x1A).aloneNow 0 = false ∧ (votS { level1 := true } 0x1A).twin ≠ 4 ∧ (votS { level1 := true } 0x1A).fatal = false ∧
    ((votS { level1 := true } 0x1A).job 0).evSent = false ∧ ((votS { level1 := true } 0x1A).job 0).partnerEv = none := by decide
theorem test_VoteTimeout : let s : State := { upR (groupR ++ [(RegKind.jStatus.at 0, 3)]) with jobs := [(0, { cast := true, sweep := some ⟨0, 0, []⟩ })] }
    s.phase 0 = 3 ∧ (s.job 0).cast = true ∧ s.votesMissing 0 ≠ 0 := by decide
def seg1 : Seg := { tile := 0, slot := 1, gen := 2, job := 0, bucket := 3, port := 0, elem := 0, nelem := 1, ret := 0, retTok := 0, step := 0 }
def bktS (B : Bucket) (recs : List SegRec) (ends : List EndMark) (phase : Nat) : State :=
  { upR [(RegKind.jStatus.at 0, BitVec.ofNat 64 phase)] with jobs := [(0, { buckets := [(3, B)] })], segFly := recs, endFly := ends }
theorem test_Buckets_record : let s := bktS { isOpen := true, segs := [seg1] } [{ seg := seg1, bytes := [1, 2] }] [] 2
    (s.segFly[0]?).isSome = true ∧ s.packetTurn seg1.tile 0 (some (segDest seg1)) = true ∧ seg1.bad = false ∧ s.segLate seg1 = false ∧ (s.bucket 0 3).stageFull = false ∧ (s.bucket 0 3).isOpen = true ∧ (s.bucket 0 3).segs.find? (Seg.same seg1) = some seg1 ∧
    (upR [(RegKind.jSizes.at 0, 1)]).bstaged 0 + 2 ≤ (upR [(RegKind.jSizes.at 0, 1)]).fld .jSizes 0 8 0 * 2 ^ 30 := by decide
theorem test_Buckets_marker : let s := bktS { isOpen := true, segs := [{ seg1 with bytes := [1, 2, 3, 4] }] } [] [{ seg := seg1, flags := 0, cancelled := false }] 2
    (s.endFly[0]?).isSome = true ∧ s.packetTurn seg1.tile 0 (some (segDest seg1)) = true ∧ s.segFly = [] ∧ s.segLate seg1 = false ∧ seg1.rogue = false ∧ seg1.nelem * (s.bucket 0 3).gsz ≤ 4 := by decide
theorem test_Buckets_timeout : let s := bktS { isOpen := true } [] [] 3
    s.phase 0 = 3 ∧ (s.job 0).cast = false ∧ (s.bucket 0 3).isOpen = true ∧ (s.bucket 0 3).localDone = false := by decide
theorem test_Buckets_release : (bktS { isOpen := true, shardSent := true } [] [] 4).phase 0 = 4 ∧ (bktS { isOpen := true, shardSent := true } [] [] 4).bucketReady 0 3 = true := by decide

theorem test_Embedding_lookup : let k : StreamReq := { ask1 with kind := .lookup 0 [(some 0, 0)], resp := none, desc := desc [] }
    let T := askT k { st := 2, gen := 7, desc := desc [] }
    let s : State := { upT T with migDir := [(0, { table := (T.str 31).desc.table, index := 0, stack := 3, st := 2, addr := 0 })] }
    (T.reqs.find? fun r => r.id == 9) = some k ∧ k.desc = (T.str 31).desc ∧ k.lost = false ∧ k.fwd = none ∧ (T.str 31).desc.leader = false ∧
    s.away (T.str 31).desc.table 0 = some { table := (T.str 31).desc.table, index := 0, stack := 3, st := 2, addr := 0 } ∧ (upT T).away (T.str 31).desc.table 0 = none ∧
    s.bagServed k.desc.table [(some 0, 0)] = true ∧ k.fwdLost = false ∧ s.packetTurn (tileCode t00) 9 (s.reqDest (tileCode t00) k) = true := by decide
/-- A directory of one open table of job 0: DIM 16, 64 rows in region 0, the default row after them, and the given flags. -/
def dirS (flags : Nat) : State :=
  let d := mputs [] 0 (natLe 1 flags ++ natLe 1 0 ++ natLe 2 16 ++ natLe 4 1 ++ natLe 8 64 ++ natLe 8 0 ++ natLe 8 8192)
  { upR [(RegKind.region.at 0, 3), (RegKind.emSizes.at 0, 0x10000), (RegKind.jStatus.at 0, 2)] with hbm := d, dirMem := d }
def push1 (home index : Nat) : PushRec :=
  { tile := 0, slot := 1, gen := 2, die := 0, home := home, table := 0, index := index, job := 0, step := 0, bf16 := false, bytes := List.replicate 64 0 }
theorem test_Embedding_open : (dirS 1).tabOpen ((dirS 1).tab 0) = true ∧ (dirS 9).tabOpen ((dirS 9).tab 0) = true ∧ ((dirS 9).tab 0).defGrad = true ∧
    ((dirS 1).tab 0).rows = 64 ∧ ((dirS 1).tab 0).defGrad = false ∧ (dirS 1).natural ((dirS 1).tab 0) 63 = 0 ∧ upM.tabOpen (upM.tab 0) = false := by decide
theorem test_Embedding_push : ({ dirS 9 with pushFly := [push1 0 63, push1 0 64, push1 5 3] } : State).pushFly[2]? = some (push1 5 3) ∧
    (∀ p ∈ [push1 0 63, push1 0 64], ¬ (p.tile = 0 ∧ p.home = 5 ∧ p.table = 0 ∧ (dirS 9).pushRow p = 3)) ∧ (dirS 9).dieServes 0 = true ∧
    (dirS 9).pushRow (push1 0 70) = 64 ∧ ({ dirS 9 with pushFly := [push1 5 3] } : State).packetTurn 0 0 (some ((dirS 9).pushDest (push1 5 3))) = true ∧ (push1 0 0).step = (dirS 9).step 0 ∧ (dirS 9).staged 0 = 0 ∧
    (0, 0) ∉ ((dirS 9).job 0).fullDies ∧ ((dirS 9).job 0).closedStep ≠ some 0 ∧ ((dirS 9).job 0).cast = false ∧ stepBefore 1 2 = true ∧
    ({ dirS 9 with jobs := [(0, { cast := true })] } : State).step 0 = (push1 0 0).step := by decide
def ask (op index : Nat) : BitVec 64 := BitVec.ofNat 64 (index * 2 ^ 16 + op * 2 ^ 60)
theorem test_Embedding_migration : (({ dirS 1 with embs := [(15, { migReq := some (ask 1 63) })] } : State).emb 15).migReq = some (ask 1 63) ∧
    bfld (ask 1 63) 60 3 = 1 ∧ bfld (ask 1 63) 16 40 = 63 ∧ bfld (ask 7 64) 60 3 = 7 ∧ (dirS 1).natural ((dirS 1).tab 0) 63 ≠ 15 ∧ (dirS 1).dieServes 15 = true := by decide

/-! ### Frames and packets -/

/-- A Faolo packet of context 0 to node 5, in its IPv4 frame without a VLAN tag and without a UDP checksum. -/
def pkt (op src psn : Nat) (pay : List Byte) : List Byte :=
  let h := faoloHdr 3 op pay.length 0 0 src 5 psn 0 0 0 0 0 0 ++ pay
  h ++ natBe 4 (crc32c h).toNat
def zeros (n : Nat) : List Byte := List.replicate n 0
def ether (body : List Byte) : List Byte := body ++ natLe 4 (fcs body).toNat
def frame (f : List Byte) : List Byte :=
  ether (zeros 12 ++ natBe 2 0x0800 ++ natBe 1 0x45 ++ zeros 5 ++ natBe 2 0x4000 ++ natBe 1 64 ++ natBe 1 17 ++ zeros 10 ++ natBe 2 49152 ++
    natBe 2 48812 ++ natBe 2 (8 + f.length) ++ zeros 2 ++ f)
def pause1 : List Byte :=
  ether (natBe 6 0x0180C2000001 ++ zeros 6 ++ natBe 2 0x8808 ++ natBe 2 0x0101 ++ natBe 2 1 ++ natBe 2 65535 ++ zeros 40)
/-- Port 0 up without VLAN, and context 0 in state st, on port 0, with peer node 6 and alternative port alt. -/
def ctxS (st alt : Nat) (C : Ctx) : State :=
  { upR [(RegKind.poLink.at 0 0, 1), (RegKind.poVlan.at 0 0, 0x1000), (RegKind.faNode.at 0, 0x10005), (RegKind.faNode.at 1, 0x10005),
      (RegKind.region.at 0, 3), (RegKind.licStatus.at, 3), (RegKind.faCtxCount.at 0, 1), (RegKind.faCtxCount.at 1, 1)] with
    hbm := mputs [] 0 (natLe 1 st ++ natLe 1 0 ++ natLe 1 alt ++ natLe 1 0 ++ natLe 2 6), ctxs := [(0, C)] }
theorem test_FramesTakenIn : (ctxS 2 0 {}).on = true ∧ (ctxS 2 0 {}).takes 0 = true ∧ up.takes 0 = false ∧ (ctxS 2 0 {}).ctxRec 0 = { st := 2, port := 0, peer := 6, peerCtx := 0, mac := zeros 6, pip := zeros 16 } := by
  decide
theorem test_FramesTakenIn_frames : (ctxS 2 0 {}).parse 0 pause1 ≠ .bad 0 ∧ (ctxS 2 0 {}).parse 0 (zeros 17) = .bad 0 ∧
    (match (ctxS 2 0 {}).parse 0 (frame (pkt 7 6 0 [])) with | .pkt p => p.op == 7 && (ctxS 2 0 {}).pktBad 0 p == none && up.pktBad 0 p == some 8 | _ => false) = true ∧
    (match (ctxS 2 0 {}).parse 0 pause1 with | .pfc b => fldBe b 0 2 == 1 | _ => false) = true := by decide

def tx (op psn : Nat) : TxPkt := { op := op, psn := psn }
/-- A packet as received on context 0. -/
def rxp (op psn : Nat) (pay : List Byte) : Pkt :=
  { op := op, first := true, last := true, ctx := 0, cls := 0, src := 6, dst := 5, psn := psn, status := 0, apsn := 0, ecn := 0, climit := 0, ts := 0, echo := 0, pay := pay }
theorem test_PacketEffects_sack : let C := (ctxS 2 0 { out := [tx 1 0xFFFFFF, tx 1 0] }).ctx 0
    let p := rxp 8 0 (natLe 4 0xFFFFFF ++ natLe 32 2)
    C.out.filter (fun t => !psnBefore t.psn 0xFFFFFF) = [tx 1 0xFFFFFF, tx 1 0] ∧ (fldLe p.pay 4 32).testBit 0 = false ∧ (fldLe p.pay 4 32).testBit 1 = true ∧
    (0xFFFFFF + 2 ^ 24 - fldLe p.pay 0 4 % 2 ^ 24) % 2 ^ 24 = 0 ∧ (tx 1 0xFFFFFF).resentAt = none ∧ (ctxS 2 0 {}).diag = false := by decide
theorem test_PacketEffects_sync : let C := (ctxS 2 0 { incarnation := 3 }).ctx 0
    fldLe (rxp 10 0 (natLe 4 3)).pay 0 4 = C.incarnation ∧ fldLe (rxp 10 0 (natLe 4 4 ++ natLe 4 65535)).pay 0 4 ≠ C.incarnation ∧ C.out = [] ∧ C.rx = none := by decide
/-- Context 0 waits for packet 0xFFFFFF and has granted one unit; queue 0 is open. -/
def atExp : State := let s := ctxS 2 0 { expPsn := 0xFFFFFF, grant := 1, nextMsn := 7, window := 0 }
  { s with regs := [(RegKind.quCfg.at 0 0, BitVec.ofNat 64 (2 + 12 * 2 ^ 48)), (RegKind.quStatus.at 0 0, 1)] ++ s.regs, egress := [{ id := 4, queue := 0, ctx := 1, msn := 0, desc := [2, 0, 0, 0, 0], deadline := none, started := true, txMsn := 9 }] }
theorem test_PacketEffects_exp : let C := atExp.ctx 0
    (rxp 1 0xFFFFFF []).psn = C.expPsn ∧ C.held = [] ∧ C.rx = none ∧ C.out = [] ∧ C.recv + pktUnits 1 (zeros 4096) ≤ C.grant ∧ ¬ C.recv + pktUnits 1 (zeros 4097) ≤ C.grant ∧
    (let r := zeros 8 ++ natLe 4 16777216 ++ natLe 2 0xFFFF
     fldLe r 12 2 = 0xFFFF ∧ 1 ≤ fldLe r 8 4 ∧ fldLe r 8 4 ≤ 16777216) ∧
    (atExp.egress.find? fun (e : Egress) => e.started && fldLe e.desc 0 1 == 2 && fldLe e.desc 4 4 == 0 && e.txMsn == fldLe (natLe 4 0 ++ natLe 4 9) 4 4).isSome = true := by decide
def sendPay (q len : Nat) : List Byte := natLe 4 q ++ natLe 4 7 ++ zeros 4 ++ natLe 4 len ++ zeros len
theorem test_PacketEffects_send : let p := sendPay 0 1
    fldLe p 4 4 = (atExp.ctx 0).nextMsn ∧ fldLe p 8 4 = 0 ∧ fldLe p 12 4 = 1 ∧ (p.drop 16).length = 1 ∧ fldLe p 0 2 < 16384 ∧ atExp.items = [] ∧ (atExp.judge 0 1 1).1 = 0 ∧
    fldLe (sendPay 16383 1) 0 2 = 16383 ∧ (atExp.judge 16383 1 1).1 = 2 := by decide

/-- A collective segment of job 0, operation opid, step 0, and a sparse-exchange segment. -/
def collSeg (kind opid count : Nat) (d : List Byte) : List Byte :=
  natLe 1 kind ++ natLe 1 0 ++ natLe 2 opid ++ zeros 8 ++ natLe 2 count ++ zeros 2 ++ d
def sparse (kind table no count : Nat) (d : List Byte) : List Byte :=
  natLe 1 kind ++ natLe 1 0 ++ natLe 2 table ++ zeros 4 ++ natLe 4 no ++ natLe 2 count ++ zeros 2 ++ d
/-- Job 0 is SWEPT in group 0 of this device and node 6, the peer of context 0; bucket 3 and collective 0x8000 are open. -/
def segS : State :=
  let s := ctxS 2 0 { asks := [(0, 9)] }
  let r : StreamReq := { ask1 with kind := .remote [(2, 0)] [], resp := none }
  { s with regs := [(RegKind.jStatus.at 0, 3)] ++ groupR ++ s.regs, jobs := [(0, { buckets := [(3, { isOpen := true })] })],
           colls := [{ cmd := ⟨0, 0, []⟩, job := 0, group := 0, seq := 0 }], tiles := [(0, askT r { st := 2, gen := 7, desc := desc [] })] }
theorem test_SegmentEffects_votes : fldLe (collSeg 4 0 0 []) 0 1 = 4 ∧ segS.segTime 0 0 = 1 ∧ segS.ctxPeer 0 = 6 ∧ segS.rankOf (segS.jobGroup 0) 6 = some 1 ∧ (segS.job 0).votes = [] := by
  decide
theorem test_SegmentEffects_bucket : (cHdr (collSeg 1 3 0 [])).opid = 3 ∧ (segS.bucket 0 3).isOpen = true ∧ segS.rankOf (segS.bucket 0 3).group 6 = some 1 ∧
    (segS.bucket 0 3).reports = [] ∧ runAgain (segS.bucket 0 3).parts (runOf (cHdr (collSeg 2 3 1 (zeros 8))) 1 8 (collSeg 2 3 1 (zeros 8))) = false ∧
    runAgain (segS.bucket 0 3).results (runOf (cHdr (collSeg 3 3 2 (zeros 8))) 1 4 (collSeg 3 3 2 (zeros 8))) = false ∧ (segS.bucket 0 3).shardSums = [] := by decide
theorem test_SegmentEffects_collective : 0x8000 ≤ (cHdr (collSeg 5 0x8000 0 (natLe 4 9))).opid ∧
    (segS.colls.find? fun (x : Coll) => x.job == 0 && x.opid == 0x8000 && (segS.rankOf x.group 6).isSome).isSome = true ∧ (segS.colls.map fun y => y.cmd.id).Nodup ∧
    (∀ x ∈ segS.colls, x.counts = []) ∧ fldLe (collSeg 6 0x8000 1 [1]) 0 1 = 6 := by decide
theorem test_SegmentEffects_sparse : segS.segTime 0 (fldLe (sparse 5 0 0 1 (zeros 4)) 4 4) = 1 ∧ fldLe (sparse 5 0 0 1 (zeros 4)) 0x0C 2 = 1 ∧ fldLe (sparse 6 0 0 1 (zeros 8)) 0 1 = 6 ∧
    fldLe (sparse 7 0 0 0 (zeros 8)) 0 1 = 7 ∧ (segS.job 0).ends = [] ∧ fldLe (sparse 1 0 0 0 []) 0 1 = 1 ∧ fldLe (sparse 3 0 0 1 (zeros 8)) 0 1 = 3 := by decide
theorem test_SegmentEffects_answers : let r : StreamReq := { ask1 with kind := .remote [(2, 0)] [], resp := none }
    fldLe (sparse 2 0 2 1 [1, 2]) 0x0C 2 = 1 ∧ fldLe (sparse 4 2 2 1 [1, 2]) 0 1 = 4 ∧ (segS.ctx 0).asks = [(0, r.id)] ∧ ((segS.tile 0).reqs.find? fun q => q.id == r.id) = some r ∧
    r.part = [] ∧ segS.twinMode = 0 ∧ fldLe (sparse 4 2 2 1 [1, 2]) 2 2 ≤ 8176 ∧ fldLe (sparse 2 0 2 1 [1, 2]) 8 4 = 2 ∧ ((segS.tile 0).str r.slot).desc.leader = false := by decide
theorem test_SegmentEffects_live : (upR (twinR 0x1A)).pairedMirror = true ∧ (upR (twinR 0x1A)).roleBit = 1 ∧ (∀ k ∈ (upR ((RegKind.jStatus.at 0, 1) :: twinR 0x1A)).twinJobs, (upR ((RegKind.jStatus.at 0, 1) :: twinR 0x1A)).phase k ≠ 5) ∧ ((upR ((RegKind.jStatus.at 0, 1) :: twinR 0x1A)).phase 0 ≠ 0) ∧ (upR (twinR 0x1A)).fatal = false ∧
    stepBefore 0 (up.step 0) = false := by decide

/-! ### Contexts, ports and queues -/

theorem test_ContextTimers : ((ctxS 1 0 {}).ctxRec 0).st = 1 ∧ ((ctxS 2 0 {}).ctxRec 0).st = 2 ∧ up.ctxSt 0 = 0 ∧ up.on = true ∧
    ((ctxS 2 0 { expPsn := 0xFFFFFF, grant := 1 }).ctx 0).expPsn ≠ (({} : Ctx)).apsnSent ∧ ((ctxS 2 0 { grant := 1 }).ctx 0).grant ≠ (({} : Ctx)).grantSent ∧
    ((ctxS 2 0 { out := [tx 1 0] }).ctx 0).retries + 1 < up.ccRetry ∧ up.ccRetry ≤ ((ctxS 2 0 { retries := 15 }).ctx 0).retries + 1 ∧
    ¬ up.ccRetry ≤ ((ctxS 2 0 { retries := 14 }).ctx 0).retries + 1 ∧ (up.ctxRec (2 ^ 20 + 1)).st = 2 ∧ (2 ^ 20 + 1 : CtxId).val = 2 ^ 20 + 1 := by decide
theorem test_ContextTimers_cache : kget ({ ctxS 2 0 {} with ctxCache := [(0, [(0, true)])] } : State).ctxCache ((({ ctxS 2 0 {} with ctxCache := [(0, [(0, true)])] } : State).ctxRec 0).port % 2) [] = [(0, true)] ∧
    kget (ctxS 2 0 {}).ctxCache 0 [] = [] ∧ (ctxS 2 0 {}).egress = [] ∧ ((ctxS 2 0 {}).ctx 0).rx = none := by decide
theorem test_ContextTimers_failover : (ctxS 2 0x91 {}).port .poLink 0 1 0 = 1 ∧ up.port .poLink 0 1 0 ≠ 1 ∧
    (let s := { ctxS 2 0x91 {} with regs := (RegKind.poLink.at 0 0, 0#64) :: (ctxS 2 0x91 {}).regs }
     s.port .poLink 0 1 0 ≠ 1 ∧ (s.ctxRec 0).alt.testBit 7 = true ∧ (s.ctxRec 0).st = 2) := by decide
theorem test_PortEvents_transmit : let s (C : Ctx) := ctxS 2 0 C
    (s {}).ctxs = [(0, {})] ∧ (s {}).takes 0 = true ∧ (s {}).ctxOut 0 = 0 ∧ (s {}).paused 0 ((s {}).ctxRec 0).prio = false ∧ (s {}).twin ≠ 4 ∧
    (s { sackWant := true }).sackDue 0 = true ∧ (s {}).sackDue 0 = false ∧ ([tx 1 5, { tx 1 6 with again := true }].find? fun t => t.again) = some { tx 1 6 with again := true } ∧
    (s {}).diag = false ∧ (upR [(RegKind.boot.at, 32)]).diag = true ∧ pktUnits (tx 1 0).op (zeros 4096) = 1 ∧ 1 ≤ (0 + 2 ^ 16 - 65535 % 2 ^ 16) % 2 ^ 16 ∧ ¬ 1 ≤ (65535 + 2 ^ 16 - 65535 % 2 ^ 16) % 2 ^ 16 := by decide
theorem test_PortEvents_links : (ctxS 2 0 {}).port .poLink 0 1 0 = 1 ∧ (ctxS 2 0 {}).port .poLink 0 1 17 = 0 ∧ (upR [(RegKind.poMac.at 1 15, 1)]).portOpen 15 = true ∧ up.portOpen 17 = false ∧
    (upR [(RegKind.poMac.at 1 15, 13), (RegKind.licStatus.at, 2)]).port .poMac 1 2 15 = 2 ∧ (upR [(RegKind.poMac.at 1 15, 13), (RegKind.licStatus.at, 2)]).port .poMac 3 1 15 = 1 ∧
    (upR [(RegKind.poMac.at 1 15, 13), (RegKind.licStatus.at, 2)]).tier = 2 ∧ 15 ∉ up.xrDown ∧
    ([.oui (BitVec.ofNat 24 (up.fld .faOui 0 24 1)), .unformatted 0x2C1, .null] : List AnPage).take 2 = [.oui (BitVec.ofNat 24 (up.fld .faOui 0 24 (15 % 2))), .unformatted 0x2C1] := by decide
theorem test_PortEvents_pause : (match (ctxS 2 0 {}).parse 0 pause1 with | .pfc b => (fldBe b 0 2).testBit 0 && fldBe b 2 2 == 65535 | _ => false) = true ∧
    (upR [(RegKind.poMac.at 0 0, 0x20)]).port .poMac 5 8 0 = 1 ∧ (ctxS 2 0 {}).port .poMac 5 8 0 = 0 := by decide

def item1 : Item := { id := 3, queue := 0, ctx := 0, msn := 6, len := 1, bytes := [9], complete := true }
/-- One item for queue 0, which is open with a ring of 4 KiB, or an egress queue. -/
def queS (i : Item) (kind : Nat) : State := { atExp with items := [i], regs := (RegKind.quCfg.at 0 0, BitVec.ofNat 64 (kind + 12 * 2 ^ 48 + 63 * 2 ^ 24)) :: atExp.regs, egress := [] }
theorem test_QueueEvents_accept : (queS item1 2).itemAt (fun i => i.ctx == 0 && i.msn == 6 && (queS item1 2).acceptable i) = some item1 ∧ (queS item1 2).qPaired 0 = false ∧
    (queS item1 2).qKind 0 = 2 ∧ (queS item1 3).qKind 0 = 3 ∧ (queS item1 2).on = true ∧ (queS item1 2).fatal = false ∧ ({ queS item1 2 with fatal := true } : State).fatal = true ∧ ((queS item1 2).items.map (·.id)).Nodup ∧
    (queS item1 2).itemAt (fun i => i.ctx == 0 && i.msn == 5 && (queS item1 2).acceptable i) = none := by decide
theorem test_QueueEvents_deliver : let i := { item1 with accepted := true, deadline := some 4 }
    (queS i 2).dieNext 0 = some i ∧ (queS i 2).q .quStatus 10 1 0 = 0 ∧ (queS i 2).q .quCfg 24 6 0 = 63 ∧ (queS i 2).void = false ∧
    ({ queS i 2 with uptime := 5 } : State).uptime > 4 := by decide
def egr (d : List Byte) : Egress := { id := 3, queue := 0, ctx := 0, msn := 6, desc := d, deadline := none }
theorem test_QueueEvents_egress : let w := natLe 4 1 ++ zeros 12 ++ natLe 4 16777216 ++ zeros 44
    ((ctxS 2 0 {}).egressOk (egr w) = true ∧ (ctxS 2 0 {}).egressOk (egr (zeros 64)) = false ∧ (ctxS 2 0 {}).egressOk (egr (natLe 4 2 ++ w.drop 4)) = true ∧
     (ctxS 1 0 {}).egressOk (egr w) = false ∧ (ctxS 2 0 {}).ownFlow none 1 = true ∧ (ctxS 2 0 {}).twin ≠ 4) ∧ ([egr w].find? fun e => e.ctx == 0 && e.msn == 6 && !e.started) = some (egr w) := by decide
def ent1 : JEnt := { off := 0x200000, size := 64, queue := 0, ctx := 0, msn := 6, jsn := 1, len := 1, ord := 0 }
theorem test_QueueEvents_journal : let i := { item1 with journal := some 1 }
    let s := { queS i 2 with journal := [ent1] }
    s.itemAt (fun i => i.ctx == 0 && i.msn == 6 && i.journal.isSome && !i.journalled) = some i ∧ (s.journal.find? fun x => x.jsn == 1) = some ent1 ∧
    (s.journal.map (·.jsn)).Nodup ∧ ent1.pad = false ∧ i.origin ≠ 1 := by decide
theorem test_ClocheFlushes : up.pwrgood = true ∧ up.warmUntil ≤ up.uptime ∧ ({ up with warmUntil := 5 } : State).uptime < 5 ∧ up.startWait = none ∧
    (∀ i ∈ (queS { item1 with journal := some 1, journalled := true } 2).items, i.journal = none ∨ i.journalled = true) ∧ up.flush = none ∧ up.flashOp = none ∧ up.journalValid = false ∧
    ({ up with journalValid := true } : State).journalValid = true ∧ ({ up with flush := some .pfail } : State).resetAfter = none ∧
    ({ up with flush := some .reset, resetAfter := some true } : State).resetAfter = some true ∧ State.reset.pwrgood = false := by decide

/-! ### The twin -/

theorem test_TwinStates : (upR (twinR 0x1A)).on = true ∧ (upR (twinR 0x1A)).twinOn = true ∧ (upR (twinR 0x1A)).halvesUp = 2 ∧ (upR (twinR 0x1A)).fld .twState 3 1 = 1 ∧
    (upR (twinR 0x0A)).fld .twState 4 1 = 0 ∧ (upR (twinR 0x0A)).twin = 2 ∧ (upR (twinR 0x18)).twin = 0 ∧ (upR (twinR 0x1B)).twin = 3 ∧ (upR (twinR 0x1D)).twin = 5 ∧
    (upR (twinR 0x19)).twin = 1 ∧ up.twinOn = false ∧ (upR (twinR 0x1A)).diag = false ∧ (upR (twinR 0x1A)).fatal = false ∧
    (upR ((RegKind.boot.at, 32) :: twinR 0x1A)).diag = true ∧ ({ upR (twinR 0x1B) with rejoining := true } : State).rejoining = true := by decide
/-- A rejoin of a SOLO device whose jobs are closed matches at once. -/
theorem test_TwinStates_rejoin : let s := { upR (twinR 0x1B) with rejoining := true }
    let b := (s.tell [TwMsg.rejoined s.joinCopy]).baseStart
    s.twin = 3 ∧ ∀ j ∈ b.twinJobs, ∃ x, (b.peerBaseline.find? fun y => y.1 == j) = some (j, b.ddOf j, x) := by
  intro s b
  obtain ⟨d, own, out, h, -⟩ := baseStart_is (s.tell [TwMsg.rejoined s.joinCopy]) ⟨rfl, rfl⟩
  have hr : b.twinJobs = s.twinJobs := SameRegs.twinJobs (s := { s.tell [TwMsg.rejoined s.joinCopy] with dirMem := d, baseline := some own, twinOut := out }) h.2
  exact ⟨by decide, fun j hj => absurd (hr ▸ hj) (by rw [show s.twinJobs = [] by decide]; exact List.not_mem_nil)⟩
theorem two_differ (v : BitVec 128) : ([((0 : BitVec 16), (0 : BitVec 128)), (0, 1)].any fun x => x.1.toNat == 0 && x.2 != v) = true := by
  by_cases e : v = 0
  · subst e; decide
  · have h : ¬ 0#128 = v := fun h => e h.symm
    simp [h]
/-- A SOLO device in a rejoin, with table 0 open. -/
def soloD : State := { dirS 1 with regs := (dirS 1).regs ++ twinR 0x1B, rejoining := true }
theorem soloD_mem : (∀ x ∈ soloD.hbm, x.1 / 2 ^ 37 < 16) ∧ (soloD.hbm.filter fun (x : Nat × Byte) => !soloD.tripped (x.1 / 2 ^ 37)) = soloD.dirMem ∧
    soloD.tabOpen (soloD.tab 0) = true ∧ (soloD.tab 0).job = 0 := by decide
/-- One whose table 0 differs, with no block digest to narrow it, does not. -/
theorem test_TwinStates_diverge : let s := soloD
    let b := (s.tell [TwMsg.rejoined s.joinCopy]).baseStart
    let rep : Repair := { tds := [(0, 0), (0, 1)] }
    s.twin = 3 ∧ b.twinJobs = [0] ∧ ((kput b.peerBaseline 0 (zeros 33, rep)).find? fun y => y.1 == 0) = some (0, zeros 33, rep) ∧ zeros 33 ≠ b.ddOf 0 ∧
    ∃ t ∈ b.diffTabs true 0 rep, b.diffBlocks true 0 rep t = [] := by
  intro s b rep
  obtain ⟨d, own, out, ⟨e, hs⟩, hm⟩ := baseStart_is (s.tell [TwMsg.rejoined s.joinCopy]) ⟨rfl, rfl⟩
  have hs : SameRegs s b := hs
  have hd : b.dirMem = s.dirMem := (congrArg State.dirMem e).trans ((hm soloD_mem.1).trans soloD_mem.2.1)
  have hr : b.twinJobs = s.twinJobs := hs.twinJobs
  have hp : b.peerBaseline = [] := congrArg State.peerBaseline e
  have ht : b.tabOpen (b.tab 0) = true ∧ (b.tab 0).job = 0 := by rw [hs.tabOpen, hs.tab 0 hd]; exact soloD_mem.2.2
  refine ⟨by decide, hr.trans (by decide), by rw [hp]; rfl, ?_, 0, ?_, ?_⟩
  · intro e
    have := shake256_length (natLe 4 (b.step 0) ++ natLe 2 0 ++ (b.tablesOf 0).flatMap (fun t => [0] ++ natLe 2 t ++ natLe 16 (b.tdNew 0 t).toNat) ++
      (b.areasOf 0).flatMap (fun k => [1] ++ natLe 2 k ++ natLe 16 (b.adOf k).toNat))
    exact absurd (congrArg List.length e ▸ this : (zeros 33).length ≤ 32) (by decide)
  · have hm : 0 ∈ b.tablesOf 0 := List.mem_filter.2 ⟨List.mem_range.2 (by decide), by simp [ht]⟩
    exact List.mem_filter.2 ⟨hm, two_differ _⟩
  · clear_value b
    simp [State.diffBlocks, rep]
theorem test_TwinStates_pairing : let s := upR (twinR 0x18)
    let m : PairMsg := { mode := 1, role := true, pairNode := 1, digest := zeros 32, solo := false }
    m.mode.val = s.twinMode ∧ m.role ≠ s.roleB ∧ m.pairNode.toNat = s.pairNode ∧ m.digest = s.pairDig ∧ ({ m with mode := 2 } : PairMsg).mode.val ≠ s.twinMode := by decide
theorem test_TwinMessages_link : Instr.ofTwinLink .takeoverNotice = true ∧ up.twinOn = false ∧ (upR (twinR 0)).halvesUp = 0 ∧ (upR (twinR 0x1A)).twinOn = true ∧ (upR (twinR 0x1A)).halvesUp ≠ 0 ∧ (upR (twinR 0x1A)).fatal = false ∧
    ({ upR (twinR 0x1A) with fatal := true } : State).fatal = true ∧ (upR (twinR 0x1B)).twin = 3 ∧ (pktOf (relayPkt 6 5 1 [])).op = 1 := by decide
/-- The twin with a Cloche of 1 GiB, class 0 protected, and queue 0 open. -/
def twQ (st : Nat) (l : List Item) : State :=
  { upR (twinR st ++ [(RegKind.clCfg.at, 1), (RegKind.region.at 0, 3), (RegKind.prCfg.at 0 0, 0x4000), (RegKind.quStatus.at 0 0, 1), (RegKind.quCfg.at 0 0, BitVec.ofNat 64 (2 + 12 * 2 ^ 48))]) with
    items := l, nextItem := 4 }
theorem test_TwinMessages_item : let s := twQ 0x1A []
    s.qOpen 0 = true ∧ s.qKind 0 ≠ 3 ∧ ¬ (s.qRoom 0 < footprint 1) ∧ ¬ s.jFree < entSize 1 ∧ s.qProtect 0 = true ∧ s.qRoom 0 < footprint 65536 ∧ s.qOpen 16383 = false ∧
    (s.items.map (·.id)).Nodup ∧ (∀ i ∈ s.items, i.id ≠ s.nextItem) := by decide
theorem test_TwinMessages_answers : let a := item1
    let b := { item1 with origin := 1 }
    (twQ 0x1A [a]).mirrored 0 0 0 6 = some a ∧ (twQ 0x1A [b]).mirrored 1 0 0 6 = some b ∧ (twQ 0x1A [a]).orders = true ∧ (twQ 0x1A [a]).mirrored 0 0 0 7 = none ∧
    (twQ 0x1A [a]).mirrored 1 0 0 6 = none ∧ (twQ 0x1A [{ a with accepted := true }]).mirrored 0 0 0 6 = some { a with accepted := true } ∧ (twQ 0x1A [b]).qKind 0 ≠ 3 := by decide
def twJ (st phase : Nat) (J : Job) : State := { upR ((RegKind.jStatus.at 0, BitVec.ofNat 64 phase) :: twinR st) with jobs := [(0, J)] }
theorem test_TwinMessages_job : let s := twJ 0x1A 4 { comparing := true, commit := some ⟨2, 0, []⟩, dd := some (zeros 32) }
    s.twin = 2 ∧ (s.job 0).comparing = true ∧ s.step 0 = 0 ∧ (s.job 0).commit = some ⟨2, 0, []⟩ ∧ (s.job 0).dd = some (zeros 32) ∧ (s.job 0).dd ≠ some (1 :: zeros 31) ∧
    s.aloneNow 0 = false ∧ (s.job 0).repaired = false ∧
    (let u := twJ 0x1A 4 { comparing := true, commit := some ⟨2, 0, []⟩, dd := some (zeros 32), repaired := true }; (u.job 0).repaired = true ∧ u.twin = 2 ∧ u.aloneNow 0 = false ∧ (u.job 0).comparing = true) ∧ (twJ 0x1A 1 {}).phase 0 = 1 ∧ (twJ 0x1A 1 {}).baseline = none ∧
    s.pairedMirror = true ∧ (twJ 0x19 1 {}).twin = 1 ∧ (twJ 0x1C 1 {}).twin = 4 := by decide
theorem test_TwinMessages_catchup : let s := twJ 0x1A 2 { abandoned := [0] }
    s.catchupDue 0 = true ∧ (twJ 0x1A 6 { peerCommitted := some 0 }).catchupDue 0 = true ∧ stepBefore 0 (s.step 0) = false ∧ s.pairedMirror = true ∧ s.step 0 = 0 ∧ s.phase 0 ≠ 0 ∧ (s.job 0).commit = none ∧ (s.job 0).sweep = none ∧ (pktOf (relayPkt 1 5 1 [])).src = s.pairNode ∧
    (pktOf (relayPkt 6 5 0x10 (collSeg 4 0 0 []))).src ≠ s.pairNode ∧ (segS.segPkt 0 0x10 true true (collSeg 4 0 0 [])).isSome = true := by decide

/-! ### Power, resets, management -/

theorem test_ResetsAndStarts : up.pwrgood = true ∧ up.resetN = true ∧ up.warmN = true ∧ State.reset.pllLocked = false ∧ up.flush = none ∧
    ({ up with flush := some .pfail } : State).flush ≠ none ∧
    (let s : State := { up with flush := some .reset, resetAfter := some true, startWait := some {} }; s.resetN = true ∧ s.warmN = true ∧ s.jtagHolds = false) := by decide
/-- Powered, with the pins given. -/
def pins (r w j : Bool) : State := { up with resetN := r, warmN := w, jtagPins := j, jtagIr := if j then 3 else 1, ready := false }
theorem test_ResetsAndStarts_start : (pins false true false).pwrgood = true ∧ (pins false true false).pllLocked = true ∧ (pins false true true).jtagHolds = true ∧
    (pins true false false).warmN = false ∧ (pins true false false).startWait = none ∧ (pins true false false).aon = none ∧ (pins false false false).resetN = false := by decide
/-- The record an earlier start left. -/
def aon1 : AonRec :=
  { digest := [], slot := 0, size := 0, vendorDigest := [], vendorCopy := 0, devKey := none, idRegs := [], licDigests := [], hold := 0, cloche := [],
    regions := [], ports := [] }
/-- A start on the kept contexts, with READY due at an uptime. -/
def early1 (due : Nat) : State := { up with aon := some aon1, early := some { env := {}, img := none, due := due, ctxs := [] }, ready := false }
theorem test_ResetsAndStarts_warm : let s := { pins true false false with aon := some aon1 }
    s.pwrgood = true ∧ s.pllLocked = true ∧ s.flush = none ∧ s.warmN = false ∧ s.resetN = true ∧ s.startWait = none ∧ s.jtagHolds = false ∧ s.aon = some aon1 ∧
    (pins true false true).jtagHolds = true ∧ ({ pins true false false with startWait := some {} } : State).startWait ≠ none := by decide
theorem test_ResetsAndStarts_due : (early1 5).pending = [] ∧ (early1 5).tick.aon = some aon1 ∧ (early1 5).tick.on = true ∧ (early1 5).tick.fatal = false ∧
    (∃ e, (early1 5).tick.early = some e ∧ e.due ≤ (early1 5).tick.uptime) ∧ ∃ e, (early1 6).tick.early = some e ∧ (early1 6).tick.uptime < e.due :=
  ⟨rfl, by decide, by decide, by decide, ⟨_, rfl, by decide⟩, _, rfl, by decide⟩
theorem test_ResetsAndStarts_journal : let s := { up with journalValid := true }
    s.pwrgood = true ∧ s.resetN = true ∧ s.flush = none ∧ s.journalValid = true ∧ (∀ i ∈ s.items, i.journal = none ∨ i.journalled = true) := by decide
theorem test_FatalErrors_flush : let s (w : FlushWhy) : State := { up with flush := some w }
    (s .trip).engineOn = true ∧ (s .watchdog).engineOn = true ∧ (s .pfail).engineOn = true ∧ (s .pfail).resetAfter = none ∧
    ({ up with ready := false, fatal := true } : State).fatal = true ∧ ({ up with ready := false, fatal := true } : State).engineOn = true ∧
    ({ up with journalValid := true } : State).engineOn = true := by decide
theorem test_FatalErrors : up.engineOn = true ∧ State.reset.engineOn = false ∧ up.fatal = false ∧ up.reg .evFatal = 0 ∧ 115 ≤ (115#8).toNat ∧ (114#8).toNat < 115 ∧
    ({ up with flush := some .pfail, resetN := false } : State).engineOn = true ∧ up.resetAfter = none := by decide
theorem test_PowerPolicy_rails : up.on = true ∧ kget up.avs 24 [] = [] ∧ kget ({ up with avs := [(24, [1])] } : State).avs 24 [] ≠ [] ∧ 24 ∈ ({ up with avsLower := [24] } : State).avsLower := by
  decide
theorem test_PowerPolicy_samples : up.samples = true ∧ State.reset.samples = false ∧ up.ready = true ∧ up.gated = false ∧ up.hot = 98 ∧ up.floorLevel = 7 ∧
    ({ up with groups := [(63, { th := 1, lastSlow := some 0, lastChange := some 0 })], uptime := 10000000 } : State).grp 63 = { th := 1, lastSlow := some 0, lastChange := some 0 } := by decide
theorem test_PowerPolicy_diag : let s (v : BitVec 64) : State := upR [(RegKind.boot.at, v)]
    up.avsBegun = true ∧ (s 0x4020).avsBegun = false ∧ (s 0x4020).samples = true ∧ (s 0x4024).avsBegun = true ∧ (s 0x4024).stackSampled 1 = true ∧ (s 0x4024).stackSampled 2 = false ∧
    (s 0x4024).diag = true ∧ up.diag = false ∧ up.stackSampled 15 = true ∧ 24 ∈ ({ up with avsBad := [24] } : State).avsBad ∧
    ({ up with ready := false } : State).ready = false ∧ ({ up with gated := true } : State).gated = true ∧ (105 ≤ (105#8).toNat) := by decide
theorem test_PowerPolicy_stacks : up.fld .stStatus 0 2 15 = 0 ∧ (upR [(RegKind.stStatus.at 15, 3)]).fld .stStatus 0 2 15 = 3 ∧ up.poison = [] ∧ up.upset = [] ∧
    (upR [(RegKind.stStatus.at 15, BitVec.ofNat 64 (2 * 2 ^ 15))]).fld .stStatus 15 3 15 = 2 := by decide
def ev1 (n : Nat) : EvRec := { typ := 0x0101, count := n, src := 5, uptime := 0, data := [] }
theorem test_EventsAndFieldLog_hold : let s : State := { up with events := [(5, [ev1 255, ev1 254])] }
    kget s.events 5 [] = [ev1 255] ++ ev1 254 :: [] ∧ (∀ x ∈ [ev1 255], ¬ (x.typ = 0x0101 ∧ x.count < 255)) ∧ (kget s.events 5 []).length < 16 ∧
    (kget ({ up with events := [(5, List.replicate 16 (ev1 255))] } : State).events 5 []).length = 16 := by decide
/-- A ring of two records in region 0, with one unread. -/
def ringS : State := { upR [(RegKind.region.at 0, 3), (RegKind.evTail.at, 1)] with ringMapped := true, events := [(5, [ev1 1])] }
theorem test_EventsAndFieldLog_record : ringS.on = true ∧ ringS.ringMapped = true ∧ ringS.ringFull = false ∧ kget ringS.events 5 [] = [ev1 1] ∧ kget ringS.lost 5 0 = 0 ∧ ringS.ringLost = 0 ∧
    ({ ringS with regs := [(RegKind.evTail.at, BitVec.ofNat 64 ringS.ringLen)] } : State).ringFull = true ∧ ¬ up.fld .evCfg 5 2 ≤ 0 ∧ up.fld .evCfg 5 2 ≤ 2 := by decide
theorem test_EventsAndFieldLog_lost : let s : State := { up with events := [(5, [ev1 1])], lost := [(5, 2)] }
    evClass 0x0101 = 0 ∧ evClass 0x0205 = 1 ∧ evClass 0x0201 = 2 ∧ evClass 0x0F01 = 3 ∧ s.on = true ∧ kget s.events 5 [] = ev1 1 :: [] ∧ kget s.lost 5 0 ≠ 0 ∧ s.ringMapped = false ∧
    (∀ x ∈ ([] : List EvRec), ¬ (x.typ = 0x0104 ∧ x.count < 255)) := by decide
theorem test_EventsAndFieldLog_forward : let s := { ctxS 2 0 {} with regs := (RegKind.evCfg.at, 0x200#64) :: (ctxS 2 0 {}).regs, events := [(5, [ev1 1])] }
    s.fld .evCfg 9 1 = 1 ∧ s.fld .evCfg 7 2 ≤ 3 ∧ (s.ctxRec (s.fld .evFwd 0 20)).st = 2 ∧ s.ringMapped = false ∧ (up.ctxRec 0).st ≠ 2 := by decide
theorem test_EventsAndFieldLog_log : let s : State := { upR [(RegKind.flogStatus.at, 1)] with flogQueue := [(1, zeros 16)], flogSince := 1023, flogAt := 2 ^ 20 - 1 }
    s.pfailN = true ∧ s.flush = none ∧ s.fld .flogStatus 0 1 = 1 ∧ up.fld .flogStatus 0 1 = 0 ∧ s.flogAt < 2 ^ 20 ∧ ({ up with pfailN := false } : State).pfailN = false ∧
    ({ up with ibiPend := true } : State).ibiPend = true := by decide
theorem test_I3cAndTestAccess : State.reset.pwrgood = false ∧ up.pwrgood = true ∧ up.i3cAddr = none ∧ ({ up with i3cAddr := some 9 } : State).i3cAddr ≠ none ∧ up.startWait = none ∧
    (List.replicate 675 true).length = 675 ∧ up.jtagIr = 1 := by decide
theorem test_I3cAndTestAccess_scan : let s (ir : BitVec 8) : State := { up with jtagIr := ir, jtagPins := ir == 5, outside := { pins := List.replicate 675 true } }
    ({ bytes := [0], hdr := true } : I3cWrite).hdr = true ∧ (s 2).outside.pins.length = 675 ∧ (s 3).jtagIr = 3 ∧ (s 6).jtagIr = 6 ∧ (s 7).jtagIr = 7 ∧ (s 4).jtagIr = 4 ∧
    (s 5).jtagPins = true ∧ (s 1).jtagIr = 1 ∧ 7 < (s 0xFF).jtagIr.toNat ∧ (s 0).jtagIr = 0 ∧ (s 5).jtagIr = 5 ∧ Pin.ready ≠ .tdo := by decide
theorem test_I3cAndTestAccess_reset : let s := State.reset
    s.jtagPins = false ∧ s.pwrgood = false ∧ s.xspiUp = false ∧ s.ready = false ∧ s.faultN = true ∧ s.thermN = true ∧ s.flush = none := by decide
theorem test_I3cAndTestAccess_waits : let s : State := { up with startWait := some {}, jtagPins := true, jtagIr := 3, jtagX := true }
    s.startWait = some {} ∧ s.resetN = true ∧ s.warmN = true ∧ s.pwrgood = true ∧ s.pllLocked = true ∧ s.flush = none ∧ (pins false true false).flush = none := by decide

/-! ### Single steps and worked examples -/

/-- The state after a command. -/
def after (c : Instr) (s : State) : State :=
  match exec c s with
  | .next s' => s'
  | _ => {}
/-- Tile (0, 0), and a register of its task 0, after one instruction word with S registers and A registers of task 0 given. -/
def ranW (i : TileId → BitVec 8 → Instr) (v : Nat) (S : KMap (BitVec 32)) (A : KMap (BitVec 48)) (T : Tile) : Tile :=
  (after (i t00 0) (upT { T with slots := [(0, { st := .live, s := S, a := A })], mem := mputs T.mem isBase (natLe 8 v) })).tile 0
def sOf (T : Tile) (n : Nat) : Nat := ((T.slot 0).sreg n).toNat

/-- R93: ADD wraps, and SRA by a register takes its low five bits. -/
theorem test_alu_add_wraps : sOf (ranW .alu (word 1 (3 * 2 ^ 41 + 1 * 2 ^ 36 + 2 * 2 ^ 31)) [(1, 0xFFFFFFFF), (2, 2)] [] {}) 3 = 1 := by decide
theorem test_alu_sra : sOf (ranW .alu (word 1 (3 * 2 ^ 41 + 1 * 2 ^ 36 + 2 * 2 ^ 31 + 7 * 2 ^ 27)) [(1, 0x80000000), (2, 36)] [] {}) 3 = 0xF8000000 := by decide
/-- R95: LD sign-extends a byte. -/
theorem test_ld_sign : sOf (ranW .ld (word 4 (3 * 2 ^ 41 + 2 ^ 35)) [] [] { mem := mputs [] 0 [0x80] }) 3 = 0xFFFFFF80 := by decide
/-- R97: s0 reads as zero, so BEQ s0, s0 is taken; PC is relative to the branch. -/
theorem test_br_taken : ((ranW .br (word 9 0xFFFF) [] [] {}).slot 0).pc = 8191 := by decide
/-- R85: a token holds at 65,535, and TOKEN_OVF records it. -/
theorem test_token_saturates : let T := ranW .tadd (word 0x11 (2 * 2 ^ 43 + 5 * 2 ^ 37 + 2)) [] [] { tokens := [(5, 65534)] }
    T.token 5 = 65535 ∧ T.tokenOvf = 32 := by decide

/-- R58: the test vectors, and the key and counter of the example. -/
theorem test_sr_vectors : srBits 0 0 0 0 0 = 0 ∧ srBits 0 0 0 4 0 = 0xF2B8DCA5C9B8C987 ∧ (List.range 4).map (fun k => srField 0 0 0 (4 + k) 0) = [0xC987, 0xC9B8, 0xDCA5, 0xF2B8] := by
  decide
theorem test_sr_bf16 : (bf16Sr (srField 0 0 0 4 0) 0x3F80C000).1 = 0x3F81 ∧ (bf16Sr (srField 0 0 0 0 0) 0x3F80C000).1 = 0x3F80 := by decide
/-- R68: the worked sum, in both orders, and its read-outs. -/
def v3 : FVal := Fmt.fp32.decode 0x3E99999A
def v1 : FVal := .fin false 3 (-1)
def v2 : FVal := .fin true 3 (-2)
theorem test_window : ((({} : Win).add 3 3 v1 0).add 3 3 v2 0).acc = 0x0600000000000000 ∧ (((({} : Win).add 3 3 v1 0).add 3 3 v2 0).add 3 3 v3 0).acc = 0x0866666800000000 ∧
    ((({} : Win).add 3 3 v3 0).add 3 3 v1 0).acc = 0x0E66666800000000 ∧ (({ acc := 0x0866666800000000 } : Win).read32 3 0).1 = 0x3F866666 ∧
    (bf16Sr (srField 0 0 0 4 0) 0x3F866666).1 = 0x3F87 := by decide
/-- The check values of CRC-32C and of the Ethernet FCS (CRC-32), and the first bytes of SHAKE256 of nothing (FIPS 202). -/
def digits : List Byte := [0x31, 0x32, 0x33, 0x34, 0x35, 0x36, 0x37, 0x38, 0x39]
theorem test_crc : crc32c digits = 0xE3069283 ∧ fcs digits = 0xCBF43926 := by decide
theorem test_shake : shake256 [] 4 = [0x46, 0xB9, 0xDD, 0x2B] := by decide

/-- A write and a read of two bytes that cross a granule. -/
theorem test_write_then_read : let s := after (.masterAccess (.write .mgmt 63 [7, 8])) upM
    (after (.masterAccess (.read .mgmt 62 4)) s).rdata = [0, 7, 8, 0] := by decide
/-- R326: HEAD moves only within what has been delivered. -/
theorem test_queue_head : (after (.registerWrite .mgmt (BitVec.ofNat 48 (RegKind.quHead.at 0 0)) (natLe 4 64)) tailed).q .quHead 0 32 0 = 64 ∧
    (after (.registerWrite .mgmt (BitVec.ofNat 48 (RegKind.quHead.at 0 0)) (natLe 4 65)) tailed).q .quHead 0 32 0 = 0 := by decide
/-- R272: the fold of the row into the bank, and the column. -/
theorem test_dram_cell : dramCell 0x200 = (0, 0, 8) ∧ dramCell (3 * 65536 + 5 * 1024 + 64) = (6, 3, 1) := by decide
/-- R357, R346: an ITEM's header; the first twin frame sent after reset goes to role B's address under ether type 0x88B5. -/
theorem test_item_header : itemHdr 1 2 3 4 5 6 = [1, 0, 2, 0, 3, 0, 0, 0, 4, 0, 0, 0, 5, 0, 0, 0, 6, 0, 0, 0, 0, 0, 0, 0] := by decide
theorem test_twin_packets : let s : State := { twinOut := [TwMsg.itemAck 1 2 3 4, TwMsg.area 4096 (zeros 8177), TwMsg.drop 1 2 3] }
    s.twinPkts.map (fun p => (p.chan, p.psn, p.op, p.first, p.last, p.pay.length)) =
      [(0, 0, 4, true, true, 24), (2, 0, 1, true, false, 8184), (2, 1, 1, false, true, 9), (0, 1, 4, true, true, 24)] ∧
    (s.twinFrame { op := 4 } 0 0 0 0 0).take 14 = [2, 0, 0, 0, 0, 0xB0, 2, 0, 0, 0, 0, 0xA0, 0x88, 0xB5] := by decide
/-- R34: what runs past the end of the twin window is not sent back over it. -/
theorem test_twin_window_end : let s := upR (twinR 0x18)
    (after (.twinWindowAccess .mgmt 0x7FFFFFFFFFFF 2 none) s).rdata = [0, 0] ∧ (after (.twinWindowAccess .mgmt 0x7FFFFFFFFFFF 2 none) s).twinOut = s.twinOut := by decide
/-- A frame for another node is discarded with reason 8; an ACK within the window frees what it covers (R295, R305). -/
theorem test_discard : (after (.ack 0 (frame (pkt 7 6 0 []))) { ctxS 2 0 {} with regs := (RegKind.faNode.at 0, 0x10009#64) :: (ctxS 2 0 {}).regs }).fld .faDiscard 0 64 0 8 = 1 := by
  decide
theorem test_ack : (((ctxS 2 0 { out := [tx 1 0xFFFFFF, tx 1 0] }).pktIn 0 { rxp 7 0 [] with apsn := 0 }).ctx 0).out = [tx 1 0] := by decide
/-- R406: die 4 carries a flash, so a trip there starts no flush. -/
theorem test_trip : let s := after (.thermTrip 3 115) { up with journalValid := true }
    s.flush = some .trip ∧ s.thermN = false ∧ (after (.thermTrip 4 115) { up with journalValid := true }).flush = none := by decide
/-- R397: the map's first byte is its version, and a read leaves OFFSET after what it read. -/
theorem test_i3c : (after (.i3cPrivateRead ⟨2, false⟩) up).i3cOut = [1, 1] ∧ (after (.i3cPrivateRead ⟨2, false⟩) up).i3cOffset = 2 := by decide
/-- R488: the DR of IDCODE, and the IR a capture shows. -/
theorem test_idcode : up.drCapture.take 12 = [true, true, false, true, false, false, true, true, true, false, true, false] ∧ up.irCapture = 1 := by decide

end Sys2Proof.Tests
end

section
/-! SUPPORT. A command on a device in which nothing waits is what it does by itself, and an access that no boundary cuts is one part. -/

namespace Sys2Proof.Machine

/-! ### Branches -/

/-- A choice has a value when the branch taken has it. -/
theorem ite_eq_or {α : Type} {p : Prop} [Decidable p] {x y z : α} : (if p then x else y) = z ↔ (p ∧ x = z) ∨ (¬ p ∧ y = z) := by
  by_cases h : p
  · simp only [h, if_true, true_and, not_true_eq_false, false_and, or_false]
  · simp only [h, if_false, false_and, not_false_eq_true, true_and, false_or]
/-- A choice whose second branch agrees with the first is the first. -/
theorem ite_eq_first {α : Type} {p : Prop} [Decidable p] {x y : α} (h : ¬ p → y = x) : (if p then x else y) = x := by
  by_cases hp : p
  · rw [if_pos hp]
  · rw [if_neg hp, h hp]

/-! ### Nothing waits -/

/-- No register write of a unit is on its way. -/
theorem State.settle_none (u : State) (h : u.unitOut = []) : u.settle = u := by
  unfold State.settle
  rw [h]
  show ({ u with unitOut := [] } : State) = u
  rw [← h]
/-- On a device in which nothing waits, nothing is carried out beside a command's own effect. -/
theorem State.settle_pump_still (u : State) (h : u.still) : u.pump.settle = u := by
  obtain ⟨hseg, hunit, hheld, hxoff, -⟩ := h
  rw [State.pump_idle u hseg hheld hxoff, State.settle_none u hunit]
/-- A command that leaves nothing waiting, and clock and power alone, is its own effect. -/
theorem State.during_busy_still {s u : State} {f : State → State} (on : s.on = true) (e : f s = u) (hs : u.still) (hd : s.during u = u) :
    s.during (s.busy f) = u := by
  rw [State.busy_on s f on, e, State.settle_pump_still u hs, hd]

/-- A change of memory and registers leaves clock and power alone. -/
theorem MemFrame.during {s u : State} (h : MemFrame s u) : s.during u = u := by
  unfold MemFrame at h
  rw [h]
  rfl
/-- A change of memory and registers that sends no register write leaves nothing waiting. -/
theorem MemFrame.still {s u : State} (h : MemFrame s u) (ho : u.unitOut = s.unitOut) (hs : s.still) : u.still := by
  obtain ⟨hseg, hunit, hheld, hxoff, hlost⟩ := hs
  unfold MemFrame at h
  refine ⟨?_, ho.trans hunit, ?_, ?_, ?_⟩ <;> rw [h]
  · exact hseg
  · exact hheld
  · exact hxoff
  · exact hlost
theorem EvFrame.unitOut {s u : State} (h : EvFrame s u) : u.unitOut = s.unitOut := by
  unfold EvFrame at h
  rw [h]
theorem EvFrame.still {s u : State} (h : EvFrame s u) (hs : s.still) : u.still := h.mem.still h.unitOut hs
theorem EvFrame.during {s u : State} (h : EvFrame s u) : s.during u = u := h.mem.during
theorem State.unmapped_evFrame (s : State) (src a : Nat) (m : Master) : EvFrame s (s.unmapped src a m) := State.event_frame _ _ _ _

/-! ### One part (R36) -/

/-- An access that no boundary of R36 cuts is one part. -/
theorem State.parts_one (s : State) (a n : Nat) (h0 : 0 < n) (h : n ≤ s.runTo a) : s.parts a n = [(a, n)] := by
  have hk : max 1 (min n (s.runTo a)) = n := by omega
  have hn : (n == 0) = false := by simpa using Nat.ne_of_gt h0
  have hz (f b : Nat) : s.cut f b 0 = [] := by cases f <;> simp [State.cut]
  have hc (f : Nat) : s.cut (f + 1) a n = [(a, n)] := by simp [State.cut, hn, hk, hz]
  unfold State.parts
  rw [show n / 4096 + 8 = (n / 4096 + 7) + 1 from rfl, hc]
  rfl
/-- Such an access outside the tiles is served whole. -/
theorem State.runs_whole (s : State) (a n : Nat) (h0 : 0 < n) (h : n ≤ s.runTo a) (hp : ∀ c off, s.place a ≠ .tile c off) :
    s.runs a n = [(a, n)] := by
  unfold State.runs
  rw [State.parts_one s a n h0 h]
  cases hq : s.place a with
  | tile c off => exact absurd hq (hp c off)
  | _ => simp [hq]
/-- So is one of a tile's registers. -/
theorem State.runs_tileRegs (s : State) (a n c off : Nat) (h0 : 0 < n) (h : n ≤ s.runTo a) (hp : s.place a = .tile c off)
    (ho : 0x130000 ≤ off) : s.runs a n = [(a, n)] := by
  unfold State.runs
  rw [State.parts_one s a n h0 h]
  simp [hp, Nat.not_lt.2 ho]
/-- The bytes of the only part of a write are all of them. -/
theorem slice_only (d : List Byte) (a : Nat) : slice d ((a + 2 ^ 48 - a) % 2 ^ 48) d.length = d := by
  rw [Nat.add_sub_cancel_left, Nat.mod_self, slice_all]

end Sys2Proof.Machine
end

section
/-! SUPPORT. The registers of a tile: one 32-bit read or write, case by case, and a write of a master that reaches one (R6, R11-R14, R109). -/

namespace Sys2Proof.Machine

/-! ### One 32-bit access -/

theorem regHit_word {find : Nat → Option Bool} {a : Nat} (h : find a = some false) : regHit find a = .word := by simp [regHit, h]
theorem regHit_low {find : Nat → Option Bool} {a : Nat} (h : find a = some true) : regHit find a = .low := by simp [regHit, h]
/-- A high half lies 4 bytes above a 64-bit register. -/
theorem regHit_high {find : Nat → Option Bool} {a b : Nat} (h : regHit find a = .high b) : b + 4 = a ∧ find b = some true := by
  unfold regHit at h
  split at h
  · cases h
  · cases h
  · split at h
    · rename_i hc
      simp only [Bool.and_eq_true, beq_iff_eq] at hc
      cases h
      exact ⟨by omega, hc.2⟩
    · cases h

variable (t : TileId) (T : Tile) (m : Master) (o v : Nat)

theorem tileRead32_word (h : tileRegAt o = some false) : tileRead32 t T m o = (tileClear T o, tilePeek t T o % 2 ^ 32, true) := by
  simp [tileRead32, read32, regHit_word h]
theorem tileRead32_low (h : tileRegAt o = some true) :
    tileRead32 t T m o =
      (tileClear { T with latches := { T.latches with rd := latchSet T.latches.rd m o (BitVec.ofNat 32 (tilePeek t T o / 2 ^ 32)) } } o,
        tilePeek t T o % 2 ^ 32, true) := by
  simp [tileRead32, read32, regHit_low h, Nat.shiftRight_eq_div_pow]
theorem tileRead32_high_latched (b : Nat) (h : regHit tileRegAt o = .high b) (x : BitVec 32) (hx : latchFind T.latches.rd m b = some x) :
    tileRead32 t T m o = ({ T with latches := { T.latches with rd := latchDrop T.latches.rd m b } }, x.toNat, true) := by
  simp [tileRead32, read32, h, hx]
theorem tileRead32_high_bare (b : Nat) (h : regHit tileRegAt o = .high b) (hx : latchFind T.latches.rd m b = none) :
    tileRead32 t T m o = (T, tilePeek t T b / 2 ^ 32, true) := by
  simp [tileRead32, read32, h, hx, Nat.shiftRight_eq_div_pow]
theorem tileRead32_none (h : regHit tileRegAt o = .none) : tileRead32 t T m o = (T, 0, false) := by
  simp [tileRead32, read32, h]

theorem tileWrite32_word (h : tileRegAt o = some false) : tileWrite32 T m o v = (tileWrite T o v maskLow, true, tileCfg o) := by
  simp [tileWrite32, write32, regHit_word h]
theorem tileWrite32_low (h : tileRegAt o = some true) :
    tileWrite32 T m o v =
      ({ T with latches := { rd := latchDrop T.latches.rd m o, wr := latchSet T.latches.wr m o (BitVec.ofNat 32 v) } }, true, false) := by
  simp [tileWrite32, write32, regHit_low h]
/-- No 64-bit register has a CFG field. -/
theorem tileCfg_wide (b : Nat) (h : tileRegAt b = some true) : tileCfg b = false := by
  unfold tileCfg
  rw [beq_eq_false_iff_ne]
  rintro rfl
  exact absurd h (by decide)
theorem tileWrite32_high_held (b : Nat) (h : regHit tileRegAt o = .high b) (lo : BitVec 32) (hl : latchFind T.latches.wr m b = some lo) :
    tileWrite32 T m o v =
      (tileWrite { T with latches := { rd := latchDrop T.latches.rd m b, wr := latchDrop T.latches.wr m b } } b (lo.toNat + v * 2 ^ 32)
        maskAll, true, false) := by
  simp [tileWrite32, write32, h, hl, tileCfg_wide b (regHit_high h).2]
theorem tileWrite32_high_bare (b : Nat) (h : regHit tileRegAt o = .high b) (hl : latchFind T.latches.wr m b = none) :
    tileWrite32 T m o v =
      (tileWrite { T with latches := { rd := latchDrop T.latches.rd m b, wr := latchDrop T.latches.wr m b } } b (v * 2 ^ 32) maskHigh, true,
        false) := by
  simp [tileWrite32, write32, h, hl, tileCfg_wide b (regHit_high h).2]
theorem tileWrite32_none (h : regHit tileRegAt o = .none) : tileWrite32 T m o v = (T, false, false) := by
  simp [tileWrite32, write32, h]

/-- The tile once a register has been read while SEND_RETRY counted n: a read of SEND_RETRY itself clears it. -/
def Tile.retryRead (T : Tile) (o : Nat) (n : BitVec 32) : Tile := { T with sendRetry := if o = 0x1C then 0 else n }
theorem Tile.slot_retryRead (n : BitVec 32) (k : Nat) : (T.retryRead o n).slot k = T.slot k := rfl
/-- The only 32-bit register whose read clears something is SEND_RETRY. -/
theorem tileClear_word (h : tileRegAt o = some false) : tileClear T o = T.retryRead o T.sendRetry := by
  have h8 : o ≠ 0x1008 := by rintro rfl; exact absurd h (by decide)
  have h10 : o ≠ 0x1010 := by rintro rfl; exact absurd h (by decide)
  have h18 : o ≠ 0x1018 := by rintro rfl; exact absurd h (by decide)
  by_cases hr : o = 0x1C
  · simp [tileClear, Tile.retryRead, hr]
  · simp [tileClear, Tile.retryRead, hr, h8, h10, h18]

/-! ### Where the registers of a tile lie -/

theorem tileCode_lt : tileCode t < 2304 := by
  unfold tileCode
  omega
theorem tileRegAddr_place (s : State) (c : Nat) (hc : c < 2304) (ho : o < 0x10000) (hd : s.plain) :
    s.place (tileRegAddr c o) = .tile c (0x130000 + o) := by
  obtain ⟨hdiag, hearly⟩ := hd
  have e : dieBase = 0x210000000000 := rfl
  have hq : (tileRegAddr c o - 0x200000000000) / 0x400000 = c := by unfold tileRegAddr; omega
  have hm : tileRegAddr c o % 0x400000 = 0x130000 + o := by unfold tileRegAddr; omega
  have lo : 0x200000000000 ≤ tileRegAddr c o := by unfold tileRegAddr; omega
  have hi : tileRegAddr c o < 0x200400000000 := by unfold tileRegAddr; omega
  unfold State.place
  simp only [hdiag, hearly, Option.isSome_none, Bool.false_and, Bool.false_eq_true, if_false]
  rw [if_neg (by omega), if_neg (by omega), if_pos hi]
  simp only [hq, hm, ge_iff_le, Nat.not_le.2 hc, if_false]
theorem tileRegAddr_runTo (s : State) (c : Nat) (hc : c < 2304) (ho : o < 0x10000) : s.runTo (tileRegAddr c o) = 0x2D0000 - o := by
  have hm : tileRegAddr c o % 0x400000 = 0x130000 + o := by unfold tileRegAddr; omega
  have lo : 0x200000000000 ≤ tileRegAddr c o := by unfold tileRegAddr; omega
  have hi : tileRegAddr c o < 0x200400000000 := by unfold tileRegAddr; omega
  unfold State.runTo
  simp only
  rw [if_neg (by omega), if_neg (by omega), if_pos hi, hm]
  omega
/-- A write of a master to a register of a tile. -/
theorem State.memWrite_tileReg (s : State) (c : Nat) (d : List Byte) (hc : c < 2304) (ho : o < 0x10000) (h0 : 0 < d.length)
    (h : d.length ≤ 0x10000) (hd : s.plain) : s.memWrite m (tileRegAddr c o) d = s.tileRegWrite m c o d := by
  have hp := tileRegAddr_place o s c hc ho hd
  have hr : d.length ≤ s.runTo (tileRegAddr c o) := by rw [tileRegAddr_runTo o s c hc ho]; omega
  unfold State.memWrite
  rw [State.runs_tileRegs s _ _ c _ h0 hr hp (by omega)]
  simp only [List.foldl_cons, List.foldl_nil, hp, slice_only]
  rw [if_neg (by omega), if_pos (by omega), Nat.add_sub_cancel_left]
/-- A write of a 32-bit register that has no CFG field changes its tile alone. -/
theorem State.tileRegWrite_word (s : State) (c : Nat) (d : List Byte) (hl : d.length = 4) (h4 : o % 4 = 0) (h : tileRegAt o = some false)
    (h0 : o ≠ 0) : s.tileRegWrite m c o d = s.setTile c (tileWrite (s.tile c) o (leNat d) maskLow) := by
  have hcfg : tileCfg o = false := by simpa [tileCfg] using h0
  simp [State.tileRegWrite, hl, h4, State.tileSet32, tileWrite32_word _ _ _ _ h, hcfg]
theorem State.during_setTile (s : State) (c : Nat) : s.during (s.setTile c T) = s.setTile c T := rfl
theorem State.still_setTile (s : State) (c : Nat) (hs : s.still) : (s.setTile c T).still := hs
/-- **A command that writes a 32-bit register of a tile** on a device in which nothing waits. -/
theorem State.busy_tileReg (s : State) (c x : Nat) (hs : s.calm) (hc : c < 2304) (h : tileRegAt o = some false) (h4 : o % 4 = 0) (h0 : o ≠ 0)
    (ho : o < 0x10000) (hx : x < 2 ^ 32) :
    s.during (s.busy fun s => s.memWrite m (tileRegAddr c o) (natLe 4 x)) = s.setTile c (tileWrite (s.tile c) o x maskLow) := by
  obtain ⟨on, still, plain⟩ := hs
  have e : s.memWrite m (tileRegAddr c o) (natLe 4 x) = s.setTile c (tileWrite (s.tile c) o x maskLow) := by
    rw [State.memWrite_tileReg m o s c _ hc ho (by simp) (by simp) plain, State.tileRegWrite_word m o s c _ (by simp) h4 h h0, leNat_natLe,
      Nat.mod_eq_of_lt (by simpa using hx)]
  exact State.during_busy_still on e (State.still_setTile _ s c still) (State.during_setTile _ s c)

/-! ### TOKEN(n) and TOKEN_INC(n) (R83, R109) -/

theorem tileRegAt_token (n : Nat) (h : n < 128) : tileRegAt (0x100 + 4 * n) = some false := by
  unfold tileRegAt
  have h4 : (0x100 + 4 * n) % 4 = 0 := by omega
  simp only [h4, bne_self_eq_false, Bool.false_eq_true, if_false, beq_iff_eq, Bool.and_eq_true, decide_eq_true_eq]
  rw [if_neg (by omega), if_neg (by omega), if_neg (by omega), if_pos (by omega)]
theorem tileWrite_token (n mask : Nat) (h : n < 64) : tileWrite T (0x100 + 4 * n) v mask = T.setToken n (BitVec.ofNat 16 v) := by
  unfold tileWrite
  simp only [beq_iff_eq, Bool.and_eq_true, decide_eq_true_eq]
  rw [if_neg (by omega), if_neg (by omega), if_pos (by omega), show (0x100 + 4 * n - 0x100) / 4 = n by omega]
theorem tileWrite_tokenInc (n mask : Nat) (h : n < 64) : tileWrite T (0x200 + 4 * n) v mask = T.incToken n (v % 65536) := by
  unfold tileWrite
  simp only [beq_iff_eq, Bool.and_eq_true, decide_eq_true_eq]
  rw [if_neg (by omega), if_neg (by omega), if_neg (by omega), if_pos (by omega), show (0x200 + 4 * n - 0x200) / 4 = n by omega]
theorem Tile.setToken_eq (n : Nat) (x : BitVec 16) : T.setToken n x = { T with tokens := (T.setToken n x).tokens } := by
  unfold Tile.setToken
  split <;> rfl
/-- A token that would pass 65,535 is recorded in TOKEN_OVF. -/
theorem Tile.tokenOvf_incToken (n : Nat) :
    (T.incToken n v).tokenOvf = if n ≠ 0 ∧ (T.token n).toNat + v > 65535 then T.tokenOvf ||| (1#64 <<< n) else T.tokenOvf := by
  unfold Tile.incToken
  by_cases h0 : n = 0
  · simp [h0]
  · by_cases h : (T.token n).toNat + v > 65535 <;> simp [h0, h]

end Sys2Proof.Machine
end

section
/-! SUPPORT. The fields of a register, bit by bit, and what a write of a whole register does to them (R6, R9, R11). -/

namespace Sys2Proof.Machine

/-! ### Fields and masks -/

/-- Fields in rising order from bit n, none of them empty and none over another. -/
def fldsFrom : Nat → List Fld → Bool
  | _, [] => true
  | n, f :: l => decide (n ≤ f.lo ∧ 0 < f.w) && fldsFrom (f.lo + f.w) l
/-- Bits of a register. -/
def RegKind.width (k : RegKind) : Nat := if k.row.wide then 64 else 32
/-- Bytes of a register, to which it is aligned. -/
def RegKind.bytes (k : RegKind) : Nat := if k.row.wide then 8 else 4
/-- Field f holds bit b. -/
def Fld.holds (b : Nat) (f : Fld) : Bool := decide (f.lo ≤ b ∧ b < f.lo + f.w)

theorem RegKind.flds_sorted (k : RegKind) : fldsFrom 0 k.row.flds = true := by cases k <;> decide
theorem RegKind.flds_within (k : RegKind) : ∀ f ∈ k.row.flds, f.lo + f.w ≤ k.width := by cases k <;> decide
theorem RegKind.flds_nonempty (k : RegKind) : ∀ f ∈ k.row.flds, 0 < f.w := by cases k <;> decide
theorem RegKind.row_aligned (k : RegKind) : k.bytes ∣ k.row.base ∧ k.bytes ∣ k.row.s1 ∧ k.bytes ∣ k.row.s2 := by cases k <;> decide
theorem RegKind.width_le (k : RegKind) : k.width ≤ 64 := by
  unfold RegKind.width
  split <;> omega

/-- The mask of those fields of a list that satisfy p. -/
def maskOf (l : List Fld) (p : Fld → Bool) : Nat := ((l.filter p).map fun f => (2 ^ f.w - 1) <<< f.lo).sum
theorem RegKind.mask_eq (k : RegKind) (p : Fld → Bool) : k.mask p = maskOf k.row.flds p := rfl
theorem maskOf_cons (f : Fld) (l : List Fld) (p : Fld → Bool) :
    maskOf (f :: l) p = (if p f then (2 ^ f.w - 1) <<< f.lo else 0) + maskOf l p := by
  unfold maskOf
  cases h : p f <;> simp [h]
/-- Fields from bit n on have no bit below it. -/
theorem maskOf_dvd (p : Fld → Bool) (l : List Fld) : ∀ n, fldsFrom n l = true → 2 ^ n ∣ maskOf l p := by
  induction l with
  | nil => exact fun n _ => Nat.dvd_zero _
  | cons f l ih =>
    intro n h
    simp only [fldsFrom, Bool.and_eq_true, decide_eq_true_eq] at h
    obtain ⟨⟨hn, -⟩, hl⟩ := h
    rw [maskOf_cons]
    refine Nat.dvd_add ?_ (Nat.dvd_trans (Nat.pow_dvd_pow 2 (by omega)) (ih _ hl))
    split
    · rw [Nat.shiftLeft_eq]
      exact Nat.dvd_trans (Nat.pow_dvd_pow 2 hn) (Nat.dvd_mul_left _ _)
    · exact Nat.dvd_zero _
/-- The bits of one field. -/
theorem testBit_fld (f : Fld) (b : Nat) : ((2 ^ f.w - 1) <<< f.lo).testBit b = f.holds b := by
  rw [Nat.testBit_shiftLeft, Nat.testBit_two_pow_sub_one, Fld.holds, ← Bool.decide_and]
  exact decide_eq_decide.2 (by omega)
theorem fld_lt (f : Fld) : (2 ^ f.w - 1) <<< f.lo < 2 ^ (f.lo + f.w) := by
  rw [Nat.shiftLeft_eq, Nat.pow_add, Nat.mul_comm]
  exact Nat.mul_lt_mul_of_pos_left (Nat.sub_lt (Nat.two_pow_pos _) Nat.one_pos) (Nat.two_pow_pos _)
/-- **A bit of a mask** is set when the field that holds it satisfies p. -/
theorem testBit_maskOf (p : Fld → Bool) (b : Nat) (l : List Fld) :
    ∀ n, fldsFrom n l = true → (maskOf l p).testBit b = (l.find? (Fld.holds b)).any p := by
  induction l with
  | nil => simp [maskOf]
  | cons f l ih =>
    intro n h
    simp only [fldsFrom, Bool.and_eq_true, decide_eq_true_eq] at h
    obtain ⟨-, hl⟩ := h
    obtain ⟨q, hq⟩ := maskOf_dvd p l _ hl
    have hlow : (if p f then (2 ^ f.w - 1) <<< f.lo else 0) < 2 ^ (f.lo + f.w) := by
      split
      · exact fld_lt f
      · exact Nat.two_pow_pos _
    have hbit : (if p f then (2 ^ f.w - 1) <<< f.lo else 0).testBit b = (p f && f.holds b) := by
      cases p f with
      | false => simp
      | true => simpa using testBit_fld f b
    rw [maskOf_cons, Nat.add_comm, hq, Nat.two_pow_add_eq_or_of_lt hlow, Nat.testBit_or, hbit, ← hq, ih _ hl]
    by_cases hb : f.holds b = true
    · have above : (maskOf l p).testBit b = false := by
        simp only [Fld.holds, decide_eq_true_eq] at hb
        rw [hq, Nat.testBit_two_pow_mul, decide_eq_false (by omega), Bool.false_and]
      rw [← ih _ hl, above]
      simp [hb]
    · simp [hb]
theorem RegKind.testBit_mask (k : RegKind) (p : Fld → Bool) (b : Nat) : (k.mask p).testBit b = (k.row.flds.find? (Fld.holds b)).any p :=
  testBit_maskOf p b _ 0 k.flds_sorted
/-- The field that holds a bit lies within the register. -/
theorem RegKind.lt_width (k : RegKind) (b : Nat) (f : Fld) (h : k.row.flds.find? (Fld.holds b) = some f) : b < k.width := by
  have hin := k.flds_within f (List.mem_of_find?_eq_some h)
  have hb := List.find?_some h
  simp only [Fld.holds, decide_eq_true_eq] at hb
  omega
/-- A write of the whole register reaches a field exactly when there is one. -/
theorem RegKind.mask_whole (k : RegKind) (p : Fld → Bool) : (k.mask p &&& (2 ^ k.width - 1) != 0) = k.row.flds.any p := by
  have whole : k.mask p &&& (2 ^ k.width - 1) = k.mask p := by
    refine Nat.eq_of_testBit_eq fun b => ?_
    rw [Nat.testBit_and, Nat.testBit_two_pow_sub_one, k.testBit_mask]
    cases hf : k.row.flds.find? (Fld.holds b) with
    | none => rfl
    | some f => simp [k.lt_width b f hf]
  have fld (f : Fld) (hf : f ∈ k.row.flds) : (2 ^ f.w - 1) <<< f.lo ≠ 0 := by
    have hw := k.flds_nonempty f hf
    have := Nat.one_lt_two_pow (Nat.ne_of_gt hw)
    rw [Nat.shiftLeft_eq]
    exact Nat.ne_of_gt (Nat.mul_pos (by omega) (Nat.two_pow_pos _))
  rw [whole, Bool.eq_iff_iff, bne_iff_ne, List.any_eq_true]
  unfold RegKind.mask
  rw [ne_eq, List.sum_eq_zero_iff_forall_eq_nat]
  constructor
  · intro h
    simp only [List.mem_map, List.mem_filter] at h
    exact Classical.byContradiction fun hn => h fun x ⟨f, ⟨hf, hp⟩, _⟩ => absurd ⟨f, hf, hp⟩ hn
  · rintro ⟨f, hf, hp⟩ h
    exact fld f hf (h _ (List.mem_map_of_mem (List.mem_filter.2 ⟨hf, hp⟩)))

/-! ### A write under the access codes -/

theorem Acc.beq_eq (a b : Acc) : (a == b) = decide (a = b) := rfl

/-- A bit after a write that reaches it, by the access code of its field (R6). -/
def accBit (a : Option Acc) (old new : Bool) : Bool :=
  if a = some .rw then new else if a = some .w1c then old && !new else old

theorem State.plainWrite_is (s : State) (k : RegKind) (i j v mask : Nat) : ∃ r, s.plainWrite k i j v mask = { s with regs := r } := by
  unfold State.plainWrite
  dsimp only
  split
  · exact ⟨s.regs, rfl⟩
  · exact State.setReg_is _ _ _ _ _
/-- Another register is as it was. -/
theorem State.reg_plainWrite_ne (s : State) (k q : RegKind) (i j a b v mask : Nat) (hk : k.valid i j) (hq : q.valid a b)
    (h : (q, a, b) ≠ (k, i, j)) : (s.plainWrite k i j v mask).reg q a b = s.reg q a b := by
  unfold State.plainWrite
  dsimp only
  split
  · rfl
  · exact State.reg_setReg_ne _ _ _ _ _ _ _ _ hk hq h
/-- **A write of a whole register**, bit by bit. -/
theorem State.testBit_plainWrite (s : State) (k : RegKind) (i j v b : Nat) (hb : b < 64) :
    ((s.plainWrite k i j v (2 ^ k.width - 1)).reg k i j).testBit b =
      accBit ((k.row.flds.find? (Fld.holds b)).map Fld.acc) ((s.reg k i j).testBit b) (v.testBit b) := by
  let rwm := k.mask (fun f => f.acc == .rw) &&& (2 ^ k.width - 1)
  let w1m := k.mask (fun f => f.acc == .w1c) &&& (2 ^ k.width - 1) &&& v
  have masks : ((s.plainWrite k i j v (2 ^ k.width - 1)).reg k i j).testBit b =
      (((s.reg k i j).testBit b && !rwm.testBit b || v.testBit b && rwm.testBit b) && !w1m.testBit b) := by
    unfold State.plainWrite
    dsimp only
    split
    · rename_i h
      simp only [Bool.and_eq_true, beq_iff_eq] at h
      simp [rwm, w1m, h.1, h.2]
    · rw [State.reg_setReg, Nat.testBit_mod_two_pow]
      simp only [maskAll, Nat.testBit_and, Nat.testBit_or, Nat.testBit_xor, Nat.testBit_two_pow_sub_one, decide_eq_true hb, Bool.true_and,
        Bool.true_xor, rwm, w1m]
  rw [masks]
  simp only [rwm, w1m, Nat.testBit_and, RegKind.testBit_mask, Nat.testBit_two_pow_sub_one]
  cases hf : k.row.flds.find? (Fld.holds b) with
  | none => simp [accBit]
  | some f =>
    simp only [Option.any_some, Option.map_some, decide_eq_true (k.lt_width b f hf), Bool.and_true, accBit, Option.some.injEq]
    cases f.acc <;> simp [Acc.beq_eq]

/-! ### The command -/

/-- A register that has no action of its own. -/
theorem State.regAct_plain (s : State) (k : RegKind) (i j v mask : Nat) (h : k.acts = false) :
    s.regAct k i j v mask = s.plainWrite k i j v mask := by
  unfold State.regAct
  dsimp only
  split
  case h_12 => rfl
  all_goals exact absurd h (by decide)
/-- A write of a whole register that has a CFG field is recorded after READY (R9). -/
theorem State.cfgCheck_whole (s : State) (k : RegKind) (i j : Nat) (m : Master) :
    s.cfgCheck k i j (2 ^ k.width - 1) m =
      if s.ready && k.row.flds.any (fun f => f.acc == .cfg) then s.cfgIgnored (RegKind.src (k.at i j)) (k.at i j) m else s := by
  unfold State.cfgCheck
  rw [RegKind.mask_whole]
theorem RegKind.at_aligned (k : RegKind) (i j : Nat) : k.at i j % k.bytes = 0 := by
  obtain ⟨hb, h1, h2⟩ := k.row_aligned
  exact Nat.mod_eq_zero_of_dvd (Nat.dvd_add (Nat.dvd_add hb (Nat.dvd_mul_left_of_dvd h1 i)) (Nat.dvd_mul_left_of_dvd h2 j))
theorem RegKind.at_lt (k : RegKind) (i j : Nat) (hv : k.valid i j) : k.at i j < 2 ^ 48 := by
  obtain ⟨-, hl⟩ := k.at_bounds i j hv
  rcases kinds_room k with ⟨-, h⟩ | ⟨-, h⟩ | ⟨-, h⟩ <;> omega
/-- The write of a whole register that has no action of its own: a whole 64-bit write also drops halves that were kept (R12, R14). -/
theorem State.regWrite_whole (s : State) (m : Master) (k : RegKind) (i j : Nat) (data : List Byte) (hv : k.valid i j)
    (ha : k.acts = false) (hl : data.length = k.bytes) :
    ∃ L, s.regWrite m (k.at i j) data =
      (({ s with latches := L } : State).plainWrite k i j (leNat data) (2 ^ k.width - 1)).cfgCheck k i j (2 ^ k.width - 1) m := by
  have al := k.at_aligned i j
  unfold RegKind.bytes at al hl
  unfold RegKind.width
  cases hw : k.row.wide <;> simp only [hw, if_true, if_false, Bool.false_eq_true] at al hl ⊢
  · refine ⟨s.latches, ?_⟩
    rw [State.regWrite_word s m k i j data hv hw hl al, State.regAct_plain _ _ _ _ _ _ ha]
    rfl
  · refine ⟨write64 s.latches m (k.at i j), ?_⟩
    rw [State.regWrite_wide s m k i j data hv hw hl al, State.regAct_plain _ _ _ _ _ _ ha]
    rfl
theorem RegKind.regSized_whole (k : RegKind) (i j n : Nat) (h : n = k.bytes) : regSized (k.at i j) n = true := by
  have al := k.at_aligned i j
  subst h
  unfold regSized RegKind.bytes at *
  split at al <;> simp_all

end Sys2Proof.Machine
end

section
/-! Writes of registers, of TOKEN(n) and of TOKEN_INC(n). -/

namespace Sys2Proof.Machine

/-- The write of a whole register that has no action of its own. -/
theorem exec_registerWrite_whole (s : State) (m : Master) (k : RegKind) (i j : Nat) (data : List Byte) (hs : s.calm) (hv : k.valid i j)
    (ha : k.acts = false) (hl : data.length = k.bytes) :
    ∃ L, let u := ({ s with latches := L } : State).plainWrite k i j (leNat data) (2 ^ k.width - 1)
      exec (.registerWrite m (BitVec.ofNat 48 (k.at i j)) data) s =
        .next (if s.ready && k.row.flds.any (fun f => f.acc == .cfg) then u.cfgIgnored (RegKind.src (k.at i j)) (k.at i j) m else u) := by
  obtain ⟨on, still, plain⟩ := hs
  obtain ⟨L, hL⟩ := State.regWrite_whole s m k i j data hv ha hl
  refine ⟨L, ?_⟩
  have run : exec (.registerWrite m (BitVec.ofNat 48 (k.at i j)) data) s =
      .next (s.during (s.busy fun s => s.memWrite m (BitVec.ofNat 48 (k.at i j)).toNat data)) := rfl
  obtain ⟨r, hr⟩ := State.plainWrite_is ({ s with latches := L } : State) k i j (leNat data) (2 ^ k.width - 1)
  rw [run, BitVec.toNat_ofNat, Nat.mod_eq_of_lt (k.at_lt i j hv),
    State.busy_reg s m k i j data on still hv plain (k.regSized_whole i j _ hl), hL, State.cfgCheck_whole]
  dsimp only
  rw [hr]
  have frame : MemFrame s { s with latches := L, regs := r } := rfl
  split
  · rw [(frame.trans (State.cfgIgnored_frame _ _ _ _)).during]
  · rfl

/-- What a write of a whole register leaves. -/
theorem registerWrite_fields (s : State) (k : RegKind) (i j v : Nat) (L : Latches) (hv : k.valid i j) :
    let u := ({ s with latches := L } : State).plainWrite k i j v (2 ^ k.width - 1)
    u = { s with regs := u.regs, latches := u.latches } ∧
      (∀ (q : RegKind) (a b : Nat), q.valid a b → (q, a, b) ≠ (k, i, j) → u.reg q a b = s.reg q a b) ∧
      ∀ b, b < 64 → (u.reg k i j).testBit b = accBit ((k.row.flds.find? (Fld.holds b)).map Fld.acc) ((s.reg k i j).testBit b) (v.testBit b) := by
  refine ⟨?_, fun q a b hq hne => ?_, fun b hb => ?_⟩
  · obtain ⟨r, hr⟩ := State.plainWrite_is ({ s with latches := L } : State) k i j v (2 ^ k.width - 1)
    rw [hr]
  · exact State.reg_plainWrite_ne ({ s with latches := L } : State) k q i j a b v _ hv hq hne
  · exact State.testBit_plainWrite ({ s with latches := L } : State) k i j v b hb

theorem exec_tokenWrite_calm (s : State) (m : Master) (t : TileId) (tok : Fin 64) (v : BitVec 32) (hs : s.calm) :
    exec (.tokenWrite m t tok v) s =
      .next (s.setTile (tileCode t) ((s.tile (tileCode t)).setToken tok.val (BitVec.ofNat 16 v.toNat))) := by
  have run : exec (.tokenWrite m t tok v) s =
      .next (s.during (s.busy fun s => s.memWrite m (tileRegAddr (tileCode t) (0x100 + 4 * tok.val)) (natLe 4 v.toNat))) := rfl
  rw [run, State.busy_tileReg m _ s _ _ hs (tileCode_lt t) (tileRegAt_token _ (by omega)) (by omega) (by omega) (by omega) v.isLt,
    tileWrite_token _ _ _ _ tok.isLt]
theorem exec_tokenInc_calm (s : State) (m : Master) (t : TileId) (tok : Fin 64) (v : BitVec 32) (hs : s.calm) :
    exec (.tokenInc m t tok v) s = .next (s.setTile (tileCode t) ((s.tile (tileCode t)).incToken tok.val (v.toNat % 65536))) := by
  have run : exec (.tokenInc m t tok v) s =
      .next (s.during (s.busy fun s => s.memWrite m (tileRegAddr (tileCode t) (0x200 + 4 * tok.val)) (natLe 4 v.toNat))) := rfl
  have word : tileRegAt (0x200 + 4 * tok.val) = some false := by
    have := tileRegAt_token (64 + tok.val) (by omega)
    rwa [show 0x100 + 4 * (64 + tok.val) = 0x200 + 4 * tok.val by omega] at this
  rw [run, State.busy_tileReg m _ s _ _ hs (tileCode_lt t) word (by omega) (by omega) (by omega) v.isLt, tileWrite_tokenInc _ _ _ _ tok.isLt]

/-- Token n is the one named, and that one is not token 0. -/
theorem named_token (n k : Nat) : (n = k ∧ k ≠ 0) ↔ (n = k ∧ n ≠ 0) := by omega

/-- Settles O8: the write reaches the register it names, whose fields take it bit by bit under their access codes; a write of TOKEN(n) or
TOKEN_INC(n) is one of a tile's register. -/
theorem registerWrites : Obligations.RegisterWrites := by
  unfold Obligations.RegisterWrites
  refine ⟨fun s m k i j data hs hv ha hl => ?_, fun s m t tok v => ?_⟩
  · obtain ⟨L, run⟩ := exec_registerWrite_whole s m k i j data hs hv ha hl
    obtain ⟨frame, others, fields⟩ := registerWrite_fields s k i j (leNat data) L hv
    refine ⟨_, run, frame, others, fun b hb => ?_⟩
    rw [fields b hb]
    unfold Fld.holds
    cases (k.row.flds.find? fun f => decide (f.lo ≤ b ∧ b < f.lo + f.w)).map Fld.acc with
    | none => rfl
    | some a => cases a <;> rfl
  · intro T add hs
    refine ⟨⟨_, exec_tokenWrite_calm s m t tok v hs, State.onlyTile_setTile s _ _, ?_⟩,
      ⟨_, exec_tokenInc_calm s m t tok v hs, State.onlyTile_setTile s _ _, ?_⟩⟩
    · rw [State.tile_setTile_same]
      refine ⟨Tile.setToken_eq T tok.val _, fun n => ?_⟩
      rw [Tile.token_setToken]
      exact ite_congr (propext (named_token n tok)) (fun _ => rfl) fun _ => rfl
    · rw [State.tile_setTile_same]
      refine ⟨Tile.incToken_eq T tok.val _, fun n => ?_, Tile.tokenOvf_incToken T _ tok.val⟩
      rw [Tile.token_incToken]
      exact ite_congr (propext (named_token n tok)) (fun _ => rfl) fun _ => rfl

end Sys2Proof.Machine
end

section
/-! TREG (R99): an access of a task to its own tile's registers. -/

namespace Sys2Proof.Machine

/-! ### What an instruction of a tile brings -/

section
variable {s : State} {t : TileId} {busy : BitVec 8} {r : TRow} {k : Nat} {w : IWord} {eff : Tile → Nat → IWord → Tile × List TileOut}
  (h : Issues s t busy r k w)
include h

/-- An instruction that asks nothing of the device changes its tile alone. -/
theorem onlyTile_of_issues {V : Tile} (he : eff (issueFrame (s.tile (tileCode t)) k w) k w = (V, [])) :
    OnlyTile s (s.during (s.tileRow t (tileIssue r eff busy))) (tileCode t) ∧
      (s.during (s.tileRow t (tileIssue r eff busy))).tile (tileCode t) = V := by
  rw [State.tileRow_issues s t busy r k w eff h, he]
  exact ⟨State.onlyTile_setTile s (tileCode t) V, State.tile_setTile_same s (tileCode t) V⟩
/-- An instruction with one event raises it once its tile has changed. -/
theorem tileRow_event {V : Tile} (o : TileOut) (he : eff (issueFrame (s.tile (tileCode t)) k w) k w = (V, [o]))
    (ho : ∀ u : State, u.outs (tileCode t) [o] = u.tileOut (tileCode t) o) (hf : ∀ u : State, EvFrame u (u.tileOut (tileCode t) o)) :
    s.during (s.tileRow t (tileIssue r eff busy)) =
      (s.during (s.tileRow t (tileIssue r (fun U k w => ((eff U k w).1, [])) busy))).tileOut (tileCode t) o := by
  rw [State.tileRow_issues s t busy r k w eff h, State.tileRow_issues s t busy r k w _ h, he, ho]
  have set : MemFrame s (s.setTile (tileCode t) V) := rfl
  rw [(set.trans (hf _).mem).during]
  show _ = (s.during (s.setTile (tileCode t) V)).tileOut (tileCode t) o
  rw [set.during]
/-- The registers of the task that issues are those it had. -/
theorem issueFrame_sreg (hr : r ≠ .halt) (n : Nat) :
    ((issueFrame (s.tile (tileCode t)) k w).slot k).sreg n = ((s.tile (tileCode t)).slot k).sreg n := by
  have hw : w.row ≠ .halt := by rw [h.2.2.2.1]; exact hr
  rw [issueFrame_slot, if_pos ⟨rfl, hw⟩]
  rfl
end

theorem issueFrame_latches (T : Tile) (k : Nat) (w : IWord) : (issueFrame T k w).latches = T.latches := by
  rw [issueFrame_issued]
  rfl
theorem Slot.sreg_setS_eq (K : Slot) (d n : Nat) (v : BitVec 32) : (K.setS d v).sreg n = Sys2Proof.setS K.sreg d v n := by
  rw [Slot.sreg_setS]
  unfold Sys2Proof.setS setAt
  by_cases hd : d = 0 <;> simp [hd]

/-! ### The instruction -/

/-- The task, as a master, that runs in slot k of tile t. -/
abbrev taskMaster (t : TileId) (k : Nat) : Master := .task t (Fin.ofNat 8 k)

theorem ofNat32_mod (v : Nat) : BitVec.ofNat 32 (v % 2 ^ 32) = BitVec.ofNat 32 v := by
  apply BitVec.eq_of_toNat_eq
  simp

section
variable (t : TileId) (U : Tile) (k : Nat) (w : IWord)

theorem tregOp_read {V : Tile} {v : Nat} {ok : Bool} (hd : w.f 45 1 = 0) (hr : tileRead32 t U (taskMaster t k) (w.f 0 16) = (V, v, ok)) :
    tregOp t U k w =
      (signal (V.modSlot k fun K => K.setS (w.f 40 5) (BitVec.ofNat 32 v)) w, if ok then [] else [.unmapped k (w.f 0 16)]) := by
  unfold tregOp
  dsimp only
  rw [hd, if_pos (by decide), hr]
theorem tregOp_write {V : Tile} {ok cfg : Bool} (hd : w.f 45 1 = 1)
    (hw : tileWrite32 U (taskMaster t k) (w.f 0 16) ((U.slot k).sreg (w.f 40 5)).toNat = (V, ok, cfg)) :
    tregOp t U k w =
      (signal V w, (if ok then [] else [.unmapped k (w.f 0 16)]) ++ (if cfg then [.cfgIgnored k (w.f 0 16)] else [])) := by
  unfold tregOp
  dsimp only
  rw [hd, if_neg (by decide), hw]
end

/-- A word of TREG that issues names an aligned offset. -/
theorem treg_aligned {s : State} {t : TileId} {busy : BitVec 8} {k : Nat} {w : IWord} (h : Issues s t busy .treg k w) : w.f 0 16 % 4 = 0 := by
  obtain ⟨-, -, -, hrow, hfault⟩ := h
  unfold faultOf at hfault
  rw [hrow] at hfault
  dsimp only at hfault
  refine Classical.byContradiction fun ho => ?_
  have hb : (w.f 0 16 % 4 != 0) = true := by simpa using ho
  rw [hb] at hfault
  split at hfault
  · cases hfault
  · split at hfault
    · cases hfault
    · split at hfault <;> cases hfault
/-- Registers whose fields are all read-only: a write changes nothing. -/
theorem tileWrite_readOnly (T : Tile) (o v mask : Nat) (h : o ∈ [0x14, 0x18, 0x1C, 0x1004] ∨ (0x1800 ≤ o ∧ o < 0x2000)) :
    tileWrite T o v mask = T := by
  simp only [List.mem_cons, List.not_mem_nil, or_false] at h
  unfold tileWrite
  simp only [beq_iff_eq, Bool.and_eq_true, decide_eq_true_eq]
  iterate 10 rw [if_neg (by omega)]
/-- They are 32-bit registers. -/
theorem tileRegAt_readOnly (o : Nat) (h4 : o % 4 = 0) (h : o ∈ [0x14, 0x18, 0x1C, 0x1004] ∨ (0x1800 ≤ o ∧ o < 0x2000)) :
    tileRegAt o = some false := by
  rcases h with h | ⟨hlo, hhi⟩
  · simp only [List.mem_cons, List.not_mem_nil, or_false] at h
    rcases h with rfl | rfl | rfl | rfl <;> decide
  · unfold tileRegAt
    simp only [h4, bne_self_eq_false, Bool.false_eq_true, if_false, beq_iff_eq, Bool.and_eq_true, Bool.or_eq_true, decide_eq_true_eq]
    iterate 11 rw [if_neg (by omega)]
    rw [if_pos ⟨hlo, hhi⟩]
theorem tileWrite_tileId (T : Tile) (v mask : Nat) : tileWrite T 0 v mask = T := rfl

end Sys2Proof.Machine
end

section
/-! TREG, case by case: 32-bit registers, halves of 64-bit ones, and offsets that no register has (R6, R9, R12, R14, R35, R99). -/

namespace Sys2Proof.Machine

section
variable {s : State} {t : TileId} {busy : BitVec 8} {k : Nat} {w : IWord} (h : Issues s t busy .treg k w)
include h

/-- A read of a mapped register. -/
theorem treg_reads {V : Tile} {v : Nat} (hd : w.f 45 1 = 0)
    (hr : tileRead32 t (issueFrame (s.tile (tileCode t)) k w) (taskMaster t k) (w.f 0 16) = (V, v, true)) :
    ∃ s', exec (.treg t busy) s = .next s' ∧ OnlyTile s s' (tileCode t) ∧
      s'.tile (tileCode t) = (V.modSlot k fun K => K.setS (w.f 40 5) (BitVec.ofNat 32 v)).incToken w.sig 1 :=
  ⟨_, rfl, onlyTile_of_issues h (tregOp_read t _ k w hd hr)⟩
/-- A write of a mapped register without a CFG field. -/
theorem treg_writes {V : Tile} (hd : w.f 45 1 = 1)
    (hw : tileWrite32 (issueFrame (s.tile (tileCode t)) k w) (taskMaster t k) (w.f 0 16)
      (((s.tile (tileCode t)).slot k).sreg (w.f 40 5)).toNat = (V, true, false)) :
    ∃ s', exec (.treg t busy) s = .next s' ∧ OnlyTile s s' (tileCode t) ∧ s'.tile (tileCode t) = V.incToken w.sig 1 := by
  rw [← issueFrame_sreg h (by decide)] at hw
  exact ⟨_, rfl, onlyTile_of_issues h (tregOp_write t _ k w hd hw)⟩
/-- A write that changes nothing of the tile and raises no event. -/
theorem treg_writes_nothing (hd : w.f 45 1 = 1)
    (hw : tileWrite32 (issueFrame (s.tile (tileCode t)) k w) (taskMaster t k) (w.f 0 16)
      (((s.tile (tileCode t)).slot k).sreg (w.f 40 5)).toNat = (issueFrame (s.tile (tileCode t)) k w, true, false)) :
    ∃ s', exec (.treg t busy) s = .next s' ∧ Ran s s' t k w id (((s.tile (tileCode t)).slot k).pc + 1)
      ((s.tile (tileCode t)).slot k).sreg ((s.tile (tileCode t)).slot k).areg := by
  rw [← issueFrame_sreg h (by decide)] at hw
  exact ⟨_, rfl, ran_none s t busy .treg k w (tregOp t) h (by decide) (tregOp_write t _ k w hd hw)⟩
/-- A write that changes nothing of the tile and raises one event. -/
theorem treg_writes_event {ok cfg : Bool} (o : TileOut) (hd : w.f 45 1 = 1)
    (hw : tileWrite32 (issueFrame (s.tile (tileCode t)) k w) (taskMaster t k) (w.f 0 16)
      (((s.tile (tileCode t)).slot k).sreg (w.f 40 5)).toNat = (issueFrame (s.tile (tileCode t)) k w, ok, cfg))
    (he : (if ok then [] else [TileOut.unmapped k (w.f 0 16)]) ++ (if cfg then [TileOut.cfgIgnored k (w.f 0 16)] else []) = [o])
    (ho : ∀ u : State, u.outs (tileCode t) [o] = u.tileOut (tileCode t) o) (hf : ∀ u : State, EvFrame u (u.tileOut (tileCode t) o)) :
    ∃ s' s'', exec (.treg t busy) s = .next s'' ∧ Ran s s' t k w id (((s.tile (tileCode t)).slot k).pc + 1)
      ((s.tile (tileCode t)).slot k).sreg ((s.tile (tileCode t)).slot k).areg ∧ s'' = s'.tileOut (tileCode t) o := by
  rw [← issueFrame_sreg h (by decide)] at hw
  have step := tregOp_write t _ k w hd hw
  rw [he] at step
  refine ⟨_, _, rfl, ?_, tileRow_event h o step ho hf⟩
  exact ran_none s t busy .treg k w (fun U k w => ((tregOp t U k w).1, [])) h (by decide) (by rw [step])

/-- A read of a 32-bit register: its value, and SEND_RETRY is cleared by being read (R6, R109). -/
theorem treg_reads_word (hd : w.f 45 1 = 0) (hw : tileRegAt (w.f 0 16) = some false) :
    ∃ s', exec (.treg t busy) s = .next s' ∧
      Ran s s' t k w (fun U => U.retryRead (w.f 0 16) (s.tile (tileCode t)).sendRetry)
        (((s.tile (tileCode t)).slot k).pc + 1)
        (Sys2Proof.setS ((s.tile (tileCode t)).slot k).sreg (w.f 40 5)
          (BitVec.ofNat 32 (tilePeek t (issueFrame (s.tile (tileCode t)) k w) (w.f 0 16))))
        ((s.tile (tileCode t)).slot k).areg := by
  have hrow : w.row ≠ .halt := by rw [h.2.2.2.1]; decide
  have step := tregOp_read t _ k w hd (tileRead32_word t (issueFrame (s.tile (tileCode t)) k w) (taskMaster t k) _ hw)
  rw [ofNat32_mod, tileClear_word _ _ hw] at step
  generalize BitVec.ofNat 32 (tilePeek t (issueFrame (s.tile (tileCode t)) k w) (w.f 0 16)) = v at step ⊢
  refine ⟨_, rfl, issued_signal s t busy .treg k w (tregOp t)
    (fun U => (U.retryRead (w.f 0 16) U.sendRetry).modSlot k fun K => K.setS (w.f 40 5) v)
    (fun U => U.retryRead (w.f 0 16) (s.tile (tileCode t)).sendRetry) (waitTaken _ w) _ _ h step ?_ (fun n => ?_) ?_
    ⟨fun j hj => ?_, ?_⟩⟩
  · intro U hU
    rw [← hU, signal, Tile.incToken_eq, issueFrame_issued]
    rfl
  · rw [Tile.token_modSlot]
    exact issueFrame_token _ k n w
  · rw [issueFrame_issued]
    rfl
  · rw [signal, Tile.slot_incToken, Tile.slot_modSlot, if_neg (Ne.symm hj)]
    exact (issueFrame_slot _ k j w).trans (if_neg fun hc => hj hc.1)
  · rw [signal, Tile.slot_incToken, Tile.slot_modSlot_same, Tile.slot_retryRead, issueFrame_slot, if_pos ⟨rfl, hrow⟩]
    exact ⟨Slot.setS_st _ _ _, Slot.setS_pc _ _ _, fun n => Slot.sreg_setS_eq _ _ n v, fun n => Slot.areg_setS _ _ n v,
      Slot.setS_code _ _ _⟩
/-- A read at an offset that no register has: zero, and the event of R35. -/
theorem treg_reads_unmapped (hd : w.f 45 1 = 0) (hn : regHit tileRegAt (w.f 0 16) = .none) :
    ∃ s' s'', exec (.treg t busy) s = .next s'' ∧
      Ran s s' t k w id (((s.tile (tileCode t)).slot k).pc + 1) (Sys2Proof.setS ((s.tile (tileCode t)).slot k).sreg (w.f 40 5) 0)
        ((s.tile (tileCode t)).slot k).areg ∧ s'' = s'.tileOut (tileCode t) (.unmapped k (w.f 0 16)) := by
  have step := tregOp_read t _ k w hd (tileRead32_none t (issueFrame (s.tile (tileCode t)) k w) (taskMaster t k) _ hn)
  refine ⟨_, _, rfl, ?_, tileRow_event h _ step (fun _ => rfl) fun u => State.unmapped_evFrame u _ _ _⟩
  refine ran_slot s t busy .treg k w (fun U k w => ((tregOp t U k w).1, [])) (fun K => K.setS (w.f 40 5) 0) _ _ _ h (by decide)
    (by rw [step]; rfl) ?_
  exact ⟨Slot.setS_st _ _ _, Slot.setS_pc _ _ _, fun n => Slot.sreg_setS_eq _ _ n 0, fun n => Slot.areg_setS _ _ n 0, Slot.setS_code _ _ _⟩
end

/-- Settles O22: a word of TREG that issues is one 32-bit access to the tile's registers, told case by case after what lies at its offset. -/
theorem tregAccesses : Obligations.TregAccesses := by
  unfold Obligations.TregAccesses
  intro s t busy k w T K o rx U m v L Leaves reads h
  have hL : U.latches = L := issueFrame_latches T k w
  refine ⟨treg_aligned h, fun hd hl => ?_, fun b hd hb => ?_, fun hd hl => ?_, fun b hd hb => ?_, fun hd ho => ?_, fun hd ho => ?_,
    fun hd hn => ?_, treg_reads_word h, treg_reads_unmapped h, fun hd hw h0 => ?_⟩
  case refine_1 =>
    have read := tileRead32_low t U m o hl
    rw [hL] at read
    obtain ⟨s', run, only, tile⟩ := treg_reads h hd read
    rw [ofNat32_mod] at tile
    exact ⟨s', run, only, tile⟩
  case refine_2 =>
    obtain ⟨hbo, -⟩ := regHit_high hb
    cases hx : latchFind L.rd m b with
    | some x =>
      have read := tileRead32_high_latched t U m o b hb x (by rw [hL]; exact hx)
      rw [hL] at read
      obtain ⟨s', run, leaves⟩ := treg_reads h hd read
      exact ⟨s', run, hbo, leaves⟩
    | none =>
      obtain ⟨s', run, leaves⟩ := treg_reads h hd (tileRead32_high_bare t U m o b hb (by rw [hL]; exact hx))
      exact ⟨s', run, hbo, leaves⟩
  case refine_3 =>
    have write := tileWrite32_low U m o v hl
    rw [hL] at write
    exact treg_writes h hd write
  case refine_4 =>
    cases hx : latchFind L.wr m b with
    | some lo =>
      have write := tileWrite32_high_held U m o v b hb lo (by rw [hL]; exact hx)
      rw [hL] at write
      exact treg_writes h hd write
    | none =>
      have write := tileWrite32_high_bare U m o v b hb (by rw [hL]; exact hx)
      rw [hL] at write
      exact treg_writes h hd write
  case refine_5 =>
    have write := tileWrite32_word U m o v (tileRegAt_readOnly o (treg_aligned h) ho)
    have h0 : tileCfg o = false := by
      simp only [List.mem_cons, List.not_mem_nil, or_false] at ho
      simp only [tileCfg, beq_eq_false_iff_ne]
      omega
    rw [tileWrite_readOnly U o v _ ho, h0] at write
    exact treg_writes_nothing h hd write
  case refine_6 =>
    have write := tileWrite32_word U m o v (by rw [ho]; decide)
    rw [ho, tileWrite_tileId, ← ho] at write
    exact treg_writes_event h (.cfgIgnored k o) hd write (by rw [show tileCfg o = true by rw [ho]; rfl]; rfl) (fun _ => rfl) fun u => State.event_frame u _ _ _
  case refine_7 =>
    exact treg_writes_event h (.unmapped k o) hd (tileWrite32_none U m o v hn) rfl (fun _ => rfl) fun u => State.unmapped_evFrame u _ _ _
  case refine_8 =>
    have write := tileWrite32_word U m o v hw
    rw [show tileCfg o = false by simpa [tileCfg] using h0] at write
    exact treg_writes h hd write

end Sys2Proof.Machine
end

section
/-! SUPPORT. One granule of sound memory as a master reads and writes it, and addresses that no unit answers (R35, R36, R271, R273, R274). -/

namespace Sys2Proof.Machine

/-! ### Bytes -/

theorem mgets_eq_map (m : KMap Byte) (a n : Nat) : mgets m a n = (List.range n).map fun i => mget m (a + i) := by
  induction n generalizing a with
  | zero => rfl
  | succ n ih =>
    rw [mgets, ih, List.range_succ_eq_map]
    simp only [List.map_cons, List.map_map, Nat.add_zero, List.cons.injEq, true_and]
    exact List.map_congr_left fun i _ => by simp only [Function.comp_apply]; congr 1; omega
theorem getD_mgets (m : KMap Byte) (a n i : Nat) (h : i < n) : (mgets m a n).getD i 0 = mget m (a + i) := by
  simp [mgets_eq_map, List.getD, h]
/-- What has been written is read. -/
theorem mgets_mputs (m : KMap Byte) (a : Nat) (l : List Byte) : mgets (mputs m a l) a l.length = l := by
  refine List.ext_getElem (length_mgets _ _ _) fun i h1 h2 => ?_
  simp [mgets_eq_map, mget_mputs, List.getD, h2]
/-- Bytes written back where they were read change nothing. -/
theorem mget_mputs_mgets (m : KMap Byte) (a n p : Nat) : mget (mputs m a (mgets m a n)) p = mget m p := by
  rw [mget_mputs, length_mgets]
  split
  · rw [getD_mgets _ _ _ _ (by omega)]
    congr 1
    omega
  · rfl
/-- A part of what has been read. -/
theorem slice_mgets (m : KMap Byte) (a N off n : Nat) (h : off + n ≤ N) : slice (mgets m a N) off n = mgets m (a + off) n := by
  have hl : (((mgets m a N).drop off).take n).length = n := by simp; omega
  unfold slice
  dsimp only
  rw [hl, Nat.sub_self, List.replicate_zero, List.append_nil]
  refine List.ext_getElem (by rw [hl, length_mgets]) fun i h1 h2 => ?_
  simp [mgets_eq_map, Nat.add_assoc]

/-- A key that a map does not list. -/
theorem kget_absent {α : Type} (m : KMap α) (k : Nat) (d : α) (h : ∀ x ∈ m, x.1 ≠ k) : kget m k d = d := by
  induction m with
  | nil => rfl
  | cons x r ih =>
    have hx : (x.1 == k) = false := by simpa using h x List.mem_cons_self
    unfold kget
    rw [hx]
    exact ih fun y hy => h y (List.mem_cons_of_mem _ hy)
theorem kdel_absent {α : Type} (m : KMap α) (k : Nat) (h : ∀ x ∈ m, x.1 ≠ k) : kdel m k = m := by
  induction m with
  | nil => rfl
  | cons x r ih =>
    have hx : (k == x.1) = false := by simpa using (h x List.mem_cons_self).symm
    unfold kdel
    rw [hx, ih fun y hy => h y (List.mem_cons_of_mem _ hy)]
    rfl

/-! ### Where a granule lies (R36, R271) -/

/-- Stacked memory answers where a region resolves to a stack that has not tripped. -/
theorem State.place_hbm {s : State} {a st loc : Nat} (h : s.place a = .hbm st loc) :
    a < 0x018000000000 ∧ s.resolve a = some (st, loc) ∧ s.tripped st = false := by
  unfold State.place at h
  simp only [ite_eq_or, reduceCtorEq, and_false, false_or, or_false] at h
  obtain ⟨-, -, ha, h⟩ := h
  cases hr : s.resolve a with
  | none => simp [hr] at h
  | some x =>
    simp only [hr, ite_eq_or, reduceCtorEq, and_false, false_or, Place.hbm.injEq] at h
    obtain ⟨ht, rfl, rfl⟩ := h
    exact ⟨ha, rfl, by simpa using ht⟩
/-- The fold of R271 moves whole pages: an address keeps its place in the granule. -/
theorem State.resolve_mod {s : State} {a st loc : Nat} (h : s.resolve a = some (st, loc)) : loc % 64 = a % 64 := by
  have page (x : Nat) : (x <<< 12 ||| a % 2 ^ 36 % 4096) % 64 = a % 64 := by
    have hs : x <<< 12 % 2 ^ 6 = 0 := by rw [Nat.shiftLeft_eq]; omega
    rw [show 64 = 2 ^ 6 from rfl, Nat.or_mod_two_pow, hs, Nat.zero_or]
    omega
  unfold State.resolve at h
  dsimp only at h
  split at h
  · cases h
  split at h
  · cases h
  split at h <;> obtain ⟨-, rfl⟩ := Prod.mk.inj (Option.some.inj h)
  · have := page (((a % 2 ^ 36) >>> 12) >>> 4)
    omega
  · have := page (((a % 2 ^ 36) >>> 12) >>> 2)
    omega
  · omega
/-- No boundary of R36 cuts a granule. -/
theorem State.runTo_granule (s : State) (a n : Nat) (ha : a < 0x018000000000) (h : a % 64 + n ≤ 64) : n ≤ s.runTo a := by
  unfold State.runTo
  simp only [ha, if_true]
  split <;> split <;> omega
theorem pieces_granule (a n : Nat) (h0 : 0 < n) (h : a % 64 + n ≤ 64) : pieces a n = [(a, n)] := by
  unfold pieces
  rw [if_neg (by simpa using Nat.ne_of_gt h0), show (a + n - 1) / 64 - a / 64 + 1 = 1 by omega]
  simp only [List.range_one, List.map_cons, List.map_nil, Nat.add_zero]
  rw [show max a (a / 64 * 64) = a by omega, show min (a + n) ((a / 64 + 1) * 64) - a = n by omega]
/-- The granule of an address within a stack. -/
theorem physOf_granule (st loc : Nat) : physOf st (loc / 64 * 64) / 64 = physOf st loc / 64 := by
  unfold physOf
  omega
theorem physOf_within (st loc : Nat) : physOf st (loc / 64 * 64) + loc % 64 = physOf st loc := by
  unfold physOf
  omega
theorem State.missed_mapped {s : State} {a st loc : Nat} (m : Master) (n : Nat) (hr : s.resolve a = some (st, loc))
    (ht : s.tripped st = false) : s.missed m none [(a, n)] = s := by
  simp [State.missed, State.missing, hr, ht]

/-! ### A granule without a bad symbol (R273, R274) -/

/-- Nothing differs but the marks of an uncorrectable granule and what events change. -/
def MarkFrame (s t : State) : Prop :=
  t = { s with regs := t.regs, poison := t.poison, ueSince := t.ueSince, events := t.events, lost := t.lost }
theorem MarkFrame.trans {s t u : State} (h : MarkFrame s t) (k : MarkFrame t u) : MarkFrame s u := by
  unfold MarkFrame at *
  rw [k, h]
theorem EvFrame.mark {s t : State} (h : EvFrame s t) : MarkFrame s t := by
  unfold EvFrame MarkFrame at *
  rw [h]
theorem State.uncorrectable_mark (s : State) (m : Master) (a st loc : Nat) : MarkFrame s (s.uncorrectable m a st loc) := by
  have ecc : MarkFrame s (s.satFld .stEcc 32 32 1 st) := (State.setFld_frame _ _ _ _ _ _ _).mark
  have reg (u : State) (k : RegKind) (v : Nat) : MarkFrame u (u.setReg k v st) := (State.setReg_frame _ _ _ _ _).mark
  have marks (u : State) (p q : List Nat) : MarkFrame u { u with poison := p, ueSince := q } := rfl
  have spill (u : State) : MarkFrame u (match m with
      | .portDie p => if u.fld .qmSpill 0 48 p.val ≤ a && a < u.fld .qmSpill 0 48 p.val + u.fld .qmSpill 48 14 p.val * 2 ^ 20 then
          u.promiseVoid 3 0 else u
      | _ => u) := by
    split
    · split
      · exact (State.promiseVoid_frame _ _ _).mark
      · rfl
    · rfl
  exact ((((ecc.trans (reg _ .stUeAddr _)).trans (reg _ .stUeKind _)).trans (marks _ _ _)).trans (State.event_frame _ _ _ _).mark).trans
    (spill _)

/-- The check of a sound granule that is not POISONED. -/
theorem State.checked_sound (s : State) (m : Master) (a st loc : Nat) (hs : s.sound (physOf st loc / 64)) (hp : physOf st loc / 64 ∉ s.poison) :
    s.checked m a st loc = (s, mgets s.hbm (physOf st (loc / 64 * 64)) 64, false) := by
  have hb : badSymbols [] = [] := by decide
  have hc : s.poison.contains (physOf st loc / 64) = false := by simpa using hp
  unfold State.checked
  simp only [physOf_granule, kget_absent s.upset _ _ hs, kdel_absent s.upset _ hs, hb, hc, List.length_nil]
  rfl
/-- The check of a sound granule changes no byte and sends nothing, POISONED or not. -/
theorem State.checked_sound_bytes (s : State) (m : Master) (a st loc : Nat) (hs : s.sound (physOf st loc / 64)) :
    (∀ p, mget (s.checked m a st loc).1.hbm p = mget s.hbm p) ∧ (s.checked m a st loc).1.unitOut = s.unitOut := by
  by_cases hp : physOf st loc / 64 ∈ s.poison
  · have hc : s.poison.contains (physOf st loc / 64) = true := by simpa using hp
    let h := mputs s.hbm (physOf st (loc / 64 * 64)) (mgets s.hbm (physOf st (loc / 64 * 64)) 64)
    let v : State := { s with upset := kdel s.upset (physOf st loc / 64), hbm := h }
    have he : (s.checked m a st loc).1 = v.uncorrectable m a st loc := by
      unfold State.checked
      simp only [physOf_granule, kget_absent s.upset _ _ hs, hc, Bool.or_true, if_true]
      rfl
    have mark := State.uncorrectable_mark v m a st loc
    unfold MarkFrame at mark
    rw [he, mark]
    exact ⟨fun p => mget_mputs_mgets _ _ _ p, rfl⟩
  · rw [State.checked_sound s m a st loc hs hp]
    exact ⟨fun p => rfl, rfl⟩

theorem State.strike_nil (s : State) (g : Nat) : s.strike g [] = s := rfl
theorem State.count_is (s : State) (k : RegKind) (n i j : Nat) : ∃ r, s.count k n i j = { s with regs := r } := State.setFld_is _ _ _ _ _ _ _

/-- A read of a sound granule that is not POISONED is counted. -/
theorem State.granule_sound (s : State) (m : Master) (a st loc : Nat) (hs : s.sound (physOf st loc / 64)) (hp : physOf st loc / 64 ∉ s.poison) :
    s.granule m a st loc [] = (s.count .stRd 64 st, mgets s.hbm (physOf st (loc / 64 * 64)) 64, false) := by
  unfold State.granule
  rw [State.strike_nil]
  obtain ⟨r, hr⟩ := s.count_is .stRd 64 st 0
  rw [hr]
  exact State.checked_sound ({ s with regs := r } : State) m a st loc hs hp
/-- A write within a sound granule writes its bytes and no other, and sends nothing. -/
theorem State.granuleWrite_sound (s : State) (m : Master) (a st loc : Nat) (d : List Byte) (hs : s.sound (physOf st loc / 64)) :
    (∃ h, (s.granuleWrite m a st loc d).hbm = mputs h (physOf st loc) d ∧ ∀ p, mget h p = mget s.hbm p) ∧
      (s.granuleWrite m a st loc d).unitOut = s.unitOut := by
  obtain ⟨r, hr⟩ := s.count_is .stWr 64 st 0
  unfold State.granuleWrite
  rw [State.strike_nil, hr]
  dsimp only
  split
  · exact ⟨⟨s.hbm, rfl, fun p => rfl⟩, rfl⟩
  · obtain ⟨q, hq⟩ := ({ s with regs := r } : State).count_is .stRd 64 st 0
    rw [hq]
    obtain ⟨bytes, out⟩ := State.checked_sound_bytes ({ s with regs := q } : State) m a st loc hs
    exact ⟨⟨_, rfl, bytes⟩, out⟩
/-- In a granule that is not POISONED nothing else changes but what counts the access. -/
theorem State.granuleWrite_unmarked (s : State) (m : Master) (a st loc : Nat) (d : List Byte) (hs : s.sound (physOf st loc / 64))
    (hp : physOf st loc / 64 ∉ s.poison) :
    let u := s.granuleWrite m a st loc d
    u = { s with hbm := u.hbm, poison := u.poison, regs := u.regs } ∧ ∀ g, g ∈ u.poison ↔ g ∈ s.poison := by
  obtain ⟨r, hr⟩ := s.count_is .stWr 64 st 0
  unfold State.granuleWrite
  rw [State.strike_nil, hr]
  dsimp only
  split
  · refine ⟨?_, fun g => ?_⟩
    · rw [kdel_absent s.upset _ hs]
    · rw [List.mem_filter]
      refine ⟨fun h => h.1, fun h => ⟨h, ?_⟩⟩
      rw [bne_iff_ne]
      rintro rfl
      exact hp h
  · obtain ⟨q, hq⟩ := ({ s with regs := r } : State).count_is .stRd 64 st 0
    rw [hq, State.checked_sound ({ s with regs := q } : State) m a st loc hs hp]
    exact ⟨rfl, fun g => Iff.rfl⟩

/-! ### Accesses of one part -/

/-- A write by a master within one granule. -/
theorem State.memWrite_granule (s : State) (m : Master) (a st loc : Nat) (d : List Byte) (hp : s.place a = .hbm st loc) (h0 : 0 < d.length)
    (h : a % 64 + d.length ≤ 64) : s.memWrite m a d = s.granuleWrite m a st loc d := by
  obtain ⟨ha, hr, ht⟩ := State.place_hbm hp
  unfold State.memWrite
  rw [State.runs_whole s a _ h0 (s.runTo_granule a _ ha h) (by simp [hp])]
  simp only [List.foldl_cons, List.foldl_nil, hp, slice_only, State.hbmWrite, pieces_granule a _ h0 h, State.missed_mapped m _ hr ht,
    State.writePieces, hr, ht, Nat.sub_self, slice_all]
  rfl
/-- A read by a master within one granule. -/
theorem State.memRead_granule (s : State) (m : Master) (a st loc n : Nat) (hp : s.place a = .hbm st loc) (h0 : 0 < n)
    (h : a % 64 + n ≤ 64) (hs : s.sound (physOf st loc / 64)) (hu : physOf st loc / 64 ∉ s.poison) :
    s.memRead m a n = (s.count .stRd 64 st, mgets s.hbm (physOf st loc) n) := by
  obtain ⟨ha, hr, ht⟩ := State.place_hbm hp
  have hm := State.resolve_mod hr
  have part : slice (mgets s.hbm (physOf st (loc / 64 * 64)) 64) (a % 64) n = mgets s.hbm (physOf st loc) n := by
    rw [slice_mgets _ _ _ _ _ (by omega), ← hm, physOf_within]
  unfold State.memRead
  rw [State.runs_whole s a _ h0 (s.runTo_granule a _ ha h) (by simp [hp])]
  simp only [List.foldl_cons, List.foldl_nil, hp, State.hbmRead, pieces_granule a _ h0 h, State.missed_mapped m _ hr ht, State.readPieces,
    hr, ht, Bool.false_eq_true, if_false, State.granule_sound s m a st loc hs hu, part, List.append_nil, List.nil_append]
/-- An access that no unit answers, within one part (R35). -/
theorem State.memWrite_entry (s : State) (m : Master) (a : Nat) (d : List Byte) (hp : s.place a = .entry) (h0 : 0 < d.length)
    (h : d.length ≤ s.runTo a) : s.memWrite m a d = s.unmapped (Master.entry m) a m := by
  unfold State.memWrite
  rw [State.runs_whole s a _ h0 h (by simp [hp])]
  simp only [List.foldl_cons, List.foldl_nil, hp]
theorem State.memRead_entry (s : State) (m : Master) (a n : Nat) (hp : s.place a = .entry) (h0 : 0 < n) (h : n ≤ s.runTo a) :
    s.memRead m a n = (s.unmapped (Master.entry m) a m, List.replicate n 0) := by
  unfold State.memRead
  rw [State.runs_whole s a _ h0 h (by simp [hp])]
  simp only [List.foldl_cons, List.foldl_nil, hp, List.nil_append]

end Sys2Proof.Machine
end

section
/-! Accesses of masters: memory, addresses that no unit answers, and the twin window (R34-R36, R273). -/

namespace Sys2Proof.Machine

/-! ### MASTER_ACCESS on a device in which nothing waits -/

theorem State.busy_congr {s : State} {f g : State → State} (e : f s = g s) : s.busy f = s.busy g := by
  unfold State.busy
  rw [e]
/-- A command that has no effect of its own leaves a device in which nothing waits as it is. -/
theorem State.busy_unchanged {s : State} {f : State → State} (e : f s = s) (hs : s.still) : s.busy f = s := by
  unfold State.busy
  rw [e, State.settle_pump_still s hs, ite_self]
/-- What has been answered last is no part of what waits, nor of clock and power. -/
theorem EvFrame.still_rdata {s u : State} (h : EvFrame s u) (hs : s.still) (l : List Byte) : ({ u with rdata := l } : State).still := h.still hs
theorem EvFrame.during_rdata {s u : State} (h : EvFrame s u) (l : List Byte) : s.during { u with rdata := l } = { u with rdata := l } := by
  show ({ s.during u with rdata := l } : State) = _
  rw [h.during]

/-- No packet of a unit is lost. -/
theorem State.packetLost_none (s : State) (m : Master) (a : Nat) (h : s.unitLost = []) : s.packetLost m a = false := by
  unfold State.packetLost
  rw [h]
  rfl
theorem State.access_write (s : State) (m : Master) (a : Addr) (d : List Byte) (h : s.unitLost = []) :
    s.access (.write m a d) = s.memWrite m a.toNat d := by
  simp [State.access, s.packetLost_none m _ h]
theorem State.access_read (s : State) (m : Master) (a : Addr) (n : Nat) (h : s.unitLost = []) :
    s.access (.read m a n) = { (s.memRead m a.toNat n).1 with rdata := (s.memRead m a.toNat n).2 } := by
  simp [State.access, s.packetLost_none m _ h]
/-- A write that sends no register write is its own effect. -/
theorem exec_write_still {s u : State} (m : Master) (a : Addr) (d : List Byte) (on : s.on = true) (hs : s.still)
    (e : s.memWrite m a.toNat d = u) (ho : u.unitOut = s.unitOut) : exec (.masterAccess (.write m a d)) s = .next u := by
  have frame : MemFrame s u := e ▸ s.memWrite_frame m a.toNat d
  have run : exec (.masterAccess (.write m a d)) s = .next (s.during (s.busy fun s => s.access (.write m a d))) := rfl
  rw [run, State.during_busy_still on ((s.access_write m a d hs.2.2.2.2).trans e) (frame.still ho hs) frame.during]
/-- A read that only counts and tells is its own effect, and answers. -/
theorem exec_read_still {s u : State} {l : List Byte} (m : Master) (a : Addr) (n : Nat) (on : s.on = true) (hs : s.still)
    (e : s.memRead m a.toNat n = (u, l)) (hf : EvFrame s u) : exec (.masterAccess (.read m a n)) s = .next { u with rdata := l } := by
  have run : exec (.masterAccess (.read m a n)) s = .next (s.during (s.busy fun s => s.access (.read m a n))) := rfl
  have acc : s.access (.read m a n) = { u with rdata := l } := by rw [s.access_read m a n hs.2.2.2.2, e]
  rw [run, State.during_busy_still on acc (hf.still_rdata hs l) (hf.during_rdata l)]

/-! ### The twin window (R34) -/

/-- While the twin cannot be reached nothing arrives. -/
theorem State.twinAccess_unreached (s : State) (m : Master) (a n : Nat) (d : Option (List Byte)) (h : s.twinReach = false) :
    s.twinAccess m a n d = s := by
  simp [State.twinAccess, h]

section
variable (s : State) (m : Master) (a n : Nat) (d : List Byte) (h : s.twinReach = true) (lo : 0x400000000000 ≤ a) (hi : a < 0x800000000000)
include h lo hi

/-- An access that stays in the window is the same access at the same place of this device. -/
theorem State.twinAccess_write_within (hw : a + d.length ≤ 0x800000000000) :
    s.twinAccess m a n (some d) = s.memWrite m (a - 0x400000000000) d := by
  have hk : min d.length (0x800000000000 - a) = d.length := by omega
  simp [State.twinAccess, h, lo, hi, hk]
theorem State.twinAccess_read_within (hw : a + n ≤ 0x800000000000) :
    s.twinAccess m a n none =
      { (s.memRead m (a - 0x400000000000) n).1 with rdata := (s.memRead m (a - 0x400000000000) n).2 } := by
  have hk : min n (0x800000000000 - a) = n := by omega
  simp [State.twinAccess, h, lo, hi, hk]
/-- What runs past the end of the window is not sent back: it is unmapped. -/
theorem State.twinAccess_write_past (hw : 0x800000000000 < a + d.length) :
    s.twinAccess m a n (some d) =
      (s.memWrite m (a - 0x400000000000) (d.take (0x800000000000 - a))).unmapped (Master.entry m) 0x400000000000 m := by
  have hk : min d.length (0x800000000000 - a) = 0x800000000000 - a := by omega
  have hl : 0x800000000000 - a < d.length := by omega
  simp [State.twinAccess, h, lo, hi, hk, hl]
theorem State.twinAccess_read_past (hw : 0x800000000000 < a + n) :
    s.twinAccess m a n none =
      ({ (s.memRead m (a - 0x400000000000) (0x800000000000 - a)).1 with
          rdata := (s.memRead m (a - 0x400000000000) (0x800000000000 - a)).2 ++ List.replicate (n - (0x800000000000 - a)) 0 } :
        State).unmapped (Master.entry m) 0x400000000000 m := by
  have hk : min n (0x800000000000 - a) = 0x800000000000 - a := by omega
  have hl : 0x800000000000 - a < n := by omega
  simp [State.twinAccess, h, lo, hi, hk, hl]
end

/-- Between the management window and the twin window no unit answers. -/
theorem State.place_gap (s : State) (a : Nat) (lo : 0x230040000000 ≤ a) (hi : a < 0x400000000000) : s.place a = .entry := by
  have e1 : dieBase = 0x210000000000 := rfl
  have e2 : portBase = 0x220000000000 := rfl
  have e3 : mgmtBase = 0x230000000000 := rfl
  unfold State.place
  refine ite_eq_first fun _ => ite_eq_first fun _ => ?_
  iterate 9 rw [if_neg (by omega)]
  rw [if_pos hi]
theorem State.runTo_gap (s : State) (a : Nat) (lo : 0x230040000000 ≤ a) (hi : a < 0x400000000000) : s.runTo a = 0x400000000000 - a := by
  have e1 : dieBase = 0x210000000000 := rfl
  have e2 : portBase = 0x220000000000 := rfl
  have e3 : mgmtBase = 0x230000000000 := rfl
  unfold State.runTo
  dsimp only
  iterate 9 rw [if_neg (by omega)]
  rw [if_pos hi]
/-- An event does not look at what was last read. -/
theorem State.event_rdata (s : State) (l : List Byte) (src typ : Nat) (data : List Byte) :
    ({ s with rdata := l } : State).event src typ data = { s.event src typ data with rdata := l } := by
  have hc : ({ s with rdata := l } : State).countClass (evClass typ) = { s.countClass (evClass typ) with rdata := l } := rfl
  unfold State.event
  dsimp only
  rw [hc]
  split
  · rfl
  · split <;> rfl
theorem State.unmapped_rdata (s : State) (l : List Byte) (src a : Nat) (m : Master) :
    ({ s with rdata := l } : State).unmapped src a m = { s.unmapped src a m with rdata := l } := State.event_rdata _ _ _ _ _

/-- The command of an access over the twin link. -/
theorem exec_twinWindowAccess (s : State) (m : Master) (a : Addr) (n : Nat) (d : Option (List Byte)) :
    exec (.twinWindowAccess m a n d) s = .next (s.during (s.busy fun s => s.twinAccess m a.toNat n d)) := rfl
theorem addr_window_sub (a : Addr) (lo : 0x400000000000 ≤ a.toNat) : (a - 0x400000000000#48).toNat = a.toNat - 0x400000000000 := by
  bv_omega

/-! ### The obligation -/

section
variable (s : State) (m : Master) (a : Addr) (n : Nat) (d : List Byte)

/-- Within the window: the same access at the same place of this device. -/
theorem twinWindow_within (lo : 0x400000000000 ≤ a.toNat) (hi : a.toNat < 0x800000000000) (lost : s.unitLost = []) (h : s.twinReach = true) :
    (a.toNat + d.length ≤ 0x800000000000 →
      exec (.twinWindowAccess m a n (some d)) s = exec (.masterAccess (.write m (a - 0x400000000000#48) d)) s) ∧
    (a.toNat + n ≤ 0x800000000000 →
      exec (.twinWindowAccess m a n none) s = exec (.masterAccess (.read m (a - 0x400000000000#48) n)) s) := by
  have same (d : Option (List Byte)) (acc : Access) (e : s.twinAccess m a.toNat n d = s.access acc) :
      exec (.twinWindowAccess m a n d) s = exec (.masterAccess acc) s := by
    rw [exec_twinWindowAccess, State.busy_congr (g := fun s => s.access acc) e]
    rfl
  refine ⟨fun hw => same _ _ ?_, fun hw => same _ _ ?_⟩
  · rw [s.access_write _ _ _ lost, addr_window_sub a lo, s.twinAccess_write_within m _ n d h lo hi hw]
  · rw [s.access_read _ _ _ lost, addr_window_sub a lo, s.twinAccess_read_within m _ n h lo hi hw]
/-- Past its end: the part before the end lies where no unit answers, the rest would fall into this device's own window. -/
theorem twinWindow_past (hi : a.toNat < 0x800000000000) (h : s.twinReach = true) (on : s.on = true) (hs : s.still)
    (gap : 0x630040000000 ≤ a.toNat) :
    let u := (s.unmapped (Master.entry m) (a.toNat - 0x400000000000) m).unmapped (Master.entry m) 0x400000000000 m
    (0x800000000000 < a.toNat + d.length → exec (.twinWindowAccess m a n (some d)) s = .next u) ∧
    (0x800000000000 < a.toNat + n → exec (.twinWindowAccess m a n none) s = .next { u with rdata := List.replicate n 0 }) := by
  have place := s.place_gap (a.toNat - 0x400000000000) (by omega) (by omega)
  have run := s.runTo_gap (a.toNat - 0x400000000000) (by omega) (by omega)
  have lo : 0x400000000000 ≤ a.toNat := by omega
  intro u
  have frame : EvFrame s u := (State.unmapped_evFrame _ _ _ _).trans (State.unmapped_evFrame _ _ _ _)
  refine ⟨fun hw => ?_, fun hw => ?_⟩
  · have e : s.twinAccess m a.toNat n (some d) = u := by
      have len : (d.take (0x800000000000 - a.toNat)).length = 0x800000000000 - a.toNat := by rw [List.length_take]; omega
      rw [s.twinAccess_write_past m _ n d h lo hi hw, s.memWrite_entry m _ _ place (by omega) (by omega)]
    rw [exec_twinWindowAccess, State.during_busy_still on e (frame.still hs) frame.during]
  · have e : s.twinAccess m a.toNat n none = { u with rdata := List.replicate n 0 } := by
      rw [s.twinAccess_read_past m _ n h lo hi hw, s.memRead_entry m _ _ place (by omega) (by omega), State.unmapped_rdata]
      dsimp only
      rw [List.replicate_append_replicate, show 0x800000000000 - a.toNat + (n - (0x800000000000 - a.toNat)) = n by omega]
    rw [exec_twinWindowAccess, State.during_busy_still on e (frame.still_rdata hs _) (frame.during_rdata _)]
/-- Unreached: nothing arrives. -/
theorem twinWindow_unreached (d : Option (List Byte)) (h : s.twinReach = false) (hs : s.still) :
    exec (.twinWindowAccess m a n d) s = .next s := by
  rw [exec_twinWindowAccess, State.busy_unchanged (s.twinAccess_unreached m _ n d h) hs]
  rfl

/-- A write within a granule of sound memory. -/
theorem masterWrite_granule (st loc : Nat) (on : s.on = true) (hs : s.still) (place : s.place a.toNat = .hbm st loc)
    (sound : s.sound (physOf st loc / 64)) (hd : d ≠ []) (hg : a.toNat % 64 + d.length ≤ 64) :
    ∃ s', exec (.masterAccess (.write m a d)) s = .next s' ∧ mgets s'.hbm (physOf st loc) d.length = d ∧
      (∀ p, ¬ (physOf st loc ≤ p ∧ p < physOf st loc + d.length) → mget s'.hbm p = mget s.hbm p) ∧
      (physOf st loc / 64 ∉ s.poison → s' = { s with hbm := s'.hbm, poison := s'.poison, regs := s'.regs } ∧
        ∀ g, g ∈ s'.poison ↔ g ∈ s.poison) := by
  obtain ⟨⟨h, bytes, rest⟩, out⟩ := s.granuleWrite_sound m a.toNat st loc d sound
  refine ⟨_, exec_write_still m a d on hs (s.memWrite_granule m _ st loc d place (List.length_pos_iff.2 hd) hg) out, ?_, fun p hp => ?_,
    s.granuleWrite_unmarked m _ st loc d sound⟩
  · rw [bytes, mgets_mputs]
  · rw [bytes, mget_mputs, if_neg hp, rest]
/-- A read within a granule of sound memory. -/
theorem masterRead_granule (st loc : Nat) (on : s.on = true) (hs : s.still) (place : s.place a.toNat = .hbm st loc)
    (sound : s.sound (physOf st loc / 64)) (h0 : 0 < n) (hg : a.toNat % 64 + n ≤ 64) (hp : physOf st loc / 64 ∉ s.poison) :
    ∃ s', exec (.masterAccess (.read m a n)) s = .next s' ∧ s'.rdata = mgets s.hbm (physOf st loc) n ∧
      s' = { s with rdata := s'.rdata, regs := s'.regs } :=
  ⟨_, exec_read_still m a n on hs (s.memRead_granule m _ st loc n place h0 hg sound hp) (State.setFld_frame _ _ _ _ _ _ _), rfl, rfl⟩
end

/-- Settles O9: within one granule an access is one granule's, an unmapped one is told of at the master's entry point, and one that came
over the twin link is this device's own at the same place. -/
theorem masterAccesses : Obligations.MasterAccesses := by
  unfold Obligations.MasterAccesses
  refine ⟨fun s m a d n st loc on hs => ⟨masterWrite_granule s m a d st loc on hs, masterRead_granule s m a n st loc on hs,
    fun place h0 hr => ?_, fun place hd hr => ?_⟩, fun s m a n d lo hi lost => ⟨twinWindow_within s m a n d lo hi lost,
    twinWindow_past s m a n d hi, fun h hs => ⟨twinWindow_unreached s m a n _ h hs, twinWindow_unreached s m a n _ h hs⟩⟩⟩
  · exact exec_read_still m a n on hs (s.memRead_entry m _ n place h0 hr) (State.unmapped_evFrame _ _ _ _)
  · exact exec_write_still m a d on hs (s.memWrite_entry m _ d place (List.length_pos_iff.2 hd) hr) (State.unmapped_evFrame _ _ _ _).unitOut

end Sys2Proof.Machine
end
